-- ==== Sys2Proof/Word.lean ====
section
/-!
DEFINITION. The word types of the Olueb and their plainest arithmetic (R9, R12).
-/

namespace Sys2Proof

/-- A 64-bit scalar word (07, R160). -/
abbrev Word := BitVec 64

/-- A byte of memory (R9). -/
abbrev Byte := BitVec 8

/-- A scalar register number, s0 to s63 (R61). -/
abbrev SReg := BitVec 6

/-- A mask register number, k0 to k7 (R67). -/
abbrev KReg := BitVec 3

/-- A lane return register number, q0 to q7 (R77). -/
abbrev QReg := BitVec 3

/-- `SExt(x, 64)` of R12. -/
def sext64 {n : Nat} (x : BitVec n) : Word := x.signExtend 64

/-- `ZExt(x, 64)` of R12. -/
def zext64 {n : Nat} (x : BitVec n) : Word := x.setWidth 64

/-- The bits `[lo + n - 1 : lo]` of a natural number. -/
def bitsOf (x lo n : Nat) : Nat := x / 2 ^ lo % 2 ^ n

/-- Bit `i` of a natural number. -/
def bitAt (x i : Nat) : Bool := x / 2 ^ i % 2 == 1

end Sys2Proof
end

