-- ==== Sys2Proof/Config.lean ====
section
/-!
DEFINITION. What the manual leaves open, as constants without a body: nothing can prove a value of one, so a statement
holds for every value (R6, R7). `State.free` counts the draws.
-/

namespace Sys2Proof.Config

/-- An undefined 64-bit value (R6): draw `n`, item `i` of that draw. Log entry 2. -/
opaque undef64 : Nat → Nat → BitVec 64

/-- An undefined byte (R6): draw `n`, item `i` of that draw. Log entry 2. -/
opaque undefByte : Nat → Nat → BitVec 8

/-- An unspecified choice (R7): the step or the engine reduces it to the outcomes that the rule lists. Log entry 2. -/
opaque pick : Nat → Nat

/-- Which of the 16 entries of a 64 KiB page serves a walk when they differ (R335, R2): by the entry that the walk reached and the
counter of draws. Log entry 48. -/
opaque mixedEntry : Nat → Nat → Nat

/-- The stack that a frame of a device lies in, and the channel of the stack that holds a 128-byte line (R22, R233 give no map). Log
entry 35. -/
opaque stackOf : Nat → Nat
opaque channelOf : Nat → Nat

/-- Whether a ready wave or path is too late for a port's choice, by the draw and its place: its word waits for one of the latencies that
the model leaves out (R143). Log entry 7. -/
opaque late : Nat → Nat → Bool

/-- The nanoseconds that pass in one step (R24 gives no count for a step). Log entry 7. -/
opaque elapsedNs : Nat → Nat

/-- Which value inside the bound of R53 a transcendental operation gives for an operand. Log entry 8. -/
opaque approxPick : Nat → BitVec 32 → Nat

/-- The sine or cosine of an argument beyond the domain of R53, before it is confined to [-1, 1]. Log entry 8. -/
opaque trigBeyond : Nat → BitVec 32 → BitVec 32

/-- Whether a partition's key list holds a signing key (R116, R118): device, partition, key. Log entry 9. -/
opaque keyEnrolled : Nat → Nat → Nat → Bool

/-- The verdict of the SLH-DSA-SHA2-128s verification (R118): key number, message, signature. Log entry 9. -/
opaque slhDsaVerify : Nat → List (BitVec 8) → List (BitVec 8) → Bool

/-- The image of a service core and the signature that it carries (R425): core. Log entry 9. -/
opaque serviceImage : Nat → List (BitVec 8)
opaque imageSignature : Nat → List (BitVec 8)

/-- Status HELD of a completion record (R339), whose number the manual does not give. Log entry 25. -/
opaque statusHeld : BitVec 64

/-- The figure that a temperature, power or wear sensor reports (R432, R434): sensor, sample. Log entry 10. -/
opaque sensor : Nat → Nat → Nat

end Sys2Proof.Config
end

