-- ==== Sys2Proof/Syntax.lean ====
section
/-!
DEFINITION. The syntax of the Olueb: one constructor of `Instr` for every row of spec/opcode_table.json. The scalar words of
R61 carry their fields; the lane operations carry a `LaneOp` (R74); the events are
named alone.
-/

namespace Sys2Proof

/-- A lane operation in long form (R74) with the STALL count of its word (R73): every bit of the 96-bit word that FORM and
op10 do not fix. -/
structure LaneOp where
  stall : BitVec 4
  d : BitVec 7
  a : BitVec 7
  b : BitVec 7
  c : BitVec 7
  k : BitVec 3
  ty : BitVec 4
  md : BitVec 13
  imm : BitVec 32
  deriving DecidableEq, Repr, Inhabited

/-- A short operation of a pair (R75). -/
structure ShortOp where
  op9 : BitVec 9
  d : BitVec 7
  a : BitVec 7
  b : BitVec 7
  k : BitVec 3
  ty : BitVec 4
  md : BitVec 8
  deriving DecidableEq, Repr, Inhabited

/-- The modes of a hoop bank (R229). -/
inductive BankMode where
  | cacheWay | scratchpad | fifo
  deriving DecidableEq, Repr, Inhabited

/-- What system software states when it creates a context (R96, R104, R296, R450, R334, R301). -/
structure ContextSpec where
  func : Nat
  svc : Bool
  bySvc : Nat
  slice : Nat
  quota : Nat
  launchCeiling : Nat
  root1 : Nat
  spillBase : Nat
  slotSize : Nat
  slotCount : Nat
  deriving DecidableEq, Repr, Inhabited

/-- A change the root monitor makes to a partition (R423, R435, R17). -/
inductive PartChange where
  | giveHoop (hoop : Nat)
  | takeHoop (hoop : Nat)
  | bindFunction (func root2 : Nat)
  | takeFrames (first count : Nat)
  deriving DecidableEq, Repr, Inhabited

/-- A unit that an uncorrected error poisons, or the state it strikes (R398, R399). -/
inductive ErrUnit where
  | memWord (addr : Nat)
  | sReg (wave : Nat) (r : SReg)
  | kReg (wave : Nat) (r : KReg)
  | qReg (wave : Nat) (r : QReg)
  | vReg (wave reg lane : Nat)
  | tileElem (team tile elem : Nat)
  | scratchWord (team off : Nat)
  | contextState (ctx : Nat)
  deriving DecidableEq, Repr, Inhabited

/-- An interface with a stored training record (R428). -/
inductive Interface where
  | ucie (die : Nat)
  | hbmChannel (stack chan : Nat)
  | rimPort (port : Nat)
  | hostLink (link : Nat)
  deriving DecidableEq, Repr, Inhabited

/-- A service-core access through a windowed pointer (R424). -/
inductive WinAccess where
  | load | store | fetch | kindLoad (kind : BitVec 8) | kindStore (kind : BitVec 8)
  deriving DecidableEq, Repr, Inhabited

/-- What an event of the table acts on: one constructor an event row, with the objects it names. The table gives an event no
bits, so its row in `Instr` carries nothing and finds what it acts on in the state's turn. -/
inductive Event where
  | trapEntry (wave : Nat)
  | handlerShareExpire (wave : Nat)
  | laneBlockEnd (wave : Nat)
  | laneResultWrite (wave path : Nat)
  | fragmentReload (dev core : Nat)
  | jointOperationComplete (op : Nat)
  | mjLatchTimeout (wave : Nat)
  | rendezvousTimeout (wave path : Nat)
  | launchRecordHead (port : Nat)
  | clusterPlace (cluster corner : Nat)
  | runListAdmit (cluster : Nat)
  | preemption (victim cluster corner : Nat)
  | idleTeamEvict (team : Nat)
  | completionMessage (launch : Nat)
  | timeSliceSwitch (dev part : Nat)
  | copyStart (copy : Nat)
  | chunkComplete (copy chunk : Nat)
  | chunkWord (copy chunk word : Nat)
  | copyStop (copy chunk : Nat)
  | timerFire (timer : Nat)
  | watchMatch (watch : Nat)
  | watchPoll (watch : Nat)
  | nameRehome (domain : Nat)
  | censusBroadcastArrive (census dev core : Nat)
  | censusComplete (census : Nat)
  | tmoveCommit (entry : Nat)
  | tloadReadPoint (copy : Nat)
  | tconvCheck (copy : Nat)
  | tconvCommit (copy : Nat)
  | tconvRetire (copy : Nat)
  | wcbAgeingExpire (dev core line : Nat)
  | wcbDrainRefused (dev core line : Nat) (teardown : Bool)
  | tokenWindowRefill (dev port : Nat)
  | accessCountAdd (dev core : Nat) (page : Nat) (drop : Bool)
  | invalidationComplete (req : Nat)
  | frameScrubComplete (dev frame : Nat)
  | lentFrameRelease (dev addr : Nat)
  | bankDrainComplete (dev hoop bank : Nat)
  | flitReceive (dev port : Nat) (flit : List Byte)
  | portDown (dev port : Nat)
  | requestTimeout (dev tag : Nat)
  | holdResponse (dev tag : Nat)
  | hostSnoop (dev addr : Nat) (data : List Byte)
  | hostCxlMemAccess (dev range addr len : Nat) (data : Option (List Byte))
  | hostPortWrite (dev func slot : Nat) (words : List Word)
  | hostLaunchWrite (dev func slot : Nat) (words : List Word)
  | hostPortRead (dev func slot bytes : Nat)
  | spdmRequest (dev block : Nat)
  | contextCreate (dev : Nat) (spec : ContextSpec)
  | kernelLoad (ctx : Nat) (container : Word) (sbase lbase dbase : Nat)
  | kernelUnload (ctx kernel : Nat)
  | contextEnable (ctx weight : Nat)
  | contextPark (ctx : Nat)
  | contextResume (ctx : Nat)
  | contextTerminate (ctx : Nat)
  | contextRelease (ctx : Nat)
  | invalidateStage1 (dev func tag ctxNum first len : Nat)
  | invalidateStage2 (dev func tag first len : Nat)
  | pageReady (ctx : Nat) (va : Word)
  | pageRefused (ctx : Nat) (va : Word)
  | freeFrames (dev part first count : Nat)
  | hoopBankControl (dev hoop bank : Nat) (mode : BankMode) (ctx : Option Nat)
  | setAgeingTimer (dev part ns : Nat)
  | tokenAllocation (dev port part tokens : Nat)
  | contextBucket (ctx port tokens : Nat)
  | launchPortCreate (ctx depth prio : Nat)
  | portWindowPlace (dev func slot port : Nat)
  | msixBind (dev func port vector : Nat)
  | windowUnmap (port : Nat) (va : Word)
  | setTimeSlice (dev part ns : Nat)
  | setMigrationThreshold (ctx threshold : Nat) (port : Option Nat)
  | holdReport (ctx : Nat)
  | hdmRange (dev range part base size : Nat)
  | assignFrames (dev first count : Nat) (code : BitVec 8)
  | domainAssign (dev part domain : Nat)
  | portMapWrite (dev port peer : Nat) (isY : Bool)
  | partitionChange (dev part : Nat) (change : PartChange)
  | functionTeardown (dev func : Nat)
  | teardownDrainExpire (dev func : Nat)
  | lentFrameReclaim (dev holder : Nat)
  | portRetrainRequest (dev port : Nat)
  | setPowerCap (dev watts : Nat)
  | powerCapEvaluate (dev watts : Nat)
  | powerGood (dev : Nat)
  | startStageB (dev root2 sysFirst sysCount w h : Nat)
  | dieJoin (dev die : Nat)
  | fullRetrainComplete (dev : Nat) (iface : Interface)
  | parkRequest (dev : Nat)
  | resumeRequest (dev : Nat)
  | iodUncorrectableError (dev : Nat)
  | uncorrectedError (dev store : Nat) (unit : ErrUnit)
  | restart (dev : Nat)
  | patrolScrub (dev frame : Nat)
  | hbmRecalibration (dev chan : Nat)
  | telemetrySample (dev : Nat)
  | telemetryRead (dev : Nat) (part : Option Nat)
  | wearCounterRead (dev : Nat)
  | hoursWrite (dev : Nat)
  | thermalCycle (dev : Nat)
  | powerLoss (dev : Nat)
  | orderlyPowerOff (dev : Nat)
  | rimLinkTrained (dev port : Nat)
  | correctedError (dev store part : Nat)
  | windowedAccess (dev core : Nat) (ptr : Word) (size : Nat) (acc : WinAccess) (data : List Byte)
  | windowInstruction (dev core idx : Nat) (entry : BitVec 128)
  | serviceCoreImageRestart (dev core : Nat)
  deriving DecidableEq, Repr

/-- The instructions and events of the Olueb, one constructor a row of the table. -/
inductive Instr where
  /-- SNOP (R181). Scalar no-operation; it has no effect. -/
  | snop
  /-- HALT (R111). With service privilege, stops every wave of the context, parks it and posts a halt record; without service privilege it traps PRIV. -/
  | halt
  /-- BKPT (R181). Traps BKPT precisely. -/
  | bkpt
  /-- TRAP (R181). Traps USER_TRAP precisely, with the trap code n in HINFO[5:0]. -/
  | trap (n : BitVec 6)
  /-- TRET (R393). Waits for the handler's blocks, applies the resumption of the cause, returns to ordinary level and releases the held blocks. -/
  | tret
  /-- TRET.SKIP (R393). Returns from the handler and passes over the trapping word or wait, or makes a stopped copy failed. -/
  | tretSkip
  /-- SYSRD (R108). Reads a system register into s[d], after the privilege and number checks and any LWAIT #0 wait. -/
  | sysrd (d : SReg) (n : BitVec 12)
  /-- SYSWR (R108). Writes the RW fields of a system register from s[d], trapping on RO-only registers and on non-zero reserved bits. -/
  | syswr (d : SReg) (n : BitVec 12)
  /-- HPC_WRITE (R390): the SYSWR of HPC at handler level, as a step of its own. -/
  | hpcWrite (d : SReg)
  /-- PERFRD (R109). Reads a 64-bit performance counter of the context, or of the partition with service privilege. -/
  | perfrd (d : SReg) (n : BitVec 12)
  /-- TIME (R110). Writes the time base into s[d]. -/
  | time (d : SReg)
  /-- SADD (R161). s[d] receives s[a] + s[b], modulo 2^64. -/
  | sadd (d a b : SReg)
  /-- SSUB (R161). s[d] receives s[a] − s[b]. -/
  | ssub (d a b : SReg)
  /-- SMUL (R161). s[d] receives the low 64 bits of the product. -/
  | smul (d a b : SReg)
  /-- SMULH (R161). s[d] receives the high 64 bits of the signed product. -/
  | smulh (d a b : SReg)
  /-- SMULHU (R161). s[d] receives the high 64 bits of the unsigned product. -/
  | smulhu (d a b : SReg)
  /-- SDIV (R161). s[d] receives the signed quotient, truncated toward zero, with the zero-divisor results of R54. -/
  | sdiv (d a b : SReg)
  /-- SDIVU (R161). s[d] receives the unsigned quotient. -/
  | sdivu (d a b : SReg)
  /-- SREM (R161). s[d] receives the signed remainder, with the sign of the dividend. -/
  | srem (d a b : SReg)
  /-- SREMU (R161). s[d] receives the unsigned remainder. -/
  | sremu (d a b : SReg)
  /-- SAND (R161). Bitwise AND of two registers. -/
  | sand (d a b : SReg)
  /-- SOR (R161). Bitwise OR of two registers. -/
  | sor (d a b : SReg)
  /-- SXOR (R161). Bitwise XOR of two registers. -/
  | sxor (d a b : SReg)
  /-- SANDN (R161). s[a] AND NOT s[b]. -/
  | sandn (d a b : SReg)
  /-- SORN (R161). s[a] OR NOT s[b]. -/
  | sorn (d a b : SReg)
  /-- SSHL (R161). Shifts s[a] left by s[b][5:0]. -/
  | sshl (d a b : SReg)
  /-- SSHR (R161). Logical right shift of s[a] by s[b][5:0]. -/
  | sshr (d a b : SReg)
  /-- SSRA (R161). Arithmetic right shift of s[a] by s[b][5:0]. -/
  | ssra (d a b : SReg)
  /-- SROL (R161). Rotates s[a] left by s[b][5:0]. -/
  | srol (d a b : SReg)
  /-- SROR (R161). Rotates s[a] right by s[b][5:0]. -/
  | sror (d a b : SReg)
  /-- SMIN (R161). The lesser of the two registers, as signed values. -/
  | smin (d a b : SReg)
  /-- SMAX (R161). The greater of the two registers, as signed values. -/
  | smax (d a b : SReg)
  /-- SMINU (R161). The lesser of the two registers, as unsigned values. -/
  | sminu (d a b : SReg)
  /-- SMAXU (R161). The greater of the two registers, as unsigned values. -/
  | smaxu (d a b : SReg)
  /-- SCLZ (R161). Counts the leading zero bits of s[a]. -/
  | sclz (d a : SReg)
  /-- SCTZ (R161). Counts the trailing zero bits of s[a]. -/
  | sctz (d a : SReg)
  /-- SPOPC (R161). Counts the set bits of s[a]. -/
  | spopc (d a : SReg)
  /-- SBREV (R161). Reverses the bit order of s[a]. -/
  | sbrev (d a : SReg)
  /-- SBSWAP (R161). Reverses the byte order of s[a]. -/
  | sbswap (d a : SReg)
  /-- SADDW (R161). 32-bit add, sign-extended to 64 bits. -/
  | saddw (d a b : SReg)
  /-- SSUBW (R161). 32-bit subtract, sign-extended to 64 bits. -/
  | ssubw (d a b : SReg)
  /-- SCEQ (R162). Writes 1 when s[a] = s[b], else 0. -/
  | sceq (d a b : SReg)
  /-- SCNE (R162). Writes 1 when s[a] ≠ s[b], else 0. -/
  | scne (d a b : SReg)
  /-- SCLT (R162). Signed less-than comparison. -/
  | sclt (d a b : SReg)
  /-- SCLTU (R162). Unsigned less-than comparison. -/
  | scltu (d a b : SReg)
  /-- SCLE (R162). Signed less-or-equal comparison. -/
  | scle (d a b : SReg)
  /-- SCLEU (R162). Unsigned less-or-equal comparison. -/
  | scleu (d a b : SReg)
  /-- SADDI (R163). Adds the sign-extended imm14 to s[a]. -/
  | saddi (d a : SReg) (imm : BitVec 14)
  /-- SANDI (R163). ANDs s[a] with the zero-extended imm14. -/
  | sandi (d a : SReg) (imm : BitVec 14)
  /-- SORI (R163). ORs s[a] with the zero-extended imm14. -/
  | sori (d a : SReg) (imm : BitVec 14)
  /-- SXORI (R163). XORs s[a] with the zero-extended imm14. -/
  | sxori (d a : SReg) (imm : BitVec 14)
  /-- SSHLI (R163). Shifts s[a] left by an immediate amount. -/
  | sshli (d a : SReg) (imm : BitVec 6)
  /-- SSHRI (R163). Logical right shift of s[a] by an immediate amount. -/
  | sshri (d a : SReg) (imm : BitVec 6)
  /-- SSRAI (R163). Arithmetic right shift of s[a] by an immediate amount. -/
  | ssrai (d a : SReg) (imm : BitVec 6)
  /-- SROLI (R163). Rotates s[a] left by an immediate amount. -/
  | sroli (d a : SReg) (imm : BitVec 6)
  /-- SCLTI (R163). Signed comparison of s[a] against the sign-extended imm14. -/
  | sclti (d a : SReg) (imm : BitVec 14)
  /-- SLUI (R163). Loads the sign-extended imm20 × 4,096 into s[d]. -/
  | slui (d : SReg) (imm : BitVec 20)
  /-- SADRP (R163). Forms a page address relative to the SADRP word. -/
  | sadrp (d : SReg) (imm : BitVec 20)
  /-- SLIT (R168). Reads an 8-byte literal from a pool of the scalar section, with the checks of R89. -/
  | slit (d : SReg) (imm : BitVec 20)
  /-- SBFX (R164). Extracts a bit field of s[a], zero-extended. -/
  | sbfx (d a : SReg) (p len : BitVec 6)
  /-- SBFXS (R164). Extracts a bit field of s[a], sign-extended. -/
  | sbfxs (d a : SReg) (p len : BitVec 6)
  /-- SBFI (R164). Inserts the low bits of s[a] into a field of s[d]. -/
  | sbfi (d a : SReg) (p len : BitVec 6)
  /-- SSEL (R165). Selects s[a] when s[c] is non-zero, else s[b]. -/
  | ssel (d a b c : SReg)
  /-- BEQZ (R166). Branches when s[a] = 0. -/
  | beqz (a : SReg) (off : BitVec 16)
  /-- BNEZ (R166). Branches when s[a] ≠ 0. -/
  | bnez (a : SReg) (off : BitVec 16)
  /-- BLTZ (R166). Branches when s[a] < 0. -/
  | bltz (a : SReg) (off : BitVec 16)
  /-- BGEZ (R166). Branches when s[a] ≥ 0. -/
  | bgez (a : SReg) (off : BitVec 16)
  /-- BGTZ (R166). Branches when s[a] > 0. -/
  | bgtz (a : SReg) (off : BitVec 16)
  /-- BLEZ (R166). Branches when s[a] ≤ 0. -/
  | blez (a : SReg) (off : BitVec 16)
  /-- BKANY (R166). After waiting as LWAIT #0, branches when any live lane is set in k[a]. -/
  | bkany (a : KReg) (off : BitVec 16)
  /-- BKNONE (R166). After waiting as LWAIT #0, branches when no live lane is set in k[a]. -/
  | bknone (a : KReg) (off : BitVec 16)
  /-- BKALL (R166). After waiting as LWAIT #0, branches when every live lane is set in k[a]. -/
  | bkall (a : KReg) (off : BitVec 16)
  /-- JMP (R167). Jumps to a PC-relative target. -/
  | jmp (imm : BitVec 26)
  /-- CALL (R167). Writes the link into s62 and jumps to a PC-relative target. -/
  | call (imm : BitVec 26)
  /-- JR (R167). Jumps to s[a]; RET is JR s62. -/
  | jr (a : SReg)
  /-- JALR (R167). Jumps to s[a] and writes the link into s[d]. -/
  | jalr (d a : SReg)
  /-- SLD (R169). Loads an aligned item from memory into s[d]. -/
  | sld (d a : SReg) (size : BitVec 3) (off : BitVec 11)
  /-- SST (R169). Stores the low bytes of s[d] to memory. -/
  | sst (d a : SReg) (size : BitVec 3) (off : BitVec 11)
  /-- SATOM (R171). Performs one atomic read-modify-write at the given order and scope, returning the old value. -/
  | satom (d a b : SReg) (op : BitVec 3) (wide : Bool) (ord scope : BitVec 2)
  /-- SPREF (R170). Prefetch hint into L1; it never traps after decoding. -/
  | spref (a : SReg) (size : BitVec 3) (off : BitVec 11)
  /-- FENCE (R172). Waits as LWAIT #0 and orders the wave's accesses at its scope, and transfers with .xfer. -/
  | fence (xfer : Bool) (kind scope : BitVec 2)
  /-- LRUN (R174). Enqueues a lane block with a snapshot of s48 to s63, waiting for a queue entry when the queue is full. -/
  | lrun (imm : BitVec 26)
  /-- LWAIT (R176). Waits until at most n of the earlier blocks have not ended. -/
  | lwait (n : BitVec 6)
  /-- SQRD (R177). Waits for the register results of earlier blocks and reads q[n]. -/
  | sqrd (d : SReg) (a : QReg)
  /-- KAND (R173). AND of two mask registers, after waiting as LWAIT #0. -/
  | kand (d a b : KReg)
  /-- KOR (R173). OR of two mask registers. -/
  | kor (d a b : KReg)
  /-- KXOR (R173). XOR of two mask registers. -/
  | kxor (d a b : KReg)
  /-- KANDN (R173). k[a] AND NOT k[b]. -/
  | kandn (d a b : KReg)
  /-- KNOT (R173). Inverts a mask register. -/
  | knot (d a : KReg)
  /-- KFROMS (R173). Writes the low 32 bits of s[a] into k[d]. -/
  | kfroms (d : KReg) (a : SReg)
  /-- KTOS (R173). Writes k[a], zero-extended, into s[d]. -/
  | ktos (d : SReg) (a : KReg)
  /-- KPOP (R173). Counts the set bits of k[a]. -/
  | kpop (d : SReg) (a : KReg)
  /-- KFIRST (R173). Gives the index of the lowest set bit of k[a], or 32 when it is zero. -/
  | kfirst (d : SReg) (a : KReg)
  /-- KACT (R173). Writes ACTMASK.LIVE into k[d]. -/
  | kact (d : KReg)
  /-- WSPAWN (R151). Waits as FENCE.rel.dev and creates a new wave from a descriptor, in the creator's team or in a team of its own. -/
  | wspawn (d a : SReg) (det team nb : Bool)
  /-- WEXIT (R153). Waits as FENCE.full.sys.xfer, then ends the wave with cause 0. -/
  | wexit
  /-- WYIELD (R155). Marks the wave as issued most recently and gives up issue for a while. -/
  | wyield
  /-- WSELF (R156). Writes WAVEID into s[d]. -/
  | wself (d : SReg)
  /-- WPRIO (R157). Sets the base priority of a wave, within its ceiling, and returns the old value. -/
  | wprio (d a b : SReg)
  /-- WKILL (R158). Ends the target wave with cause 1 at its next word boundaries. -/
  | wkill (a : SReg)
  /-- WKILL.ctx (R158). At handler level, sends the executing context to terminating. -/
  | wkillCtx (a : SReg)
  /-- WJOIN (R159). Waits for a joinable wave to end and returns its cause. -/
  | wjoin (d a : SReg) (nb : Bool)
  /-- PCREATE (R301). Creates a port, or a launch port, from a descriptor. -/
  | pcreate (d a : SReg) (nb launch : Bool)
  /-- PCLOSE (R302). Moves a port to draining, or with .now to closed. -/
  | pclose (d a : SReg) (now : Bool)
  /-- PSEND (R303). Releases at send scope and appends a message to a port, waiting for a slot or an allowance. -/
  | psend (d a b : SReg) (rep st nb : Bool)
  /-- PSENDG (R303). Sends a message that carries up to three page grants. -/
  | psendg (d a b : SReg) (rep st nb : Bool)
  /-- PRECV (R307). Dequeues the head message of a port, maps its grants into the window and creates a reply handle. -/
  | precv (d a b : SReg)
  /-- PPEEK (R307). Reads the head message without dequeuing it or mapping anything. -/
  | ppeek (d a b : SReg)
  /-- PINFO (R308). Returns the port map of R309, or the allowance left in a remote handle. -/
  | pinfo (d a : SReg)
  /-- NREG (R312). Binds a name to a port in the fabric domain. -/
  | nreg (d a b : SReg)
  /-- NLOOKUP (R313). Finds the port bound to a name and creates a remote handle holding its allowance. -/
  | nlookup (d a : SReg) (st : Bool)
  /-- NDROP (R314). Removes the name of a bound port. -/
  | ndrop (d a : SReg)
  /-- WSNEW (R317). Creates an empty wait set. -/
  | wsnew (d : SReg) (nb : Bool)
  /-- WSADD (R317). Places a source, or a batch with .batch, at an index of a wait set. -/
  | wsadd (d a b : SReg) (batch : Bool)
  /-- WSDEL (R317). Empties an index of a wait set. -/
  | wsdel (d a b : SReg)
  /-- WSWAIT (R318). Waits for a ready source and returns the lowest ready index, acknowledging timer firings. -/
  | wswait (d a : SReg) (nb : Bool)
  /-- WATCH (R321). Creates a watch on a memory word and tests it once. -/
  | watch (d a : SReg) (nb : Bool)
  /-- TARM (R319). Creates or re-arms a timer with a deadline and a period. -/
  | tarm (d a b : SReg) (nb abs : Bool)
  /-- TDISARM (R320). Stops a timer and returns its unacknowledged firings. -/
  | tdisarm (d a : SReg)
  /-- OCLOSE (R323). Closes a handle, with an effect that depends on its kind. -/
  | oclose (d a : SReg)
  /-- XCOPY (R264). Checks a descriptor and queues a copy in the open batch. -/
  | xcopy (d a : SReg) (nb h : Bool)
  /-- XSTORE (R264). Waits as LWAIT #0, then queues a copy that reads as a release, optionally reducing into its destination. -/
  | xstore (d a : SReg) (nb h : Bool)
  /-- XGATHER (R264). Queues a row-gather copy driven by an index list. -/
  | xgather (d a b : SReg) (nb h : Bool)
  /-- XBATCH (R266). Closes the open batch and returns its number. -/
  | xbatch (d : SReg)
  /-- XWAITB (R268). Waits until a batch is complete and reports its unreported cancelled and failed copies. -/
  | xwaitb (d a : SReg) (nb : Bool)
  /-- XWAITC (R270). Waits until the masked bits of a chunk bitmap word are set, or reports STALE. -/
  | xwaitc (d a b : SReg) (nb : Bool)
  /-- XCANCEL (R271). Cancels a queued copy, or the queued copies of batches up to n. -/
  | xcancel (d a : SReg) (batch : Bool)
  /-- XSTAT (R272). Reports the state of a copy or a batch without waiting. -/
  | xstat (d a : SReg) (batch : Bool)
  /-- TDECL (R363). Declares a tensor descriptor in the placement table. -/
  | tdecl (d a : SReg) (nb : Bool)
  /-- TDECL.drop (R363). Waits for the tensor's transfers on the device to end, then frees its descriptor. -/
  | tdeclDrop (d a : SReg) (nb : Bool)
  /-- TLOAD (R366). Loads a tile of a distributed tensor in a demanded placement, as a copy. -/
  | tload (d a : SReg) (nb h : Bool)
  /-- TSTORE (R366). Stores a tile into the local shard of a generation, as a copy. -/
  | tstore (d a : SReg) (nb h : Bool)
  /-- TCONV (R371). Starts the conversion of a sealed tensor to new states at the next generation. -/
  | tconv (d a : SReg) (nb h : Bool)
  /-- TSEAL (R370). Seals the current generation, locks the shard and announces the seal to the mesh. -/
  | tseal (d a b : SReg)
  /-- TSEAL.open (R370). Unseals a generation before TCONV and lifts its lock. -/
  | tsealOpen (d a b : SReg)
  /-- TINFO (R372). Reads one word of a tensor descriptor. -/
  | tinfo (d a b : SReg)
  /-- MESHDEF (R359). Defines a mesh from a table of fabric device ids. -/
  | meshdef (d a : SReg)
  /-- TREG (R373). Registers a tile under a key in the core's tile directory. -/
  | treg (d a : SReg) (nb : Bool)
  /-- TDROP (R375). Makes a directory entry dropping and waits for its responders to end. -/
  | tdrop (d a : SReg)
  /-- TMOVE (R376). Installs an inactive copy of a directory entry at another core and commits the move. -/
  | tmove (d a b : SReg) (nb : Bool)
  /-- SOLICIT (R378). Waits as FENCE.rel at census scope, creates a census and broadcasts it. -/
  | solicit (d a : SReg) (nb : Bool)
  /-- REPLY (R380). A responder waits as WEXIT, delivers its value to the census as a release and ends. -/
  | reply (a : SReg)
  /-- CWAIT (R385). Waits for a census and returns its status and reply count. -/
  | cwait (d a : SReg) (st nb : Bool)
  /-- BARW (R331). Arrives at the team barrier and waits for its phase to complete. -/
  | barw (d : SReg)
  /-- BARC (R331). Arrives at the cluster barrier and waits for its phase to complete. -/
  | barc (d : SReg)
  /-- BARN (R331). Arrives at a named barrier with a membership mask and waits. -/
  | barn (d a b : SReg)
  /-- GANGSET (R276). Waits as LWAIT #0, checks a GANG value and writes the GANG register. -/
  | gangset (a : SReg)
  /-- IRB (R350). Opens an idempotent region and returns the replay count. -/
  | irb (d : SReg)
  /-- IRC (R352). Checks and writes every buffered line, then closes the region. -/
  | irc
  /-- BARINIT (R333). Pins or unpins the mask of a named barrier. -/
  | barinit (d a b : SReg)
  /-- SPOOL (R88). The pool header word, which never executes; reaching it traps POOL_EXEC. -/
  | spool (len : BitVec 26)
  /-- LANE_WORD_PAIR (R81): a word of FORM 0b01, slot X and slot Y. -/
  | laneWordPair (stall : BitVec 4) (x y : ShortOp)
  /-- VADD (R186). Integer add per sub-element, wrapping or saturating. -/
  | vadd (o : LaneOp)
  /-- VSUB (R186). Integer subtract per sub-element. -/
  | vsub (o : LaneOp)
  /-- VMUL (R186). Integer multiply per sub-element. -/
  | vmul (o : LaneOp)
  /-- VMULH (R186). High half of the integer product. -/
  | vmulh (o : LaneOp)
  /-- VMAD (R186). Integer multiply-add formed exactly. -/
  | vmad (o : LaneOp)
  /-- VABS (R186). Integer absolute value. -/
  | vabs (o : LaneOp)
  /-- VNEG (R186). Integer negation. -/
  | vneg (o : LaneOp)
  /-- VMIN (R186). Integer minimum. -/
  | vmin (o : LaneOp)
  /-- VMAX (R186). Integer maximum. -/
  | vmax (o : LaneOp)
  /-- VAVG (R186). Rounded integer average. -/
  | vavg (o : LaneOp)
  /-- VSAD (R187). Sum of absolute differences into 64 bits. -/
  | vsad (o : LaneOp)
  /-- VDOT4 (R187). Four-way 8-bit dot products into two 32-bit results. -/
  | vdot4 (o : LaneOp)
  /-- VAND (R188). Lane bitwise AND. -/
  | vand (o : LaneOp)
  /-- VOR (R188). Lane bitwise OR. -/
  | vor (o : LaneOp)
  /-- VXOR (R188). Lane bitwise XOR. -/
  | vxor (o : LaneOp)
  /-- VANDN (R188). Lane AND NOT. -/
  | vandn (o : LaneOp)
  /-- VNOT (R188). Lane bitwise NOT. -/
  | vnot (o : LaneOp)
  /-- VSHL (R188). Lane left shift. -/
  | vshl (o : LaneOp)
  /-- VSHR (R188). Lane logical right shift. -/
  | vshr (o : LaneOp)
  /-- VSRA (R188). Lane arithmetic right shift. -/
  | vsra (o : LaneOp)
  /-- VROL (R188). Lane rotate left. -/
  | vrol (o : LaneOp)
  /-- VCLZ (R188). Lane count of leading zeros. -/
  | vclz (o : LaneOp)
  /-- VPOPC (R188). Lane population count. -/
  | vpopc (o : LaneOp)
  /-- VBFX (R189). Lane bit-field extract. -/
  | vbfx (o : LaneOp)
  /-- VBFI (R189). Lane bit-field insert. -/
  | vbfi (o : LaneOp)
  /-- VSEL (R190). Bitwise select by C. -/
  | vsel (o : LaneOp)
  /-- VMOV (R190). Register move. -/
  | vmov (o : LaneOp)
  /-- VMOVI (R190). Moves an immediate into every active lane. -/
  | vmovi (o : LaneOp)
  /-- VLANEID (R190). Writes the lane and sub-element indices. -/
  | vlaneid (o : LaneOp)
  /-- VCMP (R191). Integer compare into sub-element masks. -/
  | vcmp (o : LaneOp)
  /-- VCMPK (R191). Integer compare into a k register. -/
  | vcmpk (o : LaneOp)
  /-- VFADD (R193). Floating-point add with one rounding. -/
  | vfadd (o : LaneOp)
  /-- VFSUB (R193). Floating-point subtract. -/
  | vfsub (o : LaneOp)
  /-- VFMUL (R193). Floating-point multiply. -/
  | vfmul (o : LaneOp)
  /-- VFMA (R193). Fused multiply-add with one rounding. -/
  | vfma (o : LaneOp)
  /-- VFMIN (R194). Floating-point minimum. -/
  | vfmin (o : LaneOp)
  /-- VFMAX (R194). Floating-point maximum. -/
  | vfmax (o : LaneOp)
  /-- VFABS (R194). Clears the sign bit. -/
  | vfabs (o : LaneOp)
  /-- VFNEG (R194). Inverts the sign bit. -/
  | vfneg (o : LaneOp)
  /-- VFCPSGN (R194). Copies the sign bit of B. -/
  | vfcpsgn (o : LaneOp)
  /-- VFCMP (R195). Floating-point compare into sub-element masks. -/
  | vfcmp (o : LaneOp)
  /-- VFCMPK (R195). Floating-point compare into a k register. -/
  | vfcmpk (o : LaneOp)
  /-- VFCLASS (R196). Writes the class code of each value. -/
  | vfclass (o : LaneOp)
  /-- VFDOT2 (R197). Two-way half-precision dot product accumulated into FP32. -/
  | vfdot2 (o : LaneOp)
  /-- VFSUMH (R198). Horizontal sum of a lane's sub-elements by the pairwise tree. -/
  | vfsumh (o : LaneOp)
  /-- VFRCP (R199). Reciprocal. -/
  | vfrcp (o : LaneOp)
  /-- VFRSQ (R199). Reciprocal square root. -/
  | vfrsq (o : LaneOp)
  /-- VFSQRT (R199). Correctly rounded square root. -/
  | vfsqrt (o : LaneOp)
  /-- VFEXP2 (R199). Base-2 exponential. -/
  | vfexp2 (o : LaneOp)
  /-- VFLOG2 (R199). Base-2 logarithm. -/
  | vflog2 (o : LaneOp)
  /-- VFSIN (R199). Sine. -/
  | vfsin (o : LaneOp)
  /-- VFCOS (R199). Cosine. -/
  | vfcos (o : LaneOp)
  /-- VFTANH (R199). Hyperbolic tangent. -/
  | vftanh (o : LaneOp)
  /-- VFDIV (R199). Correctly rounded division. -/
  | vfdiv (o : LaneOp)
  /-- VCVT (R200). Converts element by element between types, into or out of a part q. -/
  | vcvt (o : LaneOp)
  /-- VPACK (R202). Converts two registers into one narrower register. -/
  | vpack (o : LaneOp)
  /-- VUNPK (R203). Widens half of a register exactly. -/
  | vunpk (o : LaneOp)
  /-- VBSCALE (R204). Forms the E3M5 block scale of an FP4 block. -/
  | vbscale (o : LaneOp)
  /-- VBQUANT (R205). Quantises a block into E2M1 codes under a scale. -/
  | vbquant (o : LaneOp)
  /-- VSWZ (R206). Rearranges sub-elements within a lane. -/
  | vswz (o : LaneOp)
  /-- VPERM (R216). Gathers sub-elements across the wave by index. -/
  | vperm (o : LaneOp)
  /-- VBCAST (R217). Broadcasts one lane's register to the active lanes. -/
  | vbcast (o : LaneOp)
  /-- VSHFL (R217). Shuffles whole registers up, down or by XOR. -/
  | vshfl (o : LaneOp)
  /-- VRFAL (R218). Writes the lowest active lane's value to a q register. -/
  | vrfal (o : LaneOp)
  /-- VRED (R219). Reduces over the active lanes into a q register. -/
  | vred (o : LaneOp)
  /-- VSCAN (R220). Forms prefix combines over the active lanes. -/
  | vscan (o : LaneOp)
  /-- VBALLOT (R218). Writes the ballot of non-zero lanes and the mask to a q register. -/
  | vballot (o : LaneOp)
  /-- VLD (R251). Lane load of a sized item into a position of v[d]. -/
  | vld (o : LaneOp)
  /-- VST (R252). Lane store of a sized item from a position of v[d]. -/
  | vst (o : LaneOp)
  /-- VATOM (R253). Performs one atomic read-modify-write per active lane. -/
  | vatom (o : LaneOp)
  /-- VPREF (R254). Lane prefetch hint into L1 or the hoop cache. -/
  | vpref (o : LaneOp)
  /-- LBR (R208). Lane branch on a k register, dividing the path when it is divergent. -/
  | lbr (o : LaneOp)
  /-- LJOIN (R209). Fuses child paths with their parent at a join id, or waits for them. -/
  | ljoin (o : LaneOp)
  /-- LEND (R210). Ends the path, and the block once every path has ended. -/
  | lend (o : LaneOp)
  /-- LNOP (R211). Lane no-operation. -/
  | lnop (o : LaneOp)
  /-- LKILL (R212). Removes lanes from the path and from ACTMASK.LIVE for good. -/
  | lkill (o : LaneOp)
  /-- LELECT (R213). Sets the k bit of the lowest active lane only. -/
  | lelect (o : LaneOp)
  /-- LJMP (R211). Moves the whole path to a target. -/
  | ljmp (o : LaneOp)
  /-- MJ (R283). Checks a member's joint matrix operation and places its arrival at the rendezvous latch. -/
  | mj (o : LaneOp)
  /-- MFENCE (R287). Waits for the path's earlier register writes and ordered scratchpad stores before later MJs read. -/
  | mfence (o : LaneOp)
  /-- MWAIT (R288). Waits for the joint operations of a tag, or of every tag, to complete. -/
  | mwait (o : LaneOp)
  /-- AMOVR (R291). Reads one register's worth of an accumulator tile, converting if narrow. -/
  | amovr (o : LaneOp)
  /-- AMOVW (R292). Writes a register into an accumulator tile. -/
  | amovw (o : LaneOp)
  /-- AZERO (R290). Zeroes an accumulator tile. -/
  | azero (o : LaneOp)
  /-- ASTORE (R293). Writes a whole tile to memory as 128 rows, converting each element. -/
  | astore (o : LaneOp)
  /-- VPASS (R222). Fills a team rendezvous slot, waiting until it is empty. -/
  | vpass (o : LaneOp)
  /-- VTAKE (R223). Empties a full rendezvous slot into v[d], waiting until it is full. -/
  | vtake (o : LaneOp)
  /-- RESERVED_SCALAR_OPCODE (R66): a scalar word with a reserved major, fn, sub or cond. -/
  | reservedScalarOpcode (w : BitVec 32)
  /-- RESERVED_LANE_OPCODE (R79): a lane word with a reserved FORM, op10[9] set or an unlisted op9. -/
  | reservedLaneOpcode (w : BitVec 96)
  /-- TRAP_ENTRY (R387): the wave takes its first due lane or copy trap at a scalar word boundary. -/
  | trapEntry
  /-- HANDLER_SHARE_EXPIRE (R145): after 1 ms at handler level the wave leaves class 1. -/
  | handlerShareExpire
  /-- LANE_BLOCK_END (R175): the running block of the wave ends and leaves its queue. -/
  | laneBlockEnd
  /-- LANE_RESULT_WRITE (R83): the oldest variable-latency result of the path is written. -/
  | laneResultWrite
  /-- FRAGMENT_RELOAD (R141): the oldest spilled fragment of the core takes a free split-table entry. -/
  | fragmentReload
  /-- JOINT_OPERATION_COMPLETE (R288): a joint operation has written its tiles. -/
  | jointOperationComplete
  /-- MJ_LATCH_TIMEOUT (R284): a member has waited 2^20 resident cycles. -/
  | mjLatchTimeout
  /-- RENDEZVOUS_TIMEOUT (R224): a VPASS or VTAKE has waited 2^20 resident cycles. -/
  | rendezvousTimeout
  /-- LAUNCH_RECORD_HEAD (R121): the dispatcher checks the record at the head of a launch port. -/
  | launchRecordHead
  /-- CLUSTER_PLACE (R130): a ready cluster is placed on the rectangle whose first core is `corner`. -/
  | clusterPlace
  /-- RUN_LIST_ADMIT (R132): a waiting entry enters the run list of a hoop. -/
  | runListAdmit
  /-- PREEMPTION (R147): the victim launch yields a rectangle to a cluster that cannot be placed. -/
  | preemption
  /-- IDLE_TEAM_EVICT (R134): the cluster of a team whose waves have waited 100 microseconds is evicted. -/
  | idleTeamEvict
  /-- COMPLETION_MESSAGE (R124): the dispatcher sends the completion message of a launch. -/
  | completionMessage
  /-- TIME_SLICE_SWITCH (R113): the partition switches to its next function. -/
  | timeSliceSwitch
  /-- COPY_START (R261): an engine reads the first source byte of a queued copy. -/
  | copyStart
  /-- CHUNK_COMPLETE (R269): the bytes of one chunk are written and its bit is set. -/
  | chunkComplete
  /-- COPY_STOP (R267): the copy meets a fault at a chunk. -/
  | copyStop
  /-- TIMER_FIRE (R319): a timer reaches its deadline. -/
  | timerFire
  /-- WATCH_MATCH (R321): a write to the watched word makes the comparison hold. -/
  | watchMatch
  /-- WATCH_POLL (R322): the object engine polls the word of a watch without an entry. -/
  | watchPoll
  /-- NAME_REHOME (R311): the bindings of a domain move to their new homes. -/
  | nameRehome
  /-- CENSUS_BROADCAST_ARRIVE (R377): a census broadcast reaches a core. -/
  | censusBroadcastArrive
  /-- CENSUS_COMPLETE (R382): the reply count equals the match count. -/
  | censusComplete
  /-- TMOVE_COMMIT (R377): the destination copy of an entry becomes active. -/
  | tmoveCommit
  /-- TLOAD_READ_POINT (R367): the wait for the least generation ends. -/
  | tloadReadPoint
  /-- TCONV_CHECK (R371): the new states are compared across the mesh. -/
  | tconvCheck
  /-- TCONV_COMMIT (R371): the device takes the new BASE, strides, states and GEN. -/
  | tconvCommit
  /-- TCONV_RETIRE (R371): the old shards are released and the lock ends. -/
  | tconvRetire
  /-- WCB_AGEING_EXPIRE (R237): the ageing timer of a write-combining entry expires. -/
  | wcbAgeingExpire
  /-- WCB_DRAIN_REFUSED (R415): a peer refuses the drain of an entry. -/
  | wcbDrainRefused
  /-- TOKEN_WINDOW_REFILL (R235): the buckets of a port refill at the start of a window. -/
  | tokenWindowRefill
  /-- ACCESS_COUNT_ADD (R355): a TLB entry adds its local count to CNT, and is dropped or kept. -/
  | accessCountAdd
  /-- INVALIDATION_COMPLETE (R339): an invalidation request completes. -/
  | invalidationComplete
  /-- FRAME_SCRUB_COMPLETE (R344): a frame has been scrubbed and becomes free. -/
  | frameScrubComplete
  /-- LENT_FRAME_RELEASE (R345): the owning device receives a release of a lent page. -/
  | lentFrameRelease
  /-- BANK_DRAIN_COMPLETE (R229): a bank mode change takes effect. -/
  | bankDrainComplete
  /-- FLIT_RECEIVE (R402): a rim port receives a flit of 160 bytes. -/
  | flitReceive
  /-- PORT_DOWN (R413): a rim port that has not trained again in 10 ms is down. -/
  | portDown
  /-- REQUEST_TIMEOUT (R412): a request without a response for 1 ms completes poisoned. -/
  | requestTimeout
  /-- HOLD_RESPONSE (R412): a target that holds a request sends a hold response. -/
  | holdResponse
  /-- HOST_SNOOP (R420): a host snoop of a line is answered. -/
  | hostSnoop
  /-- HOST_CXL_MEM_ACCESS (R418): a host access to device memory through an HDM range, a write when `data` is given. -/
  | hostCxlMemAccess
  /-- HOST_PORT_WRITE (R310): a 64-byte host write to a port window slot. -/
  | hostPortWrite
  /-- HOST_LAUNCH_WRITE (R310): a 128-byte host write to a launch port slot. -/
  | hostLaunchWrite
  /-- HOST_PORT_READ (R419): a host read of a port window slot. -/
  | hostPortRead
  /-- SPDM_REQUEST (R425): the device answers with a measurement block. -/
  | spdmRequest
  /-- CONTEXT_CREATE (R96): system software creates a context. -/
  | contextCreate
  /-- KERNEL_LOAD (R118): the loader engine takes the container at a virtual address, with the three bases of R450. -/
  | kernelLoad
  /-- KERNEL_UNLOAD (R119): system software unloads a kernel. -/
  | kernelUnload
  /-- CONTEXT_ENABLE (R98): system software sets the weight and enables a loaded context. -/
  | contextEnable
  /-- CONTEXT_PARK (R114): system software parks a context. -/
  | contextPark
  /-- CONTEXT_RESUME (R114): system software resumes a parked context. -/
  | contextResume
  /-- CONTEXT_TERMINATE (R115): a context is reclaimed. -/
  | contextTerminate
  /-- CONTEXT_RELEASE (R98): system software kills the faulting wave and releases a faulted context. -/
  | contextRelease
  /-- INVALIDATE_STAGE_1 (R339): request 0x20. -/
  | invalidateStage1
  /-- INVALIDATE_STAGE_2 (R339): request 0x21. -/
  | invalidateStage2
  /-- PAGE_READY (R353): request 0x22. -/
  | pageReady
  /-- PAGE_REFUSED (R353): request 0x23. -/
  | pageRefused
  /-- FREE_FRAMES (R342): request 0x24. -/
  | freeFrames
  /-- HOOP_BANK_CONTROL (R229): a bank mode change or a FIFO assignment is requested. -/
  | hoopBankControl
  /-- SET_AGEING_TIMER (R237): the ageing timer of a partition, in ns. -/
  | setAgeingTimer
  /-- TOKEN_ALLOCATION (R235): a partition's allocation at a port. -/
  | tokenAllocation
  /-- CONTEXT_BUCKET (R235): a context's own bucket at a port. -/
  | contextBucket
  /-- LAUNCH_PORT_CREATE (R310): system software creates a launch port. -/
  | launchPortCreate
  /-- PORT_WINDOW_PLACE (R310): system software places a port in a window slot. -/
  | portWindowPlace
  /-- MSIX_BIND (R419): system software binds a port to an MSI-X vector. -/
  | msixBind
  /-- WINDOW_UNMAP (R307): system software unmaps a receive-window page. -/
  | windowUnmap
  /-- SET_TIME_SLICE (R113): the slice length of a partition, in ns. -/
  | setTimeSlice
  /-- SET_MIGRATION_THRESHOLD (R356): a context's threshold and notification port. -/
  | setMigrationThreshold
  /-- HOLD_REPORT (R354): the holds of a context are reported. -/
  | holdReport
  /-- HDM_RANGE (R418): an HDM decoder range is programmed for a partition. -/
  | hdmRange
  /-- ASSIGN_FRAMES (R342): free frames go to a partition or to the system. -/
  | assignFrames
  /-- DOMAIN_ASSIGN (R311): a partition is assigned to a fabric domain. -/
  | domainAssign
  /-- PORT_MAP_WRITE (R401): a rim port is given a peer and a dimension. -/
  | portMapWrite
  /-- PARTITION_CHANGE (R435): the root monitor applies a partition change. -/
  | partitionChange
  /-- FUNCTION_TEARDOWN (R426): a virtual function is torn down. -/
  | functionTeardown
  /-- TEARDOWN_DRAIN_EXPIRE (R426): the 100 microseconds of step 4 have passed. -/
  | teardownDrainExpire
  /-- LENT_FRAME_RECLAIM (R345): the root monitor scrubs frames lent to a restarted or removed device. -/
  | lentFrameReclaim
  /-- PORT_RETRAIN_REQUEST (R436): the root monitor retrains a down rim port. -/
  | portRetrainRequest
  /-- SET_POWER_CAP (R28): the package power cap, in W. -/
  | setPowerCap
  /-- POWER_CAP_EVALUATE (R28): the 1 ms average of the input power is compared with the cap. -/
  | powerCapEvaluate
  /-- POWER_GOOD (R427): power-good starts stage A. -/
  | powerGood
  /-- START_STAGE_B (R427): CD0 and its stacks are ready. -/
  | startStageB
  /-- DIE_JOIN (R427): a compute die joins in stage C. -/
  | dieJoin
  /-- FULL_RETRAIN_COMPLETE (R428): an interface completes a full retrain. -/
  | fullRetrainComplete
  /-- PARK_REQUEST (R429): the device parks. -/
  | parkRequest
  /-- RESUME_REQUEST (R431): the device resumes. -/
  | resumeRequest
  /-- IOD_UNCORRECTABLE_ERROR (R31): packets in flight are poisoned. -/
  | iodUncorrectableError
  /-- UNCORRECTED_ERROR (R398): an uncorrected error poisons its unit. -/
  | uncorrectedError
  /-- RESTART (R437): a restart from stage A. -/
  | restart
  /-- PATROL_SCRUB (R433): patrol scrub visits a frame. -/
  | patrolScrub
  /-- HBM_RECALIBRATION (R433): a recalibration slice of a channel. -/
  | hbmRecalibration
  /-- TELEMETRY_SAMPLE (R434): telemetry is sampled. -/
  | telemetrySample
  /-- TELEMETRY_READ (R434): telemetry is read, by the physical function or by a partition's service core. -/
  | telemetryRead
  /-- WEAR_COUNTER_READ (R432): the wear record is read. -/
  | wearCounterRead
  /-- HOURS_WRITE (R432): HOURS is written to flash. -/
  | hoursWrite
  /-- THERMAL_CYCLE (R432): a completed thermal cycle is counted and written. -/
  | thermalCycle
  /-- POWER_LOSS (R432): the supply is lost. -/
  | powerLoss
  /-- ORDERLY_POWER_OFF (R432): an orderly power-off writes HOURS first. -/
  | orderlyPowerOff
  /-- RIM_LINK_TRAINED (R24): a rim port completes training to its peer. -/
  | rimLinkTrained
  /-- CORRECTED_ERROR (R398): a corrected error is counted for its store code. -/
  | correctedError
  /-- WINDOWED_ACCESS (R424): a service-core access through a windowed pointer. -/
  | windowedAccess
  /-- WINDOW_INSTRUCTION (R424): a service core sets an entry of its window table. -/
  | windowInstruction
  /-- SERVICE_CORE_IMAGE_RESTART (R30): the root monitor restarts a halted image. -/
  | serviceCoreImageRestart
  deriving DecidableEq, Repr

/-- The row of an event. -/
def Event.instr : Event → Instr
  | .trapEntry _ => .trapEntry
  | .handlerShareExpire _ => .handlerShareExpire
  | .laneBlockEnd _ => .laneBlockEnd
  | .laneResultWrite _ _ => .laneResultWrite
  | .fragmentReload _ _ => .fragmentReload
  | .jointOperationComplete _ => .jointOperationComplete
  | .mjLatchTimeout _ => .mjLatchTimeout
  | .rendezvousTimeout _ _ => .rendezvousTimeout
  | .launchRecordHead _ => .launchRecordHead
  | .clusterPlace _ _ => .clusterPlace
  | .runListAdmit _ => .runListAdmit
  | .preemption _ _ _ => .preemption
  | .idleTeamEvict _ => .idleTeamEvict
  | .completionMessage _ => .completionMessage
  | .timeSliceSwitch _ _ => .timeSliceSwitch
  | .copyStart _ => .copyStart
  | .chunkComplete _ _ => .chunkComplete
  | .chunkWord _ _ _ => .chunkComplete
  | .copyStop _ _ => .copyStop
  | .timerFire _ => .timerFire
  | .watchMatch _ => .watchMatch
  | .watchPoll _ => .watchPoll
  | .nameRehome _ => .nameRehome
  | .censusBroadcastArrive _ _ _ => .censusBroadcastArrive
  | .censusComplete _ => .censusComplete
  | .tmoveCommit _ => .tmoveCommit
  | .tloadReadPoint _ => .tloadReadPoint
  | .tconvCheck _ => .tconvCheck
  | .tconvCommit _ => .tconvCommit
  | .tconvRetire _ => .tconvRetire
  | .wcbAgeingExpire _ _ _ => .wcbAgeingExpire
  | .wcbDrainRefused _ _ _ _ => .wcbDrainRefused
  | .tokenWindowRefill _ _ => .tokenWindowRefill
  | .accessCountAdd _ _ _ _ => .accessCountAdd
  | .invalidationComplete _ => .invalidationComplete
  | .frameScrubComplete _ _ => .frameScrubComplete
  | .lentFrameRelease _ _ => .lentFrameRelease
  | .bankDrainComplete _ _ _ => .bankDrainComplete
  | .flitReceive _ _ _ => .flitReceive
  | .portDown _ _ => .portDown
  | .requestTimeout _ _ => .requestTimeout
  | .holdResponse _ _ => .holdResponse
  | .hostSnoop _ _ _ => .hostSnoop
  | .hostCxlMemAccess _ _ _ _ _ => .hostCxlMemAccess
  | .hostPortWrite _ _ _ _ => .hostPortWrite
  | .hostLaunchWrite _ _ _ _ => .hostLaunchWrite
  | .hostPortRead _ _ _ _ => .hostPortRead
  | .spdmRequest _ _ => .spdmRequest
  | .contextCreate _ _ => .contextCreate
  | .kernelLoad _ _ _ _ _ => .kernelLoad
  | .kernelUnload _ _ => .kernelUnload
  | .contextEnable _ _ => .contextEnable
  | .contextPark _ => .contextPark
  | .contextResume _ => .contextResume
  | .contextTerminate _ => .contextTerminate
  | .contextRelease _ => .contextRelease
  | .invalidateStage1 _ _ _ _ _ _ => .invalidateStage1
  | .invalidateStage2 _ _ _ _ _ => .invalidateStage2
  | .pageReady _ _ => .pageReady
  | .pageRefused _ _ => .pageRefused
  | .freeFrames _ _ _ _ => .freeFrames
  | .hoopBankControl _ _ _ _ _ => .hoopBankControl
  | .setAgeingTimer _ _ _ => .setAgeingTimer
  | .tokenAllocation _ _ _ _ => .tokenAllocation
  | .contextBucket _ _ _ => .contextBucket
  | .launchPortCreate _ _ _ => .launchPortCreate
  | .portWindowPlace _ _ _ _ => .portWindowPlace
  | .msixBind _ _ _ _ => .msixBind
  | .windowUnmap _ _ => .windowUnmap
  | .setTimeSlice _ _ _ => .setTimeSlice
  | .setMigrationThreshold _ _ _ => .setMigrationThreshold
  | .holdReport _ => .holdReport
  | .hdmRange _ _ _ _ _ => .hdmRange
  | .assignFrames _ _ _ _ => .assignFrames
  | .domainAssign _ _ _ => .domainAssign
  | .portMapWrite _ _ _ _ => .portMapWrite
  | .partitionChange _ _ _ => .partitionChange
  | .functionTeardown _ _ => .functionTeardown
  | .teardownDrainExpire _ _ => .teardownDrainExpire
  | .lentFrameReclaim _ _ => .lentFrameReclaim
  | .portRetrainRequest _ _ => .portRetrainRequest
  | .setPowerCap _ _ => .setPowerCap
  | .powerCapEvaluate _ _ => .powerCapEvaluate
  | .powerGood _ => .powerGood
  | .startStageB _ _ _ _ _ _ => .startStageB
  | .dieJoin _ _ => .dieJoin
  | .fullRetrainComplete _ _ => .fullRetrainComplete
  | .parkRequest _ => .parkRequest
  | .resumeRequest _ => .resumeRequest
  | .iodUncorrectableError _ => .iodUncorrectableError
  | .uncorrectedError _ _ _ => .uncorrectedError
  | .restart _ => .restart
  | .patrolScrub _ _ => .patrolScrub
  | .hbmRecalibration _ _ => .hbmRecalibration
  | .telemetrySample _ => .telemetrySample
  | .telemetryRead _ _ => .telemetryRead
  | .wearCounterRead _ => .wearCounterRead
  | .hoursWrite _ => .hoursWrite
  | .thermalCycle _ => .thermalCycle
  | .powerLoss _ => .powerLoss
  | .orderlyPowerOff _ => .orderlyPowerOff
  | .rimLinkTrained _ _ => .rimLinkTrained
  | .correctedError _ _ _ => .correctedError
  | .windowedAccess _ _ _ _ _ _ => .windowedAccess
  | .windowInstruction _ _ _ _ => .windowInstruction
  | .serviceCoreImageRestart _ _ => .serviceCoreImageRestart

end Sys2Proof
end

