-- ==== Sys2Proof/WellFormed.lean ====
section
/-!
DEFINITION. When a term of `Instr` is an instruction that the encoding tables of chapter 03 allow: the fields that a table
bounds further than by their width. A word that fails one of these checks traps ILLEGAL_OP when it executes (R62, R63, R66,
R70, R71, R79).
-/

namespace Sys2Proof

/-- The scalar opcodes that R66 reserves: an unlisted major, or an unlisted fn, sub, cond or selector. -/
def scalarOpcodeReserved (n : Nat) : Bool :=
  let fn := bitsOf n 0 8
  let sub := bitsOf n 4 4
  match bitsOf n 26 6 with
  | 0x00 => !(fn ≤ 0x08 || fn == 0x24)
  | 0x01 => !(fn ≤ 0x08 || (0x10 ≤ fn && fn ≤ 0x14) || (0x18 ≤ fn && fn ≤ 0x1C) || (0x20 ≤ fn && fn ≤ 0x23) ||
      (0x28 ≤ fn && fn ≤ 0x2C) || fn == 0x30 || fn == 0x31)
  | 0x02 => 0x05 < fn
  | 0x0C => bitsOf n 12 2 == 3
  | 0x10 => 8 < bitsOf n 22 4
  | 0x13 => 1 < fn
  | 0x21 => 1 < fn
  | 0x22 => 9 < fn
  | 0x28 => 6 < sub
  | 0x29 => 6 < sub
  | 0x2A => 2 < sub
  | 0x2B => 7 < sub
  | 0x2C => 7 < sub
  | 0x2D => 6 < sub
  | 0x2E => 5 < sub
  | 0x2F => 6 < sub
  | m => [0x0E, 0x0F, 0x14, 0x15, 0x16, 0x17, 0x1D, 0x1E, 0x1F].contains m || (0x23 ≤ m && m ≤ 0x27) ||
      (0x30 ≤ m && m ≤ 0x3E)

/-- The op9 numbers that R79 lists. -/
def op9Listed (n : Nat) : Bool :=
  n ≤ 0x00B || (0x010 ≤ n && n ≤ 0x014) || (0x018 ≤ n && n ≤ 0x01B) || (0x020 ≤ n && n ≤ 0x023) ||
  (0x028 ≤ n && n ≤ 0x02B) || n == 0x030 || n == 0x031 || (0x040 ≤ n && n ≤ 0x04C) || n == 0x04E ||
  (0x080 ≤ n && n ≤ 0x088) || (0x0A0 ≤ n && n ≤ 0x0A5) || (0x0C0 ≤ n && n ≤ 0x0C6) || (0x0E0 ≤ n && n ≤ 0x0E3) ||
  (0x0F0 ≤ n && n ≤ 0x0F6) || (0x100 ≤ n && n ≤ 0x106) || n == 0x120 || n == 0x121

/-- The lane words that are no operation and no pair: a reserved FORM (R73), op10[9] set (R74) or an unlisted op9 (R79). -/
def laneOpcodeReserved (n : Nat) : Bool :=
  match bitsOf n 90 2 with
  | 0 => bitAt n 89 || !op9Listed (bitsOf n 80 9)
  | 1 => false
  | _ => true

/-- A well-formed instruction. -/
def Instr.wf : Instr → Bool
  | .sbfx _ _ p len | .sbfxs _ _ p len | .sbfi _ _ p len => p.toNat + len.toNat + 1 ≤ 64
  | .sld _ _ size _ | .spref _ size _ => size.toNat < 7
  | .sst _ _ size _ => size.toNat < 4
  | .fence _ kind _ => kind.toNat < 3
  | .lwait n => n.toNat < 8
  | .reservedScalarOpcode w => scalarOpcodeReserved w.toNat
  | .reservedLaneOpcode w => laneOpcodeReserved w.toNat
  | _ => true

end Sys2Proof
end

