-- ==== Sys2Proof/Decode.lean ====
section
/-!
DEFINITION. The decoders of chapter 03, total on any bits, and after them the encoders, written from the same tables.
Fields are cut out by natural-number arithmetic, so that a round trip is a statement of linear arithmetic.
-/

namespace Sys2Proof

/-- Why bits are not an instruction: a reserved field of a listed opcode is not zero (R62). Reserved opcodes are rows of
their own. -/
inductive DecodeError where
  /-- The word of the named instruction has a non-zero reserved field; it traps ILLEGAL_OP (safe). -/
  | reservedField (mnemonic : String)
  deriving DecidableEq, Repr

/-- The instruction when its reserved fields are zero (R62). -/
def keep (zero : Bool) (mnemonic : String) (i : Instr) : Except DecodeError Instr :=
  if zero then .ok i else .error (.reservedField mnemonic)

/-- Major 0x00 of R65. -/
def decodeMajor00 (n : Nat) : Except DecodeError Instr :=
  match bitsOf n 0 8 with
  | 0x00 => keep (bitsOf n 8 18 == 0) "SNOP" .snop
  | 0x01 => keep (bitsOf n 8 18 == 0) "HALT" .halt
  | 0x02 => keep (bitsOf n 8 18 == 0) "BKPT" .bkpt
  | 0x03 => keep (bitsOf n 8 6 == 0 && bitsOf n 20 6 == 0) "TRAP" (.trap (.ofNat 6 (n / 2 ^ 14)))
  | 0x04 => keep (bitsOf n 8 18 == 0) "TRET" .tret
  | 0x05 => .ok (.sysrd (.ofNat 6 (n / 2 ^ 20)) (.ofNat 12 (n / 2 ^ 8)))
  | 0x06 => .ok (.syswr (.ofNat 6 (n / 2 ^ 20)) (.ofNat 12 (n / 2 ^ 8)))
  | 0x07 => .ok (.perfrd (.ofNat 6 (n / 2 ^ 20)) (.ofNat 12 (n / 2 ^ 8)))
  | 0x08 => keep (bitsOf n 8 12 == 0) "TIME" (.time (.ofNat 6 (n / 2 ^ 20)))
  | 0x24 => keep (bitsOf n 8 18 == 0) "TRET_SKIP" .tretSkip
  | _ => .ok (.reservedScalarOpcode (.ofNat 32 n))

/-- Major 0x01 of R65. -/
def decodeMajor01 (n : Nat) : Except DecodeError Instr :=
  match bitsOf n 0 8 with
  | 0x00 => .ok (.sadd (.ofNat 6 (n / 2 ^ 20)) (.ofNat 6 (n / 2 ^ 14)) (.ofNat 6 (n / 2 ^ 8)))
  | 0x01 => .ok (.ssub (.ofNat 6 (n / 2 ^ 20)) (.ofNat 6 (n / 2 ^ 14)) (.ofNat 6 (n / 2 ^ 8)))
  | 0x02 => .ok (.smul (.ofNat 6 (n / 2 ^ 20)) (.ofNat 6 (n / 2 ^ 14)) (.ofNat 6 (n / 2 ^ 8)))
  | 0x03 => .ok (.smulh (.ofNat 6 (n / 2 ^ 20)) (.ofNat 6 (n / 2 ^ 14)) (.ofNat 6 (n / 2 ^ 8)))
  | 0x04 => .ok (.smulhu (.ofNat 6 (n / 2 ^ 20)) (.ofNat 6 (n / 2 ^ 14)) (.ofNat 6 (n / 2 ^ 8)))
  | 0x05 => .ok (.sdiv (.ofNat 6 (n / 2 ^ 20)) (.ofNat 6 (n / 2 ^ 14)) (.ofNat 6 (n / 2 ^ 8)))
  | 0x06 => .ok (.sdivu (.ofNat 6 (n / 2 ^ 20)) (.ofNat 6 (n / 2 ^ 14)) (.ofNat 6 (n / 2 ^ 8)))
  | 0x07 => .ok (.srem (.ofNat 6 (n / 2 ^ 20)) (.ofNat 6 (n / 2 ^ 14)) (.ofNat 6 (n / 2 ^ 8)))
  | 0x08 => .ok (.sremu (.ofNat 6 (n / 2 ^ 20)) (.ofNat 6 (n / 2 ^ 14)) (.ofNat 6 (n / 2 ^ 8)))
  | 0x10 => .ok (.sand (.ofNat 6 (n / 2 ^ 20)) (.ofNat 6 (n / 2 ^ 14)) (.ofNat 6 (n / 2 ^ 8)))
  | 0x11 => .ok (.sor (.ofNat 6 (n / 2 ^ 20)) (.ofNat 6 (n / 2 ^ 14)) (.ofNat 6 (n / 2 ^ 8)))
  | 0x12 => .ok (.sxor (.ofNat 6 (n / 2 ^ 20)) (.ofNat 6 (n / 2 ^ 14)) (.ofNat 6 (n / 2 ^ 8)))
  | 0x13 => .ok (.sandn (.ofNat 6 (n / 2 ^ 20)) (.ofNat 6 (n / 2 ^ 14)) (.ofNat 6 (n / 2 ^ 8)))
  | 0x14 => .ok (.sorn (.ofNat 6 (n / 2 ^ 20)) (.ofNat 6 (n / 2 ^ 14)) (.ofNat 6 (n / 2 ^ 8)))
  | 0x18 => .ok (.sshl (.ofNat 6 (n / 2 ^ 20)) (.ofNat 6 (n / 2 ^ 14)) (.ofNat 6 (n / 2 ^ 8)))
  | 0x19 => .ok (.sshr (.ofNat 6 (n / 2 ^ 20)) (.ofNat 6 (n / 2 ^ 14)) (.ofNat 6 (n / 2 ^ 8)))
  | 0x1A => .ok (.ssra (.ofNat 6 (n / 2 ^ 20)) (.ofNat 6 (n / 2 ^ 14)) (.ofNat 6 (n / 2 ^ 8)))
  | 0x1B => .ok (.srol (.ofNat 6 (n / 2 ^ 20)) (.ofNat 6 (n / 2 ^ 14)) (.ofNat 6 (n / 2 ^ 8)))
  | 0x1C => .ok (.sror (.ofNat 6 (n / 2 ^ 20)) (.ofNat 6 (n / 2 ^ 14)) (.ofNat 6 (n / 2 ^ 8)))
  | 0x20 => .ok (.smin (.ofNat 6 (n / 2 ^ 20)) (.ofNat 6 (n / 2 ^ 14)) (.ofNat 6 (n / 2 ^ 8)))
  | 0x21 => .ok (.smax (.ofNat 6 (n / 2 ^ 20)) (.ofNat 6 (n / 2 ^ 14)) (.ofNat 6 (n / 2 ^ 8)))
  | 0x22 => .ok (.sminu (.ofNat 6 (n / 2 ^ 20)) (.ofNat 6 (n / 2 ^ 14)) (.ofNat 6 (n / 2 ^ 8)))
  | 0x23 => .ok (.smaxu (.ofNat 6 (n / 2 ^ 20)) (.ofNat 6 (n / 2 ^ 14)) (.ofNat 6 (n / 2 ^ 8)))
  | 0x28 => keep (bitsOf n 8 6 == 0) "SCLZ" (.sclz (.ofNat 6 (n / 2 ^ 20)) (.ofNat 6 (n / 2 ^ 14)))
  | 0x29 => keep (bitsOf n 8 6 == 0) "SCTZ" (.sctz (.ofNat 6 (n / 2 ^ 20)) (.ofNat 6 (n / 2 ^ 14)))
  | 0x2A => keep (bitsOf n 8 6 == 0) "SPOPC" (.spopc (.ofNat 6 (n / 2 ^ 20)) (.ofNat 6 (n / 2 ^ 14)))
  | 0x2B => keep (bitsOf n 8 6 == 0) "SBREV" (.sbrev (.ofNat 6 (n / 2 ^ 20)) (.ofNat 6 (n / 2 ^ 14)))
  | 0x2C => keep (bitsOf n 8 6 == 0) "SBSWAP" (.sbswap (.ofNat 6 (n / 2 ^ 20)) (.ofNat 6 (n / 2 ^ 14)))
  | 0x30 => .ok (.saddw (.ofNat 6 (n / 2 ^ 20)) (.ofNat 6 (n / 2 ^ 14)) (.ofNat 6 (n / 2 ^ 8)))
  | 0x31 => .ok (.ssubw (.ofNat 6 (n / 2 ^ 20)) (.ofNat 6 (n / 2 ^ 14)) (.ofNat 6 (n / 2 ^ 8)))
  | _ => .ok (.reservedScalarOpcode (.ofNat 32 n))

/-- Major 0x02 of R65. -/
def decodeMajor02 (n : Nat) : Except DecodeError Instr :=
  match bitsOf n 0 8 with
  | 0x00 => .ok (.sceq (.ofNat 6 (n / 2 ^ 20)) (.ofNat 6 (n / 2 ^ 14)) (.ofNat 6 (n / 2 ^ 8)))
  | 0x01 => .ok (.scne (.ofNat 6 (n / 2 ^ 20)) (.ofNat 6 (n / 2 ^ 14)) (.ofNat 6 (n / 2 ^ 8)))
  | 0x02 => .ok (.sclt (.ofNat 6 (n / 2 ^ 20)) (.ofNat 6 (n / 2 ^ 14)) (.ofNat 6 (n / 2 ^ 8)))
  | 0x03 => .ok (.scltu (.ofNat 6 (n / 2 ^ 20)) (.ofNat 6 (n / 2 ^ 14)) (.ofNat 6 (n / 2 ^ 8)))
  | 0x04 => .ok (.scle (.ofNat 6 (n / 2 ^ 20)) (.ofNat 6 (n / 2 ^ 14)) (.ofNat 6 (n / 2 ^ 8)))
  | 0x05 => .ok (.scleu (.ofNat 6 (n / 2 ^ 20)) (.ofNat 6 (n / 2 ^ 14)) (.ofNat 6 (n / 2 ^ 8)))
  | _ => .ok (.reservedScalarOpcode (.ofNat 32 n))

/-- Major 0x07 of R65. -/
def decodeMajor07 (n : Nat) : Except DecodeError Instr :=
  match bitsOf n 12 2 with
  | 0x00 => keep (bitsOf n 6 6 == 0) "SSHLI" (.sshli (.ofNat 6 (n / 2 ^ 20)) (.ofNat 6 (n / 2 ^ 14)) (.ofNat 6 n))
  | 0x01 => keep (bitsOf n 6 6 == 0) "SSHRI" (.sshri (.ofNat 6 (n / 2 ^ 20)) (.ofNat 6 (n / 2 ^ 14)) (.ofNat 6 n))
  | 0x02 => keep (bitsOf n 6 6 == 0) "SSRAI" (.ssrai (.ofNat 6 (n / 2 ^ 20)) (.ofNat 6 (n / 2 ^ 14)) (.ofNat 6 n))
  | 0x03 => keep (bitsOf n 6 6 == 0) "SROLI" (.sroli (.ofNat 6 (n / 2 ^ 20)) (.ofNat 6 (n / 2 ^ 14)) (.ofNat 6 n))
  | _ => .ok (.reservedScalarOpcode (.ofNat 32 n))

/-- Major 0x0C of R65. -/
def decodeMajor0C (n : Nat) : Except DecodeError Instr :=
  match bitsOf n 12 2 with
  | 0x00 => .ok (.sbfx (.ofNat 6 (n / 2 ^ 20)) (.ofNat 6 (n / 2 ^ 14)) (.ofNat 6 (n / 2 ^ 6)) (.ofNat 6 n))
  | 0x01 => .ok (.sbfxs (.ofNat 6 (n / 2 ^ 20)) (.ofNat 6 (n / 2 ^ 14)) (.ofNat 6 (n / 2 ^ 6)) (.ofNat 6 n))
  | 0x02 => .ok (.sbfi (.ofNat 6 (n / 2 ^ 20)) (.ofNat 6 (n / 2 ^ 14)) (.ofNat 6 (n / 2 ^ 6)) (.ofNat 6 n))
  | _ => .ok (.reservedScalarOpcode (.ofNat 32 n))

/-- Major 0x10 of R65. -/
def decodeMajor10 (n : Nat) : Except DecodeError Instr :=
  match bitsOf n 22 4 with
  | 0x00 => .ok (.beqz (.ofNat 6 (n / 2 ^ 16)) (.ofNat 16 n))
  | 0x01 => .ok (.bnez (.ofNat 6 (n / 2 ^ 16)) (.ofNat 16 n))
  | 0x02 => .ok (.bltz (.ofNat 6 (n / 2 ^ 16)) (.ofNat 16 n))
  | 0x03 => .ok (.bgez (.ofNat 6 (n / 2 ^ 16)) (.ofNat 16 n))
  | 0x04 => .ok (.bgtz (.ofNat 6 (n / 2 ^ 16)) (.ofNat 16 n))
  | 0x05 => .ok (.blez (.ofNat 6 (n / 2 ^ 16)) (.ofNat 16 n))
  | 0x06 => keep (bitsOf n 19 3 == 0) "BKANY" (.bkany (.ofNat 3 (n / 2 ^ 16)) (.ofNat 16 n))
  | 0x07 => keep (bitsOf n 19 3 == 0) "BKNONE" (.bknone (.ofNat 3 (n / 2 ^ 16)) (.ofNat 16 n))
  | 0x08 => keep (bitsOf n 19 3 == 0) "BKALL" (.bkall (.ofNat 3 (n / 2 ^ 16)) (.ofNat 16 n))
  | _ => .ok (.reservedScalarOpcode (.ofNat 32 n))

/-- Major 0x13 of R65. -/
def decodeMajor13 (n : Nat) : Except DecodeError Instr :=
  match bitsOf n 0 8 with
  | 0x00 => keep (bitsOf n 8 6 == 0 && bitsOf n 20 6 == 0) "JR" (.jr (.ofNat 6 (n / 2 ^ 14)))
  | 0x01 => keep (bitsOf n 8 6 == 0) "JALR" (.jalr (.ofNat 6 (n / 2 ^ 20)) (.ofNat 6 (n / 2 ^ 14)))
  | _ => .ok (.reservedScalarOpcode (.ofNat 32 n))

/-- Major 0x21 of R65. -/
def decodeMajor21 (n : Nat) : Except DecodeError Instr :=
  match bitsOf n 0 8 with
  | 0x00 => keep (bitsOf n 8 6 == 0 && bitsOf n 20 6 == 0) "LWAIT" (.lwait (.ofNat 6 (n / 2 ^ 14)))
  | 0x01 => keep (bitsOf n 8 6 == 0 && bitsOf n 17 3 == 0) "SQRD" (.sqrd (.ofNat 6 (n / 2 ^ 20)) (.ofNat 3 (n / 2 ^ 14)))
  | _ => .ok (.reservedScalarOpcode (.ofNat 32 n))

/-- Major 0x22 of R65. -/
def decodeMajor22 (n : Nat) : Except DecodeError Instr :=
  match bitsOf n 0 8 with
  | 0x00 => keep (bitsOf n 11 3 == 0 && bitsOf n 17 3 == 0 && bitsOf n 23 3 == 0) "KAND" (.kand (.ofNat 3 (n / 2 ^ 20)) (.ofNat 3 (n / 2 ^ 14)) (.ofNat 3 (n / 2 ^ 8)))
  | 0x01 => keep (bitsOf n 11 3 == 0 && bitsOf n 17 3 == 0 && bitsOf n 23 3 == 0) "KOR" (.kor (.ofNat 3 (n / 2 ^ 20)) (.ofNat 3 (n / 2 ^ 14)) (.ofNat 3 (n / 2 ^ 8)))
  | 0x02 => keep (bitsOf n 11 3 == 0 && bitsOf n 17 3 == 0 && bitsOf n 23 3 == 0) "KXOR" (.kxor (.ofNat 3 (n / 2 ^ 20)) (.ofNat 3 (n / 2 ^ 14)) (.ofNat 3 (n / 2 ^ 8)))
  | 0x03 => keep (bitsOf n 11 3 == 0 && bitsOf n 17 3 == 0 && bitsOf n 23 3 == 0) "KANDN" (.kandn (.ofNat 3 (n / 2 ^ 20)) (.ofNat 3 (n / 2 ^ 14)) (.ofNat 3 (n / 2 ^ 8)))
  | 0x04 => keep (bitsOf n 8 6 == 0 && bitsOf n 17 3 == 0 && bitsOf n 23 3 == 0) "KNOT" (.knot (.ofNat 3 (n / 2 ^ 20)) (.ofNat 3 (n / 2 ^ 14)))
  | 0x05 => keep (bitsOf n 8 6 == 0 && bitsOf n 23 3 == 0) "KFROMS" (.kfroms (.ofNat 3 (n / 2 ^ 20)) (.ofNat 6 (n / 2 ^ 14)))
  | 0x06 => keep (bitsOf n 8 6 == 0 && bitsOf n 17 3 == 0) "KTOS" (.ktos (.ofNat 6 (n / 2 ^ 20)) (.ofNat 3 (n / 2 ^ 14)))
  | 0x07 => keep (bitsOf n 8 6 == 0 && bitsOf n 17 3 == 0) "KPOP" (.kpop (.ofNat 6 (n / 2 ^ 20)) (.ofNat 3 (n / 2 ^ 14)))
  | 0x08 => keep (bitsOf n 8 6 == 0 && bitsOf n 17 3 == 0) "KFIRST" (.kfirst (.ofNat 6 (n / 2 ^ 20)) (.ofNat 3 (n / 2 ^ 14)))
  | 0x09 => keep (bitsOf n 8 12 == 0 && bitsOf n 23 3 == 0) "KACT" (.kact (.ofNat 3 (n / 2 ^ 20)))
  | _ => .ok (.reservedScalarOpcode (.ofNat 32 n))

/-- Major 0x28 of R65. -/
def decodeMajor28 (n : Nat) : Except DecodeError Instr :=
  match bitsOf n 4 4 with
  | 0x00 => keep (bitsOf n 3 1 == 0 && bitsOf n 8 6 == 0) "WSPAWN" (.wspawn (.ofNat 6 (n / 2 ^ 20)) (.ofNat 6 (n / 2 ^ 14)) (bitAt n 2) (bitAt n 1) (bitAt n 0))
  | 0x01 => keep (bitsOf n 0 4 == 0 && bitsOf n 8 18 == 0) "WEXIT" .wexit
  | 0x02 => keep (bitsOf n 0 4 == 0 && bitsOf n 8 18 == 0) "WYIELD" .wyield
  | 0x03 => keep (bitsOf n 0 4 == 0 && bitsOf n 8 12 == 0) "WSELF" (.wself (.ofNat 6 (n / 2 ^ 20)))
  | 0x04 => keep (bitsOf n 0 4 == 0) "WPRIO" (.wprio (.ofNat 6 (n / 2 ^ 20)) (.ofNat 6 (n / 2 ^ 14)) (.ofNat 6 (n / 2 ^ 8)))
  | 0x05 =>
    if bitAt n 0 then keep (bitsOf n 1 3 == 0 && bitsOf n 8 6 == 0 && bitsOf n 20 6 == 0) "WKILL_CTX" (.wkillCtx (.ofNat 6 (n / 2 ^ 14)))
    else keep (bitsOf n 1 3 == 0 && bitsOf n 8 6 == 0 && bitsOf n 20 6 == 0) "WKILL" (.wkill (.ofNat 6 (n / 2 ^ 14)))
  | 0x06 => keep (bitsOf n 1 3 == 0 && bitsOf n 8 6 == 0) "WJOIN" (.wjoin (.ofNat 6 (n / 2 ^ 20)) (.ofNat 6 (n / 2 ^ 14)) (bitAt n 0))
  | _ => .ok (.reservedScalarOpcode (.ofNat 32 n))

/-- Major 0x29 of R65. -/
def decodeMajor29 (n : Nat) : Except DecodeError Instr :=
  match bitsOf n 4 4 with
  | 0x00 => keep (bitsOf n 2 2 == 0 && bitsOf n 8 6 == 0) "PCREATE" (.pcreate (.ofNat 6 (n / 2 ^ 20)) (.ofNat 6 (n / 2 ^ 14)) (bitAt n 1) (bitAt n 0))
  | 0x01 => keep (bitsOf n 1 3 == 0 && bitsOf n 8 6 == 0) "PCLOSE" (.pclose (.ofNat 6 (n / 2 ^ 20)) (.ofNat 6 (n / 2 ^ 14)) (bitAt n 0))
  | 0x02 => keep (bitsOf n 3 1 == 0) "PSEND" (.psend (.ofNat 6 (n / 2 ^ 20)) (.ofNat 6 (n / 2 ^ 14)) (.ofNat 6 (n / 2 ^ 8)) (bitAt n 2) (bitAt n 1) (bitAt n 0))
  | 0x03 => keep (bitsOf n 3 1 == 0) "PSENDG" (.psendg (.ofNat 6 (n / 2 ^ 20)) (.ofNat 6 (n / 2 ^ 14)) (.ofNat 6 (n / 2 ^ 8)) (bitAt n 2) (bitAt n 1) (bitAt n 0))
  | 0x04 => keep (bitsOf n 0 4 == 0) "PRECV" (.precv (.ofNat 6 (n / 2 ^ 20)) (.ofNat 6 (n / 2 ^ 14)) (.ofNat 6 (n / 2 ^ 8)))
  | 0x05 => keep (bitsOf n 0 4 == 0) "PPEEK" (.ppeek (.ofNat 6 (n / 2 ^ 20)) (.ofNat 6 (n / 2 ^ 14)) (.ofNat 6 (n / 2 ^ 8)))
  | 0x06 => keep (bitsOf n 0 4 == 0 && bitsOf n 8 6 == 0) "PINFO" (.pinfo (.ofNat 6 (n / 2 ^ 20)) (.ofNat 6 (n / 2 ^ 14)))
  | _ => .ok (.reservedScalarOpcode (.ofNat 32 n))

/-- Major 0x2A of R65. -/
def decodeMajor2A (n : Nat) : Except DecodeError Instr :=
  match bitsOf n 4 4 with
  | 0x00 => keep (bitsOf n 0 4 == 0) "NREG" (.nreg (.ofNat 6 (n / 2 ^ 20)) (.ofNat 6 (n / 2 ^ 14)) (.ofNat 6 (n / 2 ^ 8)))
  | 0x01 => keep (bitsOf n 1 3 == 0 && bitsOf n 8 6 == 0) "NLOOKUP" (.nlookup (.ofNat 6 (n / 2 ^ 20)) (.ofNat 6 (n / 2 ^ 14)) (bitAt n 0))
  | 0x02 => keep (bitsOf n 0 4 == 0 && bitsOf n 8 6 == 0) "NDROP" (.ndrop (.ofNat 6 (n / 2 ^ 20)) (.ofNat 6 (n / 2 ^ 14)))
  | _ => .ok (.reservedScalarOpcode (.ofNat 32 n))

/-- Major 0x2B of R65. -/
def decodeMajor2B (n : Nat) : Except DecodeError Instr :=
  match bitsOf n 4 4 with
  | 0x00 => keep (bitsOf n 1 3 == 0 && bitsOf n 8 12 == 0) "WSNEW" (.wsnew (.ofNat 6 (n / 2 ^ 20)) (bitAt n 0))
  | 0x01 => keep (bitsOf n 1 3 == 0) "WSADD" (.wsadd (.ofNat 6 (n / 2 ^ 20)) (.ofNat 6 (n / 2 ^ 14)) (.ofNat 6 (n / 2 ^ 8)) (bitAt n 0))
  | 0x02 => keep (bitsOf n 0 4 == 0) "WSDEL" (.wsdel (.ofNat 6 (n / 2 ^ 20)) (.ofNat 6 (n / 2 ^ 14)) (.ofNat 6 (n / 2 ^ 8)))
  | 0x03 => keep (bitsOf n 1 3 == 0 && bitsOf n 8 6 == 0) "WSWAIT" (.wswait (.ofNat 6 (n / 2 ^ 20)) (.ofNat 6 (n / 2 ^ 14)) (bitAt n 0))
  | 0x04 => keep (bitsOf n 1 3 == 0 && bitsOf n 8 6 == 0) "WATCH" (.watch (.ofNat 6 (n / 2 ^ 20)) (.ofNat 6 (n / 2 ^ 14)) (bitAt n 0))
  | 0x05 => keep (bitsOf n 2 2 == 0) "TARM" (.tarm (.ofNat 6 (n / 2 ^ 20)) (.ofNat 6 (n / 2 ^ 14)) (.ofNat 6 (n / 2 ^ 8)) (bitAt n 1) (bitAt n 0))
  | 0x06 => keep (bitsOf n 0 4 == 0 && bitsOf n 8 6 == 0) "TDISARM" (.tdisarm (.ofNat 6 (n / 2 ^ 20)) (.ofNat 6 (n / 2 ^ 14)))
  | 0x07 => keep (bitsOf n 0 4 == 0 && bitsOf n 8 6 == 0) "OCLOSE" (.oclose (.ofNat 6 (n / 2 ^ 20)) (.ofNat 6 (n / 2 ^ 14)))
  | _ => .ok (.reservedScalarOpcode (.ofNat 32 n))

/-- Major 0x2C of R65. -/
def decodeMajor2C (n : Nat) : Except DecodeError Instr :=
  match bitsOf n 4 4 with
  | 0x00 => keep (bitsOf n 2 2 == 0 && bitsOf n 8 6 == 0) "XCOPY" (.xcopy (.ofNat 6 (n / 2 ^ 20)) (.ofNat 6 (n / 2 ^ 14)) (bitAt n 1) (bitAt n 0))
  | 0x01 => keep (bitsOf n 2 2 == 0 && bitsOf n 8 6 == 0) "XSTORE" (.xstore (.ofNat 6 (n / 2 ^ 20)) (.ofNat 6 (n / 2 ^ 14)) (bitAt n 1) (bitAt n 0))
  | 0x02 => keep (bitsOf n 2 2 == 0) "XGATHER" (.xgather (.ofNat 6 (n / 2 ^ 20)) (.ofNat 6 (n / 2 ^ 14)) (.ofNat 6 (n / 2 ^ 8)) (bitAt n 1) (bitAt n 0))
  | 0x03 => keep (bitsOf n 0 4 == 0 && bitsOf n 8 12 == 0) "XBATCH" (.xbatch (.ofNat 6 (n / 2 ^ 20)))
  | 0x04 => keep (bitsOf n 1 3 == 0 && bitsOf n 8 6 == 0) "XWAITB" (.xwaitb (.ofNat 6 (n / 2 ^ 20)) (.ofNat 6 (n / 2 ^ 14)) (bitAt n 0))
  | 0x05 => keep (bitsOf n 1 3 == 0) "XWAITC" (.xwaitc (.ofNat 6 (n / 2 ^ 20)) (.ofNat 6 (n / 2 ^ 14)) (.ofNat 6 (n / 2 ^ 8)) (bitAt n 0))
  | 0x06 => keep (bitsOf n 1 3 == 0 && bitsOf n 8 6 == 0) "XCANCEL" (.xcancel (.ofNat 6 (n / 2 ^ 20)) (.ofNat 6 (n / 2 ^ 14)) (bitAt n 0))
  | 0x07 => keep (bitsOf n 1 3 == 0 && bitsOf n 8 6 == 0) "XSTAT" (.xstat (.ofNat 6 (n / 2 ^ 20)) (.ofNat 6 (n / 2 ^ 14)) (bitAt n 0))
  | _ => .ok (.reservedScalarOpcode (.ofNat 32 n))

/-- Major 0x2D of R65. -/
def decodeMajor2D (n : Nat) : Except DecodeError Instr :=
  match bitsOf n 4 4 with
  | 0x00 =>
    if bitAt n 1 then keep (bitsOf n 2 2 == 0 && bitsOf n 8 6 == 0) "TDECL_DROP" (.tdeclDrop (.ofNat 6 (n / 2 ^ 20)) (.ofNat 6 (n / 2 ^ 14)) (bitAt n 0))
    else keep (bitsOf n 2 2 == 0 && bitsOf n 8 6 == 0) "TDECL" (.tdecl (.ofNat 6 (n / 2 ^ 20)) (.ofNat 6 (n / 2 ^ 14)) (bitAt n 0))
  | 0x01 => keep (bitsOf n 2 2 == 0 && bitsOf n 8 6 == 0) "TLOAD" (.tload (.ofNat 6 (n / 2 ^ 20)) (.ofNat 6 (n / 2 ^ 14)) (bitAt n 1) (bitAt n 0))
  | 0x02 => keep (bitsOf n 2 2 == 0 && bitsOf n 8 6 == 0) "TSTORE" (.tstore (.ofNat 6 (n / 2 ^ 20)) (.ofNat 6 (n / 2 ^ 14)) (bitAt n 1) (bitAt n 0))
  | 0x03 => keep (bitsOf n 2 2 == 0 && bitsOf n 8 6 == 0) "TCONV" (.tconv (.ofNat 6 (n / 2 ^ 20)) (.ofNat 6 (n / 2 ^ 14)) (bitAt n 1) (bitAt n 0))
  | 0x04 =>
    if bitAt n 0 then keep (bitsOf n 1 3 == 0) "TSEAL_OPEN" (.tsealOpen (.ofNat 6 (n / 2 ^ 20)) (.ofNat 6 (n / 2 ^ 14)) (.ofNat 6 (n / 2 ^ 8)))
    else keep (bitsOf n 1 3 == 0) "TSEAL" (.tseal (.ofNat 6 (n / 2 ^ 20)) (.ofNat 6 (n / 2 ^ 14)) (.ofNat 6 (n / 2 ^ 8)))
  | 0x05 => keep (bitsOf n 0 4 == 0) "TINFO" (.tinfo (.ofNat 6 (n / 2 ^ 20)) (.ofNat 6 (n / 2 ^ 14)) (.ofNat 6 (n / 2 ^ 8)))
  | 0x06 => keep (bitsOf n 0 4 == 0 && bitsOf n 8 6 == 0) "MESHDEF" (.meshdef (.ofNat 6 (n / 2 ^ 20)) (.ofNat 6 (n / 2 ^ 14)))
  | _ => .ok (.reservedScalarOpcode (.ofNat 32 n))

/-- Major 0x2E of R65. -/
def decodeMajor2E (n : Nat) : Except DecodeError Instr :=
  match bitsOf n 4 4 with
  | 0x00 => keep (bitsOf n 1 3 == 0 && bitsOf n 8 6 == 0) "TREG" (.treg (.ofNat 6 (n / 2 ^ 20)) (.ofNat 6 (n / 2 ^ 14)) (bitAt n 0))
  | 0x01 => keep (bitsOf n 0 4 == 0 && bitsOf n 8 6 == 0) "TDROP" (.tdrop (.ofNat 6 (n / 2 ^ 20)) (.ofNat 6 (n / 2 ^ 14)))
  | 0x02 => keep (bitsOf n 1 3 == 0) "TMOVE" (.tmove (.ofNat 6 (n / 2 ^ 20)) (.ofNat 6 (n / 2 ^ 14)) (.ofNat 6 (n / 2 ^ 8)) (bitAt n 0))
  | 0x03 => keep (bitsOf n 1 3 == 0 && bitsOf n 8 6 == 0) "SOLICIT" (.solicit (.ofNat 6 (n / 2 ^ 20)) (.ofNat 6 (n / 2 ^ 14)) (bitAt n 0))
  | 0x04 => keep (bitsOf n 0 4 == 0 && bitsOf n 8 6 == 0 && bitsOf n 20 6 == 0) "REPLY" (.reply (.ofNat 6 (n / 2 ^ 14)))
  | 0x05 => keep (bitsOf n 2 2 == 0 && bitsOf n 8 6 == 0) "CWAIT" (.cwait (.ofNat 6 (n / 2 ^ 20)) (.ofNat 6 (n / 2 ^ 14)) (bitAt n 1) (bitAt n 0))
  | _ => .ok (.reservedScalarOpcode (.ofNat 32 n))

/-- Major 0x2F of R65. -/
def decodeMajor2F (n : Nat) : Except DecodeError Instr :=
  match bitsOf n 4 4 with
  | 0x00 => keep (bitsOf n 0 4 == 0 && bitsOf n 8 12 == 0) "BARW" (.barw (.ofNat 6 (n / 2 ^ 20)))
  | 0x01 => keep (bitsOf n 0 4 == 0 && bitsOf n 8 12 == 0) "BARC" (.barc (.ofNat 6 (n / 2 ^ 20)))
  | 0x02 => keep (bitsOf n 0 4 == 0) "BARN" (.barn (.ofNat 6 (n / 2 ^ 20)) (.ofNat 6 (n / 2 ^ 14)) (.ofNat 6 (n / 2 ^ 8)))
  | 0x03 => keep (bitsOf n 0 4 == 0 && bitsOf n 8 6 == 0 && bitsOf n 20 6 == 0) "GANGSET" (.gangset (.ofNat 6 (n / 2 ^ 14)))
  | 0x04 => keep (bitsOf n 0 4 == 0 && bitsOf n 8 12 == 0) "IRB" (.irb (.ofNat 6 (n / 2 ^ 20)))
  | 0x05 => keep (bitsOf n 0 4 == 0 && bitsOf n 8 18 == 0) "IRC" .irc
  | 0x06 => keep (bitsOf n 0 4 == 0) "BARINIT" (.barinit (.ofNat 6 (n / 2 ^ 20)) (.ofNat 6 (n / 2 ^ 14)) (.ofNat 6 (n / 2 ^ 8)))
  | _ => .ok (.reservedScalarOpcode (.ofNat 32 n))

/-- The scalar decoder (R61 to R67), total on every word: a reserved opcode is the row RESERVED_SCALAR_OPCODE, a non-zero
reserved field is refused by name (R62). -/
def decodeScalar (n : Nat) : Except DecodeError Instr :=
  match bitsOf n 26 6 with
  | 0x00 => decodeMajor00 n
  | 0x01 => decodeMajor01 n
  | 0x02 => decodeMajor02 n
  | 0x03 => .ok (.saddi (.ofNat 6 (n / 2 ^ 20)) (.ofNat 6 (n / 2 ^ 14)) (.ofNat 14 n))
  | 0x04 => .ok (.sandi (.ofNat 6 (n / 2 ^ 20)) (.ofNat 6 (n / 2 ^ 14)) (.ofNat 14 n))
  | 0x05 => .ok (.sori (.ofNat 6 (n / 2 ^ 20)) (.ofNat 6 (n / 2 ^ 14)) (.ofNat 14 n))
  | 0x06 => .ok (.sxori (.ofNat 6 (n / 2 ^ 20)) (.ofNat 6 (n / 2 ^ 14)) (.ofNat 14 n))
  | 0x07 => decodeMajor07 n
  | 0x08 => .ok (.sclti (.ofNat 6 (n / 2 ^ 20)) (.ofNat 6 (n / 2 ^ 14)) (.ofNat 14 n))
  | 0x09 => .ok (.slui (.ofNat 6 (n / 2 ^ 20)) (.ofNat 20 n))
  | 0x0A => .ok (.sadrp (.ofNat 6 (n / 2 ^ 20)) (.ofNat 20 n))
  | 0x0B => .ok (.slit (.ofNat 6 (n / 2 ^ 20)) (.ofNat 20 n))
  | 0x0C => decodeMajor0C n
  | 0x0D => keep (bitsOf n 6 2 == 0) "SSEL" (.ssel (.ofNat 6 (n / 2 ^ 20)) (.ofNat 6 (n / 2 ^ 14)) (.ofNat 6 (n / 2 ^ 8)) (.ofNat 6 n))
  | 0x10 => decodeMajor10 n
  | 0x11 => .ok (.jmp (.ofNat 26 n))
  | 0x12 => .ok (.call (.ofNat 26 n))
  | 0x13 => decodeMajor13 n
  | 0x18 => .ok (.sld (.ofNat 6 (n / 2 ^ 20)) (.ofNat 6 (n / 2 ^ 14)) (.ofNat 3 (n / 2 ^ 11)) (.ofNat 11 n))
  | 0x19 => .ok (.sst (.ofNat 6 (n / 2 ^ 20)) (.ofNat 6 (n / 2 ^ 14)) (.ofNat 3 (n / 2 ^ 11)) (.ofNat 11 n))
  | 0x1A => .ok (.satom (.ofNat 6 (n / 2 ^ 20)) (.ofNat 6 (n / 2 ^ 14)) (.ofNat 6 (n / 2 ^ 8)) (.ofNat 3 (n / 2 ^ 5)) (bitAt n 4) (.ofNat 2 (n / 2 ^ 2)) (.ofNat 2 n))
  | 0x1B => keep (bitsOf n 20 6 == 0) "SPREF" (.spref (.ofNat 6 (n / 2 ^ 14)) (.ofNat 3 (n / 2 ^ 11)) (.ofNat 11 n))
  | 0x1C => keep (bitsOf n 5 21 == 0) "FENCE" (.fence (bitAt n 4) (.ofNat 2 (n / 2 ^ 2)) (.ofNat 2 n))
  | 0x20 => .ok (.lrun (.ofNat 26 n))
  | 0x21 => decodeMajor21 n
  | 0x22 => decodeMajor22 n
  | 0x28 => decodeMajor28 n
  | 0x29 => decodeMajor29 n
  | 0x2A => decodeMajor2A n
  | 0x2B => decodeMajor2B n
  | 0x2C => decodeMajor2C n
  | 0x2D => decodeMajor2D n
  | 0x2E => decodeMajor2E n
  | 0x2F => decodeMajor2F n
  | 0x3F => .ok (.spool (.ofNat 26 n))
  | _ => .ok (.reservedScalarOpcode (.ofNat 32 n))

/-- The lane operations of R79. -/
inductive LaneCode where
  | vadd | vsub | vmul | vmulh | vmad | vabs | vneg | vmin
  | vmax | vavg | vsad | vdot4 | vand | vor | vxor | vandn
  | vnot | vshl | vshr | vsra | vrol | vclz | vpopc | vbfx
  | vbfi | vsel | vmov | vmovi | vlaneid | vcmp | vcmpk | vfadd
  | vfsub | vfmul | vfma | vfmin | vfmax | vfabs | vfneg | vfcpsgn
  | vfcmp | vfcmpk | vfclass | vfdot2 | vfsumh | vfrcp | vfrsq | vfsqrt
  | vfexp2 | vflog2 | vfsin | vfcos | vftanh | vfdiv | vcvt | vpack
  | vunpk | vbscale | vbquant | vswz | vperm | vbcast | vshfl | vrfal
  | vred | vscan | vballot | vld | vst | vatom | vpref | lbr
  | ljoin | lend | lnop | lkill | lelect | ljmp | mj | mfence
  | mwait | amovr | amovw | azero | astore | vpass | vtake
  deriving DecidableEq, Repr

/-- The op9 number of a lane operation (R79). -/
def LaneCode.op9 : LaneCode → Nat
  | .vadd => 0x000
  | .vsub => 0x001
  | .vmul => 0x002
  | .vmulh => 0x003
  | .vmad => 0x004
  | .vabs => 0x005
  | .vneg => 0x006
  | .vmin => 0x007
  | .vmax => 0x008
  | .vavg => 0x009
  | .vsad => 0x00A
  | .vdot4 => 0x00B
  | .vand => 0x010
  | .vor => 0x011
  | .vxor => 0x012
  | .vandn => 0x013
  | .vnot => 0x014
  | .vshl => 0x018
  | .vshr => 0x019
  | .vsra => 0x01A
  | .vrol => 0x01B
  | .vclz => 0x020
  | .vpopc => 0x021
  | .vbfx => 0x022
  | .vbfi => 0x023
  | .vsel => 0x028
  | .vmov => 0x029
  | .vmovi => 0x02A
  | .vlaneid => 0x02B
  | .vcmp => 0x030
  | .vcmpk => 0x031
  | .vfadd => 0x040
  | .vfsub => 0x041
  | .vfmul => 0x042
  | .vfma => 0x043
  | .vfmin => 0x044
  | .vfmax => 0x045
  | .vfabs => 0x046
  | .vfneg => 0x047
  | .vfcpsgn => 0x04E
  | .vfcmp => 0x048
  | .vfcmpk => 0x049
  | .vfclass => 0x04A
  | .vfdot2 => 0x04B
  | .vfsumh => 0x04C
  | .vfrcp => 0x080
  | .vfrsq => 0x081
  | .vfsqrt => 0x082
  | .vfexp2 => 0x083
  | .vflog2 => 0x084
  | .vfsin => 0x085
  | .vfcos => 0x086
  | .vftanh => 0x087
  | .vfdiv => 0x088
  | .vcvt => 0x0A0
  | .vpack => 0x0A1
  | .vunpk => 0x0A2
  | .vbscale => 0x0A3
  | .vbquant => 0x0A4
  | .vswz => 0x0A5
  | .vperm => 0x0C0
  | .vbcast => 0x0C1
  | .vshfl => 0x0C2
  | .vrfal => 0x0C3
  | .vred => 0x0C4
  | .vscan => 0x0C5
  | .vballot => 0x0C6
  | .vld => 0x0E0
  | .vst => 0x0E1
  | .vatom => 0x0E2
  | .vpref => 0x0E3
  | .lbr => 0x0F0
  | .ljoin => 0x0F1
  | .lend => 0x0F2
  | .lnop => 0x0F3
  | .lkill => 0x0F4
  | .lelect => 0x0F5
  | .ljmp => 0x0F6
  | .mj => 0x100
  | .mfence => 0x101
  | .mwait => 0x102
  | .amovr => 0x103
  | .amovw => 0x104
  | .azero => 0x105
  | .astore => 0x106
  | .vpass => 0x120
  | .vtake => 0x121

/-- The lane operation with an op9 number, if R79 lists one. -/
def LaneCode.ofOp9 : Nat → Option LaneCode
  | 0x000 => some .vadd
  | 0x001 => some .vsub
  | 0x002 => some .vmul
  | 0x003 => some .vmulh
  | 0x004 => some .vmad
  | 0x005 => some .vabs
  | 0x006 => some .vneg
  | 0x007 => some .vmin
  | 0x008 => some .vmax
  | 0x009 => some .vavg
  | 0x00A => some .vsad
  | 0x00B => some .vdot4
  | 0x010 => some .vand
  | 0x011 => some .vor
  | 0x012 => some .vxor
  | 0x013 => some .vandn
  | 0x014 => some .vnot
  | 0x018 => some .vshl
  | 0x019 => some .vshr
  | 0x01A => some .vsra
  | 0x01B => some .vrol
  | 0x020 => some .vclz
  | 0x021 => some .vpopc
  | 0x022 => some .vbfx
  | 0x023 => some .vbfi
  | 0x028 => some .vsel
  | 0x029 => some .vmov
  | 0x02A => some .vmovi
  | 0x02B => some .vlaneid
  | 0x030 => some .vcmp
  | 0x031 => some .vcmpk
  | 0x040 => some .vfadd
  | 0x041 => some .vfsub
  | 0x042 => some .vfmul
  | 0x043 => some .vfma
  | 0x044 => some .vfmin
  | 0x045 => some .vfmax
  | 0x046 => some .vfabs
  | 0x047 => some .vfneg
  | 0x048 => some .vfcmp
  | 0x049 => some .vfcmpk
  | 0x04A => some .vfclass
  | 0x04B => some .vfdot2
  | 0x04C => some .vfsumh
  | 0x04E => some .vfcpsgn
  | 0x080 => some .vfrcp
  | 0x081 => some .vfrsq
  | 0x082 => some .vfsqrt
  | 0x083 => some .vfexp2
  | 0x084 => some .vflog2
  | 0x085 => some .vfsin
  | 0x086 => some .vfcos
  | 0x087 => some .vftanh
  | 0x088 => some .vfdiv
  | 0x0A0 => some .vcvt
  | 0x0A1 => some .vpack
  | 0x0A2 => some .vunpk
  | 0x0A3 => some .vbscale
  | 0x0A4 => some .vbquant
  | 0x0A5 => some .vswz
  | 0x0C0 => some .vperm
  | 0x0C1 => some .vbcast
  | 0x0C2 => some .vshfl
  | 0x0C3 => some .vrfal
  | 0x0C4 => some .vred
  | 0x0C5 => some .vscan
  | 0x0C6 => some .vballot
  | 0x0E0 => some .vld
  | 0x0E1 => some .vst
  | 0x0E2 => some .vatom
  | 0x0E3 => some .vpref
  | 0x0F0 => some .lbr
  | 0x0F1 => some .ljoin
  | 0x0F2 => some .lend
  | 0x0F3 => some .lnop
  | 0x0F4 => some .lkill
  | 0x0F5 => some .lelect
  | 0x0F6 => some .ljmp
  | 0x100 => some .mj
  | 0x101 => some .mfence
  | 0x102 => some .mwait
  | 0x103 => some .amovr
  | 0x104 => some .amovw
  | 0x105 => some .azero
  | 0x106 => some .astore
  | 0x120 => some .vpass
  | 0x121 => some .vtake
  | _ => none

/-- The instruction that a lone lane operation is. -/
def LaneCode.instr (o : LaneOp) : LaneCode → Instr
  | .vadd => .vadd o
  | .vsub => .vsub o
  | .vmul => .vmul o
  | .vmulh => .vmulh o
  | .vmad => .vmad o
  | .vabs => .vabs o
  | .vneg => .vneg o
  | .vmin => .vmin o
  | .vmax => .vmax o
  | .vavg => .vavg o
  | .vsad => .vsad o
  | .vdot4 => .vdot4 o
  | .vand => .vand o
  | .vor => .vor o
  | .vxor => .vxor o
  | .vandn => .vandn o
  | .vnot => .vnot o
  | .vshl => .vshl o
  | .vshr => .vshr o
  | .vsra => .vsra o
  | .vrol => .vrol o
  | .vclz => .vclz o
  | .vpopc => .vpopc o
  | .vbfx => .vbfx o
  | .vbfi => .vbfi o
  | .vsel => .vsel o
  | .vmov => .vmov o
  | .vmovi => .vmovi o
  | .vlaneid => .vlaneid o
  | .vcmp => .vcmp o
  | .vcmpk => .vcmpk o
  | .vfadd => .vfadd o
  | .vfsub => .vfsub o
  | .vfmul => .vfmul o
  | .vfma => .vfma o
  | .vfmin => .vfmin o
  | .vfmax => .vfmax o
  | .vfabs => .vfabs o
  | .vfneg => .vfneg o
  | .vfcpsgn => .vfcpsgn o
  | .vfcmp => .vfcmp o
  | .vfcmpk => .vfcmpk o
  | .vfclass => .vfclass o
  | .vfdot2 => .vfdot2 o
  | .vfsumh => .vfsumh o
  | .vfrcp => .vfrcp o
  | .vfrsq => .vfrsq o
  | .vfsqrt => .vfsqrt o
  | .vfexp2 => .vfexp2 o
  | .vflog2 => .vflog2 o
  | .vfsin => .vfsin o
  | .vfcos => .vfcos o
  | .vftanh => .vftanh o
  | .vfdiv => .vfdiv o
  | .vcvt => .vcvt o
  | .vpack => .vpack o
  | .vunpk => .vunpk o
  | .vbscale => .vbscale o
  | .vbquant => .vbquant o
  | .vswz => .vswz o
  | .vperm => .vperm o
  | .vbcast => .vbcast o
  | .vshfl => .vshfl o
  | .vrfal => .vrfal o
  | .vred => .vred o
  | .vscan => .vscan o
  | .vballot => .vballot o
  | .vld => .vld o
  | .vst => .vst o
  | .vatom => .vatom o
  | .vpref => .vpref o
  | .lbr => .lbr o
  | .ljoin => .ljoin o
  | .lend => .lend o
  | .lnop => .lnop o
  | .lkill => .lkill o
  | .lelect => .lelect o
  | .ljmp => .ljmp o
  | .mj => .mj o
  | .mfence => .mfence o
  | .mwait => .mwait o
  | .amovr => .amovr o
  | .amovw => .amovw o
  | .azero => .azero o
  | .astore => .astore o
  | .vpass => .vpass o
  | .vtake => .vtake o

/-- The lane operation that an instruction is, if it is one. -/
def Instr.laneOp : Instr → Option (LaneCode × LaneOp)
  | .vadd o => some (.vadd, o)
  | .vsub o => some (.vsub, o)
  | .vmul o => some (.vmul, o)
  | .vmulh o => some (.vmulh, o)
  | .vmad o => some (.vmad, o)
  | .vabs o => some (.vabs, o)
  | .vneg o => some (.vneg, o)
  | .vmin o => some (.vmin, o)
  | .vmax o => some (.vmax, o)
  | .vavg o => some (.vavg, o)
  | .vsad o => some (.vsad, o)
  | .vdot4 o => some (.vdot4, o)
  | .vand o => some (.vand, o)
  | .vor o => some (.vor, o)
  | .vxor o => some (.vxor, o)
  | .vandn o => some (.vandn, o)
  | .vnot o => some (.vnot, o)
  | .vshl o => some (.vshl, o)
  | .vshr o => some (.vshr, o)
  | .vsra o => some (.vsra, o)
  | .vrol o => some (.vrol, o)
  | .vclz o => some (.vclz, o)
  | .vpopc o => some (.vpopc, o)
  | .vbfx o => some (.vbfx, o)
  | .vbfi o => some (.vbfi, o)
  | .vsel o => some (.vsel, o)
  | .vmov o => some (.vmov, o)
  | .vmovi o => some (.vmovi, o)
  | .vlaneid o => some (.vlaneid, o)
  | .vcmp o => some (.vcmp, o)
  | .vcmpk o => some (.vcmpk, o)
  | .vfadd o => some (.vfadd, o)
  | .vfsub o => some (.vfsub, o)
  | .vfmul o => some (.vfmul, o)
  | .vfma o => some (.vfma, o)
  | .vfmin o => some (.vfmin, o)
  | .vfmax o => some (.vfmax, o)
  | .vfabs o => some (.vfabs, o)
  | .vfneg o => some (.vfneg, o)
  | .vfcpsgn o => some (.vfcpsgn, o)
  | .vfcmp o => some (.vfcmp, o)
  | .vfcmpk o => some (.vfcmpk, o)
  | .vfclass o => some (.vfclass, o)
  | .vfdot2 o => some (.vfdot2, o)
  | .vfsumh o => some (.vfsumh, o)
  | .vfrcp o => some (.vfrcp, o)
  | .vfrsq o => some (.vfrsq, o)
  | .vfsqrt o => some (.vfsqrt, o)
  | .vfexp2 o => some (.vfexp2, o)
  | .vflog2 o => some (.vflog2, o)
  | .vfsin o => some (.vfsin, o)
  | .vfcos o => some (.vfcos, o)
  | .vftanh o => some (.vftanh, o)
  | .vfdiv o => some (.vfdiv, o)
  | .vcvt o => some (.vcvt, o)
  | .vpack o => some (.vpack, o)
  | .vunpk o => some (.vunpk, o)
  | .vbscale o => some (.vbscale, o)
  | .vbquant o => some (.vbquant, o)
  | .vswz o => some (.vswz, o)
  | .vperm o => some (.vperm, o)
  | .vbcast o => some (.vbcast, o)
  | .vshfl o => some (.vshfl, o)
  | .vrfal o => some (.vrfal, o)
  | .vred o => some (.vred, o)
  | .vscan o => some (.vscan, o)
  | .vballot o => some (.vballot, o)
  | .vld o => some (.vld, o)
  | .vst o => some (.vst, o)
  | .vatom o => some (.vatom, o)
  | .vpref o => some (.vpref, o)
  | .lbr o => some (.lbr, o)
  | .ljoin o => some (.ljoin, o)
  | .lend o => some (.lend, o)
  | .lnop o => some (.lnop, o)
  | .lkill o => some (.lkill, o)
  | .lelect o => some (.lelect, o)
  | .ljmp o => some (.ljmp, o)
  | .mj o => some (.mj, o)
  | .mfence o => some (.mfence, o)
  | .mwait o => some (.mwait, o)
  | .amovr o => some (.amovr, o)
  | .amovw o => some (.amovw, o)
  | .azero o => some (.azero, o)
  | .astore o => some (.astore, o)
  | .vpass o => some (.vpass, o)
  | .vtake o => some (.vtake, o)
  | _ => none

/-- The long operation of a lane word (R73, R74). -/
def longOp (n : Nat) : LaneOp :=
  { stall := .ofNat 4 (n / 2 ^ 92), d := .ofNat 7 (n / 2 ^ 73), a := .ofNat 7 (n / 2 ^ 66), b := .ofNat 7 (n / 2 ^ 59),
    c := .ofNat 7 (n / 2 ^ 52), k := .ofNat 3 (n / 2 ^ 49), ty := .ofNat 4 (n / 2 ^ 45), md := .ofNat 13 (n / 2 ^ 32),
    imm := .ofNat 32 n }

/-- A short operation, from its 45 bits (R75). -/
def shortOp (n : Nat) : ShortOp :=
  { op9 := .ofNat 9 (n / 2 ^ 36), d := .ofNat 7 (n / 2 ^ 29), a := .ofNat 7 (n / 2 ^ 22), b := .ofNat 7 (n / 2 ^ 15),
    k := .ofNat 3 (n / 2 ^ 12), ty := .ofNat 4 (n / 2 ^ 8), md := .ofNat 8 n }

/-- The long form that a short operation stands for (R75): c, imm32 and mod13[11:7] are zero. -/
def ShortOp.long (o : ShortOp) (stall : BitVec 4) : LaneOp :=
  { stall, d := o.d, a := o.a, b := o.b, c := 0, k := o.k, ty := o.ty,
    md := .ofNat 13 (o.md.toNat / 2 ^ 7 * 2 ^ 12 + o.md.toNat % 2 ^ 7), imm := 0 }

/-- The lane decoder (R73 to R79), total on every word. Which types, modifiers and registers an operation takes is checked
when it executes, because the register range is the wave's (R77, R80). -/
def decodeLane (n : Nat) : Except DecodeError Instr :=
  match bitsOf n 90 2 with
  | 0 =>
    if bitAt n 89 then .ok (.reservedLaneOpcode (.ofNat 96 n))
    else match LaneCode.ofOp9 (bitsOf n 80 9) with
      | some op => .ok (op.instr (longOp n))
      | none => .ok (.reservedLaneOpcode (.ofNat 96 n))
  | 1 => .ok (.laneWordPair (.ofNat 4 (n / 2 ^ 92)) (shortOp (n / 2 ^ 45)) (shortOp n))
  | _ => .ok (.reservedLaneOpcode (.ofNat 96 n))

/-- The instruction that the decoders read from an instruction of the opcode table: a scalar word of 32 bits or a lane word
of 96 bits (R61, R73). The events of the table have no bits. -/
def decodeTableWord (nbits w : Nat) : Option Instr :=
  let r := if nbits ≤ 32 then decodeScalar (w % 2 ^ 32) else decodeLane (w % 2 ^ 96)
  match r with
  | .ok i => some i
  | .error _ => none

/-- A number made of a base and of fields, each at its lowest bit. -/
def fields (base : Nat) (l : List (Nat × Nat)) : Nat := l.foldl (fun n f => n + f.1 * 2 ^ f.2) base

/-- The word of a scalar instruction as a number, from the encoding tables of R61 to R72 and the chapters; an event has no
word, and a lane operation has a lane word. -/
def encodeScalarNat : Instr → Option Nat
  | .snop => some 0x00000000
  | .halt => some 0x00000001
  | .bkpt => some 0x00000002
  | .trap n => some (fields 0x00000003 [(n.toNat, 14)])
  | .tret => some 0x00000004
  | .tretSkip => some 0x00000024
  | .sysrd d n => some (fields 0x00000005 [(d.toNat, 20), (n.toNat, 8)])
  | .syswr d n => some (fields 0x00000006 [(d.toNat, 20), (n.toNat, 8)])
  | .perfrd d n => some (fields 0x00000007 [(d.toNat, 20), (n.toNat, 8)])
  | .time d => some (fields 0x00000008 [(d.toNat, 20)])
  | .sadd d a b => some (fields 0x04000000 [(d.toNat, 20), (a.toNat, 14), (b.toNat, 8)])
  | .ssub d a b => some (fields 0x04000001 [(d.toNat, 20), (a.toNat, 14), (b.toNat, 8)])
  | .smul d a b => some (fields 0x04000002 [(d.toNat, 20), (a.toNat, 14), (b.toNat, 8)])
  | .smulh d a b => some (fields 0x04000003 [(d.toNat, 20), (a.toNat, 14), (b.toNat, 8)])
  | .smulhu d a b => some (fields 0x04000004 [(d.toNat, 20), (a.toNat, 14), (b.toNat, 8)])
  | .sdiv d a b => some (fields 0x04000005 [(d.toNat, 20), (a.toNat, 14), (b.toNat, 8)])
  | .sdivu d a b => some (fields 0x04000006 [(d.toNat, 20), (a.toNat, 14), (b.toNat, 8)])
  | .srem d a b => some (fields 0x04000007 [(d.toNat, 20), (a.toNat, 14), (b.toNat, 8)])
  | .sremu d a b => some (fields 0x04000008 [(d.toNat, 20), (a.toNat, 14), (b.toNat, 8)])
  | .sand d a b => some (fields 0x04000010 [(d.toNat, 20), (a.toNat, 14), (b.toNat, 8)])
  | .sor d a b => some (fields 0x04000011 [(d.toNat, 20), (a.toNat, 14), (b.toNat, 8)])
  | .sxor d a b => some (fields 0x04000012 [(d.toNat, 20), (a.toNat, 14), (b.toNat, 8)])
  | .sandn d a b => some (fields 0x04000013 [(d.toNat, 20), (a.toNat, 14), (b.toNat, 8)])
  | .sorn d a b => some (fields 0x04000014 [(d.toNat, 20), (a.toNat, 14), (b.toNat, 8)])
  | .sshl d a b => some (fields 0x04000018 [(d.toNat, 20), (a.toNat, 14), (b.toNat, 8)])
  | .sshr d a b => some (fields 0x04000019 [(d.toNat, 20), (a.toNat, 14), (b.toNat, 8)])
  | .ssra d a b => some (fields 0x0400001A [(d.toNat, 20), (a.toNat, 14), (b.toNat, 8)])
  | .srol d a b => some (fields 0x0400001B [(d.toNat, 20), (a.toNat, 14), (b.toNat, 8)])
  | .sror d a b => some (fields 0x0400001C [(d.toNat, 20), (a.toNat, 14), (b.toNat, 8)])
  | .smin d a b => some (fields 0x04000020 [(d.toNat, 20), (a.toNat, 14), (b.toNat, 8)])
  | .smax d a b => some (fields 0x04000021 [(d.toNat, 20), (a.toNat, 14), (b.toNat, 8)])
  | .sminu d a b => some (fields 0x04000022 [(d.toNat, 20), (a.toNat, 14), (b.toNat, 8)])
  | .smaxu d a b => some (fields 0x04000023 [(d.toNat, 20), (a.toNat, 14), (b.toNat, 8)])
  | .sclz d a => some (fields 0x04000028 [(d.toNat, 20), (a.toNat, 14)])
  | .sctz d a => some (fields 0x04000029 [(d.toNat, 20), (a.toNat, 14)])
  | .spopc d a => some (fields 0x0400002A [(d.toNat, 20), (a.toNat, 14)])
  | .sbrev d a => some (fields 0x0400002B [(d.toNat, 20), (a.toNat, 14)])
  | .sbswap d a => some (fields 0x0400002C [(d.toNat, 20), (a.toNat, 14)])
  | .saddw d a b => some (fields 0x04000030 [(d.toNat, 20), (a.toNat, 14), (b.toNat, 8)])
  | .ssubw d a b => some (fields 0x04000031 [(d.toNat, 20), (a.toNat, 14), (b.toNat, 8)])
  | .sceq d a b => some (fields 0x08000000 [(d.toNat, 20), (a.toNat, 14), (b.toNat, 8)])
  | .scne d a b => some (fields 0x08000001 [(d.toNat, 20), (a.toNat, 14), (b.toNat, 8)])
  | .sclt d a b => some (fields 0x08000002 [(d.toNat, 20), (a.toNat, 14), (b.toNat, 8)])
  | .scltu d a b => some (fields 0x08000003 [(d.toNat, 20), (a.toNat, 14), (b.toNat, 8)])
  | .scle d a b => some (fields 0x08000004 [(d.toNat, 20), (a.toNat, 14), (b.toNat, 8)])
  | .scleu d a b => some (fields 0x08000005 [(d.toNat, 20), (a.toNat, 14), (b.toNat, 8)])
  | .saddi d a imm => some (fields 0x0C000000 [(d.toNat, 20), (a.toNat, 14), (imm.toNat, 0)])
  | .sandi d a imm => some (fields 0x10000000 [(d.toNat, 20), (a.toNat, 14), (imm.toNat, 0)])
  | .sori d a imm => some (fields 0x14000000 [(d.toNat, 20), (a.toNat, 14), (imm.toNat, 0)])
  | .sxori d a imm => some (fields 0x18000000 [(d.toNat, 20), (a.toNat, 14), (imm.toNat, 0)])
  | .sshli d a imm => some (fields 0x1C000000 [(d.toNat, 20), (a.toNat, 14), (imm.toNat, 0)])
  | .sshri d a imm => some (fields 0x1C001000 [(d.toNat, 20), (a.toNat, 14), (imm.toNat, 0)])
  | .ssrai d a imm => some (fields 0x1C002000 [(d.toNat, 20), (a.toNat, 14), (imm.toNat, 0)])
  | .sroli d a imm => some (fields 0x1C003000 [(d.toNat, 20), (a.toNat, 14), (imm.toNat, 0)])
  | .sclti d a imm => some (fields 0x20000000 [(d.toNat, 20), (a.toNat, 14), (imm.toNat, 0)])
  | .slui d imm => some (fields 0x24000000 [(d.toNat, 20), (imm.toNat, 0)])
  | .sadrp d imm => some (fields 0x28000000 [(d.toNat, 20), (imm.toNat, 0)])
  | .slit d imm => some (fields 0x2C000000 [(d.toNat, 20), (imm.toNat, 0)])
  | .sbfx d a p len => some (fields 0x30000000 [(d.toNat, 20), (a.toNat, 14), (p.toNat, 6), (len.toNat, 0)])
  | .sbfxs d a p len => some (fields 0x30001000 [(d.toNat, 20), (a.toNat, 14), (p.toNat, 6), (len.toNat, 0)])
  | .sbfi d a p len => some (fields 0x30002000 [(d.toNat, 20), (a.toNat, 14), (p.toNat, 6), (len.toNat, 0)])
  | .ssel d a b c => some (fields 0x34000000 [(d.toNat, 20), (a.toNat, 14), (b.toNat, 8), (c.toNat, 0)])
  | .beqz a off => some (fields 0x40000000 [(a.toNat, 16), (off.toNat, 0)])
  | .bnez a off => some (fields 0x40400000 [(a.toNat, 16), (off.toNat, 0)])
  | .bltz a off => some (fields 0x40800000 [(a.toNat, 16), (off.toNat, 0)])
  | .bgez a off => some (fields 0x40C00000 [(a.toNat, 16), (off.toNat, 0)])
  | .bgtz a off => some (fields 0x41000000 [(a.toNat, 16), (off.toNat, 0)])
  | .blez a off => some (fields 0x41400000 [(a.toNat, 16), (off.toNat, 0)])
  | .bkany a off => some (fields 0x41800000 [(a.toNat, 16), (off.toNat, 0)])
  | .bknone a off => some (fields 0x41C00000 [(a.toNat, 16), (off.toNat, 0)])
  | .bkall a off => some (fields 0x42000000 [(a.toNat, 16), (off.toNat, 0)])
  | .jmp imm => some (fields 0x44000000 [(imm.toNat, 0)])
  | .call imm => some (fields 0x48000000 [(imm.toNat, 0)])
  | .jr a => some (fields 0x4C000000 [(a.toNat, 14)])
  | .jalr d a => some (fields 0x4C000001 [(d.toNat, 20), (a.toNat, 14)])
  | .sld d a size off => some (fields 0x60000000 [(d.toNat, 20), (a.toNat, 14), (size.toNat, 11), (off.toNat, 0)])
  | .sst d a size off => some (fields 0x64000000 [(d.toNat, 20), (a.toNat, 14), (size.toNat, 11), (off.toNat, 0)])
  | .satom d a b op wide ord scope => some (fields 0x68000000 [(d.toNat, 20), (a.toNat, 14), (b.toNat, 8), (op.toNat, 5), (wide.toNat, 4), (ord.toNat, 2), (scope.toNat, 0)])
  | .spref a size off => some (fields 0x6C000000 [(a.toNat, 14), (size.toNat, 11), (off.toNat, 0)])
  | .fence xfer kind scope => some (fields 0x70000000 [(xfer.toNat, 4), (kind.toNat, 2), (scope.toNat, 0)])
  | .lrun imm => some (fields 0x80000000 [(imm.toNat, 0)])
  | .lwait n => some (fields 0x84000000 [(n.toNat, 14)])
  | .sqrd d a => some (fields 0x84000001 [(d.toNat, 20), (a.toNat, 14)])
  | .kand d a b => some (fields 0x88000000 [(d.toNat, 20), (a.toNat, 14), (b.toNat, 8)])
  | .kor d a b => some (fields 0x88000001 [(d.toNat, 20), (a.toNat, 14), (b.toNat, 8)])
  | .kxor d a b => some (fields 0x88000002 [(d.toNat, 20), (a.toNat, 14), (b.toNat, 8)])
  | .kandn d a b => some (fields 0x88000003 [(d.toNat, 20), (a.toNat, 14), (b.toNat, 8)])
  | .knot d a => some (fields 0x88000004 [(d.toNat, 20), (a.toNat, 14)])
  | .kfroms d a => some (fields 0x88000005 [(d.toNat, 20), (a.toNat, 14)])
  | .ktos d a => some (fields 0x88000006 [(d.toNat, 20), (a.toNat, 14)])
  | .kpop d a => some (fields 0x88000007 [(d.toNat, 20), (a.toNat, 14)])
  | .kfirst d a => some (fields 0x88000008 [(d.toNat, 20), (a.toNat, 14)])
  | .kact d => some (fields 0x88000009 [(d.toNat, 20)])
  | .wspawn d a det team nb => some (fields 0xA0000000 [(d.toNat, 20), (a.toNat, 14), (det.toNat, 2), (team.toNat, 1), (nb.toNat, 0)])
  | .wexit => some 0xA0000010
  | .wyield => some 0xA0000020
  | .wself d => some (fields 0xA0000030 [(d.toNat, 20)])
  | .wprio d a b => some (fields 0xA0000040 [(d.toNat, 20), (a.toNat, 14), (b.toNat, 8)])
  | .wkill a => some (fields 0xA0000050 [(a.toNat, 14)])
  | .wkillCtx a => some (fields 0xA0000051 [(a.toNat, 14)])
  | .wjoin d a nb => some (fields 0xA0000060 [(d.toNat, 20), (a.toNat, 14), (nb.toNat, 0)])
  | .pcreate d a nb launch => some (fields 0xA4000000 [(d.toNat, 20), (a.toNat, 14), (nb.toNat, 1), (launch.toNat, 0)])
  | .pclose d a now => some (fields 0xA4000010 [(d.toNat, 20), (a.toNat, 14), (now.toNat, 0)])
  | .psend d a b rep st nb => some (fields 0xA4000020 [(d.toNat, 20), (a.toNat, 14), (b.toNat, 8), (rep.toNat, 2), (st.toNat, 1), (nb.toNat, 0)])
  | .psendg d a b rep st nb => some (fields 0xA4000030 [(d.toNat, 20), (a.toNat, 14), (b.toNat, 8), (rep.toNat, 2), (st.toNat, 1), (nb.toNat, 0)])
  | .precv d a b => some (fields 0xA4000040 [(d.toNat, 20), (a.toNat, 14), (b.toNat, 8)])
  | .ppeek d a b => some (fields 0xA4000050 [(d.toNat, 20), (a.toNat, 14), (b.toNat, 8)])
  | .pinfo d a => some (fields 0xA4000060 [(d.toNat, 20), (a.toNat, 14)])
  | .nreg d a b => some (fields 0xA8000000 [(d.toNat, 20), (a.toNat, 14), (b.toNat, 8)])
  | .nlookup d a st => some (fields 0xA8000010 [(d.toNat, 20), (a.toNat, 14), (st.toNat, 0)])
  | .ndrop d a => some (fields 0xA8000020 [(d.toNat, 20), (a.toNat, 14)])
  | .wsnew d nb => some (fields 0xAC000000 [(d.toNat, 20), (nb.toNat, 0)])
  | .wsadd d a b batch => some (fields 0xAC000010 [(d.toNat, 20), (a.toNat, 14), (b.toNat, 8), (batch.toNat, 0)])
  | .wsdel d a b => some (fields 0xAC000020 [(d.toNat, 20), (a.toNat, 14), (b.toNat, 8)])
  | .wswait d a nb => some (fields 0xAC000030 [(d.toNat, 20), (a.toNat, 14), (nb.toNat, 0)])
  | .watch d a nb => some (fields 0xAC000040 [(d.toNat, 20), (a.toNat, 14), (nb.toNat, 0)])
  | .tarm d a b nb abs => some (fields 0xAC000050 [(d.toNat, 20), (a.toNat, 14), (b.toNat, 8), (nb.toNat, 1), (abs.toNat, 0)])
  | .tdisarm d a => some (fields 0xAC000060 [(d.toNat, 20), (a.toNat, 14)])
  | .oclose d a => some (fields 0xAC000070 [(d.toNat, 20), (a.toNat, 14)])
  | .xcopy d a nb h => some (fields 0xB0000000 [(d.toNat, 20), (a.toNat, 14), (nb.toNat, 1), (h.toNat, 0)])
  | .xstore d a nb h => some (fields 0xB0000010 [(d.toNat, 20), (a.toNat, 14), (nb.toNat, 1), (h.toNat, 0)])
  | .xgather d a b nb h => some (fields 0xB0000020 [(d.toNat, 20), (a.toNat, 14), (b.toNat, 8), (nb.toNat, 1), (h.toNat, 0)])
  | .xbatch d => some (fields 0xB0000030 [(d.toNat, 20)])
  | .xwaitb d a nb => some (fields 0xB0000040 [(d.toNat, 20), (a.toNat, 14), (nb.toNat, 0)])
  | .xwaitc d a b nb => some (fields 0xB0000050 [(d.toNat, 20), (a.toNat, 14), (b.toNat, 8), (nb.toNat, 0)])
  | .xcancel d a batch => some (fields 0xB0000060 [(d.toNat, 20), (a.toNat, 14), (batch.toNat, 0)])
  | .xstat d a batch => some (fields 0xB0000070 [(d.toNat, 20), (a.toNat, 14), (batch.toNat, 0)])
  | .tdecl d a nb => some (fields 0xB4000000 [(d.toNat, 20), (a.toNat, 14), (nb.toNat, 0)])
  | .tdeclDrop d a nb => some (fields 0xB4000002 [(d.toNat, 20), (a.toNat, 14), (nb.toNat, 0)])
  | .tload d a nb h => some (fields 0xB4000010 [(d.toNat, 20), (a.toNat, 14), (nb.toNat, 1), (h.toNat, 0)])
  | .tstore d a nb h => some (fields 0xB4000020 [(d.toNat, 20), (a.toNat, 14), (nb.toNat, 1), (h.toNat, 0)])
  | .tconv d a nb h => some (fields 0xB4000030 [(d.toNat, 20), (a.toNat, 14), (nb.toNat, 1), (h.toNat, 0)])
  | .tseal d a b => some (fields 0xB4000040 [(d.toNat, 20), (a.toNat, 14), (b.toNat, 8)])
  | .tsealOpen d a b => some (fields 0xB4000041 [(d.toNat, 20), (a.toNat, 14), (b.toNat, 8)])
  | .tinfo d a b => some (fields 0xB4000050 [(d.toNat, 20), (a.toNat, 14), (b.toNat, 8)])
  | .meshdef d a => some (fields 0xB4000060 [(d.toNat, 20), (a.toNat, 14)])
  | .treg d a nb => some (fields 0xB8000000 [(d.toNat, 20), (a.toNat, 14), (nb.toNat, 0)])
  | .tdrop d a => some (fields 0xB8000010 [(d.toNat, 20), (a.toNat, 14)])
  | .tmove d a b nb => some (fields 0xB8000020 [(d.toNat, 20), (a.toNat, 14), (b.toNat, 8), (nb.toNat, 0)])
  | .solicit d a nb => some (fields 0xB8000030 [(d.toNat, 20), (a.toNat, 14), (nb.toNat, 0)])
  | .reply a => some (fields 0xB8000040 [(a.toNat, 14)])
  | .cwait d a st nb => some (fields 0xB8000050 [(d.toNat, 20), (a.toNat, 14), (st.toNat, 1), (nb.toNat, 0)])
  | .barw d => some (fields 0xBC000000 [(d.toNat, 20)])
  | .barc d => some (fields 0xBC000010 [(d.toNat, 20)])
  | .barn d a b => some (fields 0xBC000020 [(d.toNat, 20), (a.toNat, 14), (b.toNat, 8)])
  | .gangset a => some (fields 0xBC000030 [(a.toNat, 14)])
  | .irb d => some (fields 0xBC000040 [(d.toNat, 20)])
  | .irc => some 0xBC000050
  | .barinit d a b => some (fields 0xBC000060 [(d.toNat, 20), (a.toNat, 14), (b.toNat, 8)])
  | .spool len => some (fields 0xFC000000 [(len.toNat, 0)])
  | .reservedScalarOpcode w => some w.toNat
  | _ => none

/-- The word of a scalar instruction (R61 to R72). -/
def encodeScalar (i : Instr) : Option (BitVec 32) := (encodeScalarNat i).map (.ofNat 32)

/-- A short operation as a number (R75). -/
def ShortOp.toNat (o : ShortOp) : Nat :=
  o.op9.toNat * 2 ^ 36 + o.d.toNat * 2 ^ 29 + o.a.toNat * 2 ^ 22 + o.b.toNat * 2 ^ 15 + o.k.toNat * 2 ^ 12 +
    o.ty.toNat * 2 ^ 8 + o.md.toNat

/-- The lane word of an operation or of a pair, as a number (R73 to R75). -/
def encodeLaneNat (i : Instr) : Option Nat :=
  match i with
  | .laneWordPair stall x y => some (stall.toNat * 2 ^ 92 + 2 ^ 90 + x.toNat * 2 ^ 45 + y.toNat)
  | .reservedLaneOpcode w => some w.toNat
  | i =>
    match i.laneOp with
    | some (op, o) =>
      some (o.stall.toNat * 2 ^ 92 + op.op9 * 2 ^ 80 + o.d.toNat * 2 ^ 73 + o.a.toNat * 2 ^ 66 + o.b.toNat * 2 ^ 59 +
        o.c.toNat * 2 ^ 52 + o.k.toNat * 2 ^ 49 + o.ty.toNat * 2 ^ 45 + o.md.toNat * 2 ^ 32 + o.imm.toNat)
    | none => none

/-- The lane word of an operation or of a pair (R73 to R75). -/
def encodeLane (i : Instr) : Option (BitVec 96) := (encodeLaneNat i).map (.ofNat 96)

/-- The words of an instruction: the scalar word, or the lane word; an event has none. -/
def encode (i : Instr) : Option (Nat × Nat) :=
  match encodeScalarNat i with
  | some n => some (32, n)
  | none => (encodeLaneNat i).map fun n => (96, n)

end Sys2Proof
end

