-- ==== Sys2Proof/Machine/State.lean ====
section
/-!
DEFINITION. The state of a pod of Oluebs, as plain data: every piece of state the manual names, and the model's own turn,
inputs and counter of free values. Objects of one kind stand in one list and name one another by `uid`.
-/

namespace Sys2Proof.Machine

/-- How the model stops. Every effect of the manual, its traps included, is a next state. -/
inductive Fault where
  /-- Raised by no meaning: every condition of the manual ends in a next state, so this reason is unused (safe). -/
  | unreachable
  deriving DecidableEq, Repr

/-- Why an instruction has no meaning here. -/
inductive Refusal where
  /-- Raised by an arm of `exec` that is not written yet (safe: the machine stops where the hardware goes on). -/
  | notModelled (mnemonic : String)
  deriving DecidableEq, Repr

/-! ## Paths, blocks and waves -/

/-- A register as the scoreboard names it (R83). -/
inductive RegRef where
  | v (n : Nat) | k (n : Nat) | q (n : Nat)
  deriving DecidableEq, Repr, Inhabited

/-- The place of a path: a slot, a split-table entry (R137), or spilled with its kind 0x2 handle (R137, R141). -/
inductive Place where
  | slotA | slotB | fragment | detached | spilled | reloading
  deriving DecidableEq, Repr, Inhabited

/-- A fixed-latency result that is not yet old enough to read (R84): its lanes and the encoded distance that is missing. -/
structure FixedPend where
  reg : RegRef
  lanes : BitVec 32
  left : Nat
  deriving DecidableEq, Repr, Inhabited

/-- A variable-latency result that is not written yet (R83): values by lane, and the lanes and bits it replaces. -/
structure VarPend where
  reg : RegRef
  lanes : BitVec 32
  keep : Word
  vals : List Word
  deriving DecidableEq, Repr, Inhabited

/-- Why a path does not issue: at an LJOIN, at the rendezvous latch, at a rendezvous slot, at FIFO banks for a push or a pop (a mask of
keys), at an MWAIT with the joint operations that it found. `ord` gives the order of arrival, `since` the time. -/
inductive PathWait where
  | none
  | join (j ord : Nat)
  | latch
  | slot (r since ord word : Nat)
  | fifo (keys ord : Nat)
  | product (ops : List Nat)
  deriving DecidableEq, Repr, Inhabited

/-- A path of a lane block (R135). `ended` is set once it has reached LEND or has ended (R139); `issued` tells when it issued last
(R143). -/
structure Path where
  live : Bool
  id : Nat
  parent : Nat
  join : Nat
  lpc : Nat
  mask : BitVec 32
  place : Place
  ended : Bool
  wait : PathWait
  fixed : List FixedPend
  var : List VarPend
  spill : Nat
  born : Nat
  issued : Nat
  deriving DecidableEq, Repr, Inhabited

/-- An entry of a lane queue (R174): the first lane word, the snapshot of s48 to s63, and the CHK and GANG values that its words
run with (R85, R276). -/
structure Block where
  start : Nat
  uniform : List Word
  chk : Word
  gang : Word
  deriving DecidableEq, Repr, Inhabited

/-- The lane side of a wave at one level (R174, R180, R394): its queue, whose head runs when `running`, the paths other
than the executing one, the path counter, and the slot that issued last (R140). -/
structure Engine where
  queue : List Block
  running : Bool
  paths : List Path
  nextId : Nat
  last : Place
  deriving DecidableEq, Repr, Inhabited

/-- The levels a wave runs at (R105); service is a property of its context. -/
inductive Level where
  | ordinary | handler
  deriving DecidableEq, Repr, Inhabited

/-- The states of a wave (R133). -/
inductive WaveState where
  | created | ready | resident | waiting | handler | parked | exited
  deriving DecidableEq, Repr, Inhabited

/-- What a wait is for, when the manual lets another call complete it or orders it: a `moved` wait is that of a TMOVE that has committed
(R376). -/
inductive WaitKind where
  | plain | waitSet | send | join | fifo | census | batch | slot | drop | barrier | move | moved
  deriving DecidableEq, Repr, Inhabited

/-- A wait in progress: the object it is on, the result register, when it began, its place in the order of arrivals, and whether it is a
blocking wait of R133. -/
structure WaitRec where
  kind : WaitKind
  obj : Nat
  d : SReg
  since : Nat
  ord : Nat
  blocking : Bool
  deriving DecidableEq, Repr, Inhabited

/-- A trap condition: cause (R391), HADDR, HINFO, HLANES, and whether a lane word or a copy raised it (R390). -/
structure Trap where
  cause : Nat
  addr : Word := 0
  info : Word := 0
  lanes : BitVec 32 := 0
  lane : Bool := false
  xfer : Bool := false
  lpc : Word := 0
  path : Nat := 0
  seq : Nat := 0
  copy : Nat := 0
  pend : Bool := false
  word : Nat := 0
  boundary : Bool := false
  deriving DecidableEq, Repr, Inhabited

/-- An open idempotent region (R350, R351): the address of the IRB, the buffered bytes by generic address, and the page it
waits for (R353). -/
structure Region where
  irb : Word
  buf : List Host.Cell
  deriving DecidableEq, Repr, Inhabited

/-- A recorded barrier arrival (R331): the barrier (0 team, 1 cluster, 2 + n named n) and the phase. -/
structure Arrival where
  bar : Nat
  phase : BitVec 32
  deriving DecidableEq, Repr, Inhabited

/-- A wave (R20, R105, R107, R125, R133). `uid` 0 names no wave; `loose` lists the v registers written with no MFENCE since (R247);
`pageInfo` holds STAGE, LEVEL and WR of the access that waits for a page, `pageSince` when that began (R337, R353); `issued` tells when its scalar stream issued last
(R143); `yieldTo` holds the scalar streams and paths it has yielded to, until `yieldEnd` (R155); `abandoned` the wait that its trap
abandoned (R180). -/
structure Wave where
  uid : Nat
  dev : Nat
  core : Nat
  ctx : Nat
  team : Nat
  kernel : Nat
  handle : BitVec 32
  launch : Option Nat
  ofLaunch : Bool
  responder : Option Nat
  ceiling : BitVec 3
  joinable : Bool
  index : Nat
  tpos : Nat
  teamIndex : BitVec 32
  clusterIndex : BitVec 32
  gridpos : Word
  s : Vector Word 64
  k : Vector (BitVec 32) 8
  q : Vector Word 8
  v : Vector (Vector Word 32) 128
  vregs : Nat
  pc : Word
  prev : Word
  level : Level
  st : WaveState
  prio : BitVec 3
  live : BitVec 32
  fstat : Word
  fmode : Word
  dphase : Word
  chk : Word
  gang : Word
  hcause : Word
  hpc : Word
  hlpc : Word
  haddr : Word
  hlanes : Word
  hinfo : Word
  trapIrb : Option Word
  trapPath : Nat
  trapCopy : Nat
  trapWord : Nat
  trapBoundary : Bool
  eng : Engine
  held : Engine
  region : Option Region
  replays : Nat
  pageWait : Option Word
  pageInfo : Word
  pageSince : Nat
  batch : Nat
  closed : Nat
  pending : List Trap
  arrivals : List Arrival
  wait : Option WaitRec
  abandoned : Option WaitRec
  poisonWait : Bool
  seq : Nat
  entered : Nat
  swords : Nat
  lwords : Nat
  mjops : Nat
  traps : Nat
  loose : List Nat
  slot : Nat
  cause : Nat
  issued : Nat
  yieldTo : List (Nat × Option Nat)
  yieldEnd : Nat
  deriving DecidableEq, Repr, Inhabited

/-! ## Teams, clusters, launches -/

/-- A barrier (R325, R326). `next` holds the waves that arrived for the next phase (R327), with the mask the first brought. -/
structure Bar where
  collecting : Bool
  phase : BitVec 32
  mask : BitVec 16
  pinned : Bool
  members : List Nat
  arrived : List Nat
  next : List Nat
  nextMask : BitVec 16
  deriving DecidableEq, Repr, Inhabited

/-- An accumulator tile (R280): the elements written since it became zero, or undefined as of draw `undef`. -/
structure Tile where
  undef : Option Nat
  cells : List (Nat × BitVec 32)
  deriving DecidableEq, Repr, Inhabited

/-- A rendezvous slot (R221). -/
structure RvSlot where
  full : Bool
  mask : BitVec 32
  vals : Vector Word 32
  deriving DecidableEq, Repr, Inhabited

/-- A member's arrival at the rendezvous latch (R283): its wave and path, whether a handler block's, the tile, the tag and its
B operands; `loose` when a B register was written with no MFENCE since (R247). -/
structure MjArrival where
  wave : Nat
  path : Nat
  hand : Bool
  tile : Nat
  tag : Nat
  breg : Nat
  band : Word
  since : Nat
  word : Nat
  loose : Bool
  deriving DecidableEq, Repr, Inhabited

/-- A latch entry (R284): `pa` is the A address as it was given; `dirty` once an operand was written after its MJ issued (R247). -/
structure LatchEntry where
  uid : Nat
  team : Nat
  gang : Word
  ty : Nat
  amix : Bool
  pa : Nat
  arrivals : List MjArrival
  dirty : Bool
  deriving DecidableEq, Repr, Inhabited

/-- A released joint operation (R285 to R289): `pa` is the offset of its A panel; `dirty` once an operand was written too early or too
late (R247, R289), `dirtyTiles` the tiles that a move wrote. -/
structure JointOp where
  uid : Nat
  dev : Nat
  core : Nat
  team : Nat
  ctx : Nat
  slice : Nat
  ty : Nat
  pa : Nat
  members : List MjArrival
  dirty : Bool
  dirtyTiles : List Nat
  deriving DecidableEq, Repr, Inhabited

/-- A write of an A panel that no MFENCE has ordered before a joint operation of each wave yet (R247): by a wave or a copy `src`, `chunk` of
it, at `n` bytes from `off`. `elig` lists the waves for which it is ordered so far, by their own store, by BARW or by an observed
completion; `barred` the phase of the team barrier that orders it for all; `seen` the waves that have fenced it. -/
structure Unfenced where
  src : Nat
  chunk : Option Nat
  off : Nat
  n : Nat
  elig : List Nat
  barred : Option (BitVec 32)
  seen : List Nat
  deriving DecidableEq, Repr, Inhabited

/-- A team (R129, R230, R325): its core, its scratchpad, its tiles, slots and barriers, and the panel writes that are not fenced yet. -/
structure Team where
  uid : Nat
  dev : Nat
  core : Nat
  ctx : Nat
  kernel : Nat
  cluster : Nat
  tpos : Nat
  acc : Nat
  banks : Nat
  vregs : Nat
  scratch : List Host.Cell
  tiles : List Tile
  slots : List RvSlot
  bar : Bar
  named : List Bar
  unfenced : List Unfenced
  deriving DecidableEq, Repr, Inhabited

/-- Where a cluster stands (R132, R133). -/
inductive ClusterState where
  | inTable | inRunList | placed | parked
  deriving DecidableEq, Repr, Inhabited

/-- A cluster (R127 to R132). `home` is the hoop (die × 8 + hoop) of its run list; `since` when it began to wait unplaced (R142) and
`arrival` its place among those that wait in the object table (R132); `hold` the corner of a rectangle held free for it (R147);
`fresh` until it is first placed. -/
structure Cluster where
  uid : Nat
  dev : Nat
  ctx : Nat
  launch : Option Nat
  kernel : Nat
  rows : Nat
  cols : Nat
  lc1 : Bool
  teams : List Nat
  st : ClusterState
  home : Nat
  corner : Nat
  prio : BitVec 3
  since : Nat
  arrival : Nat
  hold : Option Nat
  fresh : Bool
  bar : Bar
  deriving DecidableEq, Repr, Inhabited

/-- A launch (R120 to R124). Masks are 512-bit core masks (R19); `removed` the cores that pre-empting launches took (R147). `next`
is the next cluster to expand, `since` when its record was queued, `started` the time its first wave started, `teams` the teams
started. -/
structure Launch where
  uid : Nat
  dev : Nat
  ctx : Nat
  port : Nat
  record : List Word
  prio : BitVec 3
  mask : Nat
  removed : List (Nat × Nat)
  order : Nat
  next : Nat
  since : Nat
  created : Nat
  ended : Nat
  killed : Nat
  started : Nat
  status : Nat
  teams : Nat
  complete : Bool
  sent : Bool
  done : Nat
  deriving DecidableEq, Repr, Inhabited

/-! ## Contexts and their objects -/

/-- A loaded kernel (R116 to R119, R450). `frames` hold its sections in turn, each from a frame of its own; with none its pages are
those that the context's tables map. `leaves` holds the leaf of each page of 4 KiB that the loader mapped, by its virtual address, in the
map of R335 (log entry 24). -/
structure Kernel where
  num : Nat
  name : List Byte
  waves : Nat
  vregs : Nat
  acc : Nat
  banks : Nat
  rows : Nat
  cols : Nat
  lc1 : Bool
  gang : Nat
  paramLen : Nat
  spill : Nat
  handler : Option Nat
  sbase : Nat
  swords : Nat
  lbase : Nat
  lwords : Nat
  dbase : Nat
  dbytes : Nat
  entries : List Nat
  responders : List Nat
  pools : List (Nat × Nat)
  frames : List Nat
  leaves : List (Nat × Nat)
  deriving DecidableEq, Repr, Inhabited

/-- The states of a context (R98). -/
inductive CtxState where
  | created | loaded | runnable | active | parked | faulted | terminating | dead
  deriving DecidableEq, Repr, Inhabited

/-- What an entry of a handle table holds (R101): the object, by its kind and uid. -/
structure HandleEntry where
  ctx : Nat
  index : Nat
  gen : Nat
  kind : Nat
  obj : Option Nat
  deriving DecidableEq, Repr, Inhabited

/-- A mesh (R359): number, axis sizes, the device table and the name. -/
structure Mesh where
  num : Nat
  rank : Nat
  sizes : List Nat
  table : List Nat
  name : Word
  deriving DecidableEq, Repr, Inhabited

/-- The counters of R109 that a context keeps beside those of its live waves. -/
structure Counters where
  cycles : Word
  swords : Word
  lwords : Word
  mjops : Word
  xbytes : Word
  traps : Word
  evicts : Word
  throttle : Word
  replays : Word
  deriving DecidableEq, Repr, Inhabited

/-- A context (R96 to R115). -/
structure Ctx where
  uid : Nat
  dev : Nat
  func : Nat
  num : Nat
  part : Nat
  svc : Bool
  st : CtxState
  before : CtxState
  deviceParked : Bool
  faulting : Nat
  weight : Nat
  credit : Int
  slice : Nat
  quota : Nat
  quotaUsed : Nat
  ceiling : Nat
  root1 : Nat
  spillBase : Nat
  slotSize : Nat
  slotCount : Nat
  slotsUsed : List Nat
  kernels : List Kernel
  counters : Counters
  threshold : Nat
  migPort : Option Nat
  meshes : List Mesh
  buckets : List (Nat × Nat × Nat)
  deriving DecidableEq, Repr, Inhabited

/-- The page that a grant moves (R305): its device, its physical address on that device, its size and the W right. -/
structure Grant where
  dev : Nat
  addr : Nat
  size : Nat
  w : Bool
  deriving DecidableEq, Repr, Inhabited

/-- A message (R296). `reply` is the port whose slot it reserves; `via` the remote handle it came through; `stamp` when it was queued. -/
structure Msg where
  words : List Word
  grants : List Grant
  reply : Option Nat
  via : Option Nat
  seq : Nat
  completion : Bool
  stamp : Nat
  deriving DecidableEq, Repr, Inhabited

/-- An entry of a receive window (R346). -/
structure WinEntry where
  va : Nat
  grant : Grant
  granted : Bool
  deriving DecidableEq, Repr, Inhabited

/-- The states of a port (R298). -/
inductive PortState where
  | opened | bound | draining | closed
  deriving DecidableEq, Repr, Inhabited

/-- A port (R296 to R310). -/
structure Port where
  uid : Nat
  dev : Nat
  ctx : Nat
  launch : Bool
  prio : Nat
  depth : Nat
  resv : Nat
  allow : Nat
  drops : Nat
  st : PortState
  queue : List Msg
  winBase : Nat
  winSize : Nat
  window : List WinEntry
  name : Option (Word × Nat)
  vector : Option Nat
  deriving DecidableEq, Repr, Inhabited

/-- A remote handle or a reply handle (R313, R315). -/
structure Remote where
  uid : Nat
  ctx : Nat
  port : Nat
  sends : Nat
  inFlight : Nat
  reply : Option Word
  seq : Nat
  closed : Bool
  deriving DecidableEq, Repr, Inhabited

/-- A source of a wait set (R316): a handle's object by kind, or a batch of a wave. -/
structure Source where
  index : Nat
  kind : Nat
  obj : Nat
  batch : Nat
  deriving DecidableEq, Repr, Inhabited

/-- A wait set (R316). -/
structure WaitSet where
  uid : Nat
  ctx : Nat
  sources : List Source
  deriving DecidableEq, Repr, Inhabited

/-- A timer (R319). -/
structure Timer where
  uid : Nat
  dev : Nat
  ctx : Nat
  armed : Bool
  deadline : Word
  period : Word
  firings : Nat
  deriving DecidableEq, Repr, Inhabited

/-- A watch (R321, R322): the physical address of its word, whether it is polled, and when it was polled last. -/
structure Watch where
  uid : Nat
  ctx : Nat
  addr : Nat
  mask : Word
  value : Word
  wide : Bool
  cmp : Nat
  matched : Bool
  polled : Bool
  polledAt : Nat
  deriving DecidableEq, Repr, Inhabited

/-- The states of a copy (R261). -/
inductive CopyState where
  | queued | started | done | cancelled | failed | stopped
  deriving DecidableEq, Repr, Inhabited

/-- What a copy moves (R256, R366, R371). -/
inductive Job where
  | copy | gather (list : Nat) | tload | tstore | tconv
  deriving DecidableEq, Repr, Inhabited

/-- A copy or a tensor transfer (R256 to R273, R366 to R371). `words` is the run of its descriptor; `core` the core that counts it
(R262); `cluster`, `tpos` the place of its team, `banks` its scratchpad banks, and `left` the scratchpad that the team left when it ended
before the copy (R273);
`written` the aligned words written in chunks that are not complete (R246); `counted` the pages that its access has counted at (R355); `peerWait` while a piece waits for a peer (R368): the
member context, the page it waits for, and whether that page was refused; `rimAddr` the address of what it asked for on the rim
(R267). -/
structure Copy where
  uid : Nat
  dev : Nat
  hoop : Nat
  ctx : Nat
  wave : Nat
  team : Nat
  cluster : Nat
  tpos : Nat
  banks : Nat
  left : Option (List Host.Cell)
  core : Nat
  batch : Nat
  job : Job
  words : List Word
  tensor : Nat
  st : CopyState
  engine : Nat
  cleared : Bool
  chunks : List Nat
  written : List (Nat × Nat)
  counted : List Nat
  stopChunk : Nat
  trap : Option Trap
  order : Nat
  readGen : Option Nat
  phase : Nat
  peerWait : Option (Nat × Nat × Bool)
  rimAddr : Nat
  reported : Bool
  restart : Bool
  deriving DecidableEq, Repr, Inhabited

/-- A tensor descriptor (R361). `locked` holds the locked shard ranges (R348): the sealed one, then that of a conversion. CONV is
1 while a conversion's copy runs; `issued` is the generation for which the device issued TCONV last (R370). -/
structure Tensor where
  uid : Nat
  dev : Nat
  ctx : Nat
  words : List Word
  gen : Nat
  sealed : Bool
  locked : List (Nat × Nat)
  issued : Option Nat
  deriving DecidableEq, Repr, Inhabited

/-- The states of a directory entry (R374). -/
inductive TileState where
  | active | moving | dropping
  deriving DecidableEq, Repr, Inhabited

/-- A tile directory entry (R373 to R377). `dest` is the inactive copy of a move: core, address, the censuses that were in
progress at the install, and the passed ones. -/
structure TileEnt where
  uid : Nat
  dev : Nat
  core : Nat
  ctx : Nat
  key : Word
  addr : Word
  size : Nat
  kernel : Nat
  st : TileState
  list : List Nat
  dest : Option (Nat × Word × List Nat × List Nat)
  deriving DecidableEq, Repr, Inhabited

/-- The states of a census (R384). -/
inductive CensusState where
  | collecting | complete | aborted
  deriving DecidableEq, Repr, Inhabited

/-- A responder that waits to be spawned or has been (R379): `core` and `addr` are those of the tile when it was matched. -/
structure Match where
  uid : Nat
  handle : BitVec 32
  census : Nat
  tile : Nat
  dev : Nat
  core : Nat
  addr : Word
  spawned : Bool
  ended : Bool
  deriving DecidableEq, Repr, Inhabited

/-- A census (R378 to R385). `abort` once it must complete aborted (R383). `reached` lists the cores (device × 512 + core) that have seen the broadcast; `values` the
replies that count, until they are combined; `part` once one word of the result is written (R382): which one, and the value. -/
structure Census where
  uid : Nat
  dev : Nat
  ctx : Nat
  owner : Bool
  key : Word
  mask : Word
  comb : Nat
  resp : Nat
  result : Word
  mesh : Option (Nat × Nat)
  targets : List Nat
  reached : List Nat
  matched : Nat
  replies : Nat
  values : List Word
  st : CensusState
  abort : Bool
  writeFault : Bool
  part : Option (Bool × Word)
  deriving DecidableEq, Repr, Inhabited

/-! ## Devices, partitions, functions -/

/-- A combined translation held by the TLB of a core (R339), with its local count (R355): the two leaves' page sizes, and the
stage-2 pages of the stage-1 tables that the walk read, each by an intermediate address and its size. -/
structure TlbEntry where
  dev : Nat
  core : Nat
  ctx : Nat
  va : Nat
  size : Nat
  base : Nat
  r : Bool
  w : Bool
  x : Bool
  g : Bool
  wb : Bool
  leaf1 : Nat
  leaf2 : Nat
  ia : Nat
  ct1 : Bool
  ct2 : Bool
  dirty : Bool
  count : Nat
  size1 : Nat
  size2 : Nat
  tables : List (Nat × Nat)
  deriving DecidableEq, Repr, Inhabited

/-- An invalidation request that has not completed (R339). -/
structure Invalidation where
  uid : Nat
  dev : Nat
  func : Nat
  code : Nat
  ctx : Option Nat
  first : Nat
  len : Nat
  word0 : Word
  deriving DecidableEq, Repr, Inhabited

/-- A byte of a write-combining entry (R237): its place in the line, the wave that stored it, and whether at handler level (R388). -/
structure WcbByte where
  off : Nat
  val : Byte
  wave : Nat
  hand : Bool
  deriving DecidableEq, Repr, Inhabited

/-- An entry of a core's write-combining buffer (R237): the line, by physical address, its bytes, and the partition of the core when it was
made (R343). -/
structure WcbEntry where
  dev : Nat
  core : Nat
  part : Nat
  line : Nat
  bytes : List WcbByte
  born : Nat
  deriving DecidableEq, Repr, Inhabited

/-- A hoop bank in FIFO mode or with its mode (R229, R232), and a change that waits. -/
structure Bank where
  dev : Nat
  hoop : Nat
  bank : Nat
  mode : BankMode
  owner : Option Nat
  fifo : List Word
  pending : Option BankMode
  pendingOwner : Option Nat
  deriving DecidableEq, Repr, Inhabited

/-- A range of the frame ownership table (R341); the newest range that covers a frame gives its code. -/
structure OwnRange where
  dev : Nat
  first : Nat
  count : Nat
  code : BitVec 8
  deriving DecidableEq, Repr, Inhabited

/-- A lent page (R345): owning device and partition, address, size, holding device and port; `released` once the holder has sent its
release, `lost` once the holder has restarted from stage A or was removed from the fabric domain. -/
structure Lent where
  dev : Nat
  part : Nat
  addr : Nat
  size : Nat
  holder : Nat
  port : Nat
  released : Bool
  lost : Bool
  deriving DecidableEq, Repr, Inhabited

/-- A page held for a wave's region (R354): by its leaf at stage 1, and that of stage 2 by its intermediate address. -/
structure Hold where
  ctx : Nat
  wave : Nat
  page : Word
  size : Nat
  ia : Nat
  size2 : Nat
  deriving DecidableEq, Repr, Inhabited

/-- The states of a rim port (R401, R404, R413). -/
inductive RimState where
  | off | training | up | down
  deriving DecidableEq, Repr, Inhabited

/-- A rim port (R401 to R404, R410, R413, R436): link sequence numbers, the replay buffer, the error count, when it began to train, and its
input slots that are in use, each by the number of its virtual channel. `again` tells that a full retrain follows when its stored
parameters do not lock, `full` that one is in progress. -/
structure RimPort where
  dev : Nat
  port : Nat
  peer : Nat
  isY : Bool
  st : RimState
  lseq : BitVec 12
  expect : BitVec 12
  replay : List (List Byte)
  errors : Nat
  fails : Nat
  resync : Bool
  since : Nat
  slots : List Nat
  again : Bool
  full : Bool
  deriving DecidableEq, Repr, Inhabited

/-- A request that a device has outstanding on the rim without a response (R412): its tag, its target, the core that made it and the 128-byte
lines that it asks for (R408), and the wave, copy or census that it is for. -/
structure RimReq where
  dev : Nat
  tag : Nat
  dst : Nat
  core : Nat
  lines : List Nat
  wave : Nat
  copy : Nat
  census : Nat
  issued : Nat
  deriving DecidableEq, Repr, Inhabited

/-- A packet at a device's router (R402, R410): its header fields as a number, its payload, the port it waits for, and the input port
with the virtual channel whose slot it holds. -/
structure Packet where
  dev : Nat
  header : BitVec 128
  payload : List Byte
  port : Option Nat
  input : Option (Nat × Nat)
  deriving DecidableEq, Repr, Inhabited

/-- A token bucket of a home-agent port (R235, R236); partition 0 is the system. `queue` holds the tokens that requests wait for, each with
its context; `lendable` counts those that may still be lent in the window, and `window` numbers the window in microseconds. -/
structure Bucket where
  dev : Nat
  port : Nat
  part : Nat
  alloc : Nat
  tokens : Nat
  lendable : Nat
  queue : List (Nat × Nat)
  window : Nat
  deriving DecidableEq, Repr, Inhabited

/-- A partition (R423): hoops (die × 8 + hoop), the fabric domain and the one it moves to (R311), timers, the running function,
the counters and the attestation record (R118). -/
structure Part where
  dev : Nat
  num : Nat
  hoops : List Nat
  domain : Nat
  nextDomain : Option Nat
  ageing : Nat
  sliceNs : Nat
  running : Nat
  sliceFrom : Nat
  hbmBytes : Word
  lentBytes : Word
  attest : BitVec 256
  deriving DecidableEq, Repr, Inhabited

/-- A function (R96, R310, R419, R426): its partition, its stage-2 root, the records in its control port, its window slots, the vectors
that its ports have signalled, which its pending-bit array holds, and where its teardown stands: `drainFrom` is when steps 2 and 3
ended. -/
structure Func where
  dev : Nat
  num : Nat
  part : Nat
  root2 : Nat
  records : List (List Word)
  slots : List (Nat × Nat)
  signals : List Nat
  errors : Nat
  answer : List Word
  draining : Bool
  drainFrom : Nat
  tornDown : Bool
  deriving DecidableEq, Repr, Inhabited

/-- A service core (R17, R424): its image, its window table, the window fault it recorded, the bytes that its last load read, and the
records of window faults that other cores have posted to it: core, pointer and check. -/
structure SvcCore where
  dev : Nat
  core : Nat
  running : Bool
  window : List (Nat × BitVec 128)
  fault : Option (Word × Nat)
  reply : List Byte
  records : List (Nat × Word × Nat)
  deriving DecidableEq, Repr, Inhabited

/-- A stored training record (R428): the interface's parameters, the junction temperature, the snapshot of the wear counters, and the
CRC-32C. -/
structure Training where
  dev : Nat
  iface : Interface
  params : Word
  temp : Int
  thermal : Nat
  hours : Nat
  crc : BitVec 32
  deriving DecidableEq, Repr, Inhabited

/-- The wear record (R432). -/
structure Wear where
  thermal : BitVec 32
  power : BitVec 32
  park : BitVec 32
  hours : List (BitVec 24)
  deriving DecidableEq, Repr, Inhabited

/-- Telemetry (R434): temperature and power by die, the IOD's last, THROTTLE total, error counts by store code. -/
structure Telemetry where
  temps : List Nat
  powers : List Nat
  throttle : Nat
  corrected : List Nat
  uncorrected : List Nat
  /-- The errors that concern the hoops or frames of a partition: it, the store code, and whether it was corrected. -/
  partErrors : List (Nat × Nat × Bool)
  deriving DecidableEq, Repr, Inhabited

/-- The stages of start (R427). -/
inductive Stage where
  | off | stageA | stageB | full
  deriving DecidableEq, Repr, Inhabited

/-- A device (R16, R24, R28, R427 to R437). `slew` counts the nanoseconds that make no whole 1,000 yet (R24), and `tick` the fifths of a
cycle that make no whole one (R10). `trained` lists the interfaces, rim ports apart, that have locked since the start (R428), which began at `startAt`; `parking`
tells that a park entry is in progress (R429). `hoursPart` and `flashPart` are the nanoseconds of HOURS short of an hour, as counted and
in flash; `thermalAt` is when the last thermal cycle ended (R432); `throttled` is the THROTTLE total of all contexts so far (R434). -/
structure Dev where
  id : Nat
  time : Nat
  stage : Stage
  dies : List Nat
  parked : Bool
  parking : Bool
  iodError : Bool
  trained : List Interface
  startAt : Nat
  slew : Nat
  tick : Nat
  cap : Nat
  avg : Nat
  withheld : Nat
  wear : Wear
  flash : Wear
  telemetry : Telemetry
  hoursFrom : Nat
  hoursPart : Nat
  flashPart : Nat
  thermalAt : Nat
  throttled : Nat
  scrubbed : Nat
  hdm : List (Nat × Nat × Nat × Nat)
  fwRecord : BitVec 256
  reply : List Byte
  deriving DecidableEq, Repr, Inhabited

/-- The history of an issue port of a core (R143, R144): the issue cycles in a row in which classes 2 and 3 had a ready entity and did
not issue, and the latest issues, newest first, each by its class and its number in the order of all issues. -/
structure IssuePort where
  dev : Nat
  core : Nat
  lane : Bool
  missed2 : Nat
  missed3 : Nat
  recent : List (Nat × Nat)
  deriving DecidableEq, Repr, Inhabited

/-- Bytes of a chunk of a copy whose bit is set, which no load has seen yet (R246): in physical memory, or in the scratchpad of a team. -/
structure LateWrite where
  copy : Nat
  chunk : Nat
  team : Option Nat
  place : Nat
  bytes : List Byte
  deriving DecidableEq, Repr, Inhabited

/-- Which agent moves next. The model's own: log entry 5. -/
inductive Turn where
  | idle
  | event (e : Event)
  | scalar (wave : Nat)
  | lane (wave path : Nat)
  deriving DecidableEq, Repr, Inhabited

/-- The machine: a pod of devices. `late` holds what copies have written and loads need not see yet (R246); `stores` gives the store of R392 in which a poisoned memory word lies, where it is not HBM. -/
structure State where
  cw : Wave
  cp : Path
  waves : List Wave
  teams : List Team
  clusters : List Cluster
  launches : List Launch
  ctxs : List Ctx
  handles : List HandleEntry
  ports : List Port
  remotes : List Remote
  waitSets : List WaitSet
  timers : List Timer
  watches : List Watch
  copies : List Copy
  late : List LateWrite
  tensors : List Tensor
  tiles : List TileEnt
  censuses : List Census
  responders : List Match
  latch : List LatchEntry
  jointOps : List JointOp
  products : List JointOp
  mem : List Host.Cell
  owners : List OwnRange
  lent : List Lent
  holds : List Hold
  tlb : List TlbEntry
  wcb : List WcbEntry
  invals : List Invalidation
  banks : List Bank
  gated : List (Nat × Nat)
  rimPorts : List RimPort
  rimReqs : List RimReq
  packets : List Packet
  buckets : List Bucket
  parts : List Part
  funcs : List Func
  svcCores : List SvcCore
  trainings : List Training
  devs : List Dev
  podW : Nat
  podH : Nat
  poison : List ErrUnit
  stores : List (Nat × Nat)
  nextUid : Nat
  free : Nat
  word : Nat
  issueSeq : Nat
  issuePorts : List IssuePort
  turn : Turn
  inputs : List Event
  deriving DecidableEq, Repr

/-! ## Reset -/

/-- No path. -/
def Path.blank : Path :=
  { live := false, id := 0, parent := 0, join := 0, lpc := 0, mask := 0, place := .slotA, ended := true, wait := .none,
    fixed := [], var := [], spill := 0, born := 0, issued := 0 }

/-- A lane side with nothing in it. -/
def Engine.empty : Engine := { queue := [], running := false, paths := [], nextId := 1, last := .slotB }

/-- The v registers of a wave at its entry hold undefined values (R125): item `32 × r + lane` of draw `n`. -/
def undefRegs (n : Nat) : Vector (Vector Word 32) 128 :=
  Vector.ofFn fun r => Vector.ofFn fun l => Config.undef64 n (32 * r.val + l.val)

/-- A wave with every register at its entry value (R125); `uid` 0: no wave. -/
def Wave.blank (n : Nat) : Wave :=
  { uid := 0, dev := 0, core := 0, ctx := 0, team := 0, kernel := 0, handle := 0, launch := none, ofLaunch := false,
    responder := none, ceiling := 0, joinable := false, index := 0, tpos := 0, teamIndex := 0, clusterIndex := 0,
    gridpos := 0, s := .replicate 64 0, k := .replicate 8 0, q := .replicate 8 0, v := undefRegs n, vregs := 16, pc := 0,
    prev := 0, level := .ordinary, st := .exited, prio := 0, live := BitVec.allOnes 32, fstat := 0, fmode := 0,
    dphase := 0, chk := 0, gang := 0, hcause := 0, hpc := 0, hlpc := 0, haddr := 0, hlanes := 0, hinfo := 0, trapIrb := none, trapPath := 0,
    trapCopy := 0, trapWord := 0, trapBoundary := false, eng := .empty, held := .empty, region := none, replays := 0, pageWait := none, pageInfo := 0, pageSince := 0, batch := 1, closed := 0,
    pending := [], arrivals := [], wait := none, abandoned := none, poisonWait := false, seq := 0, entered := 0,
    swords := 0, lwords := 0, mjops := 0, traps := 0, loose := [], slot := 0, cause := 0, issued := 0, yieldTo := [],
    yieldEnd := 0 }

/-- The wear record of R432 at its reset value. -/
def Wear.zero : Wear := { thermal := 0, power := 0, park := 0, hours := [0, 0, 0, 0, 0] }

/-- A device at power-good (R24, R427). The power cap is a DESIGN CHOICE: log entry 4. -/
def Dev.reset (id : Nat) : Dev :=
  { id, time := 0, stage := .off, dies := [], parked := false, parking := false, iodError := false, trained := [], startAt := 0, slew := 0, tick := 0,
    cap := 3600, avg := 0,
    withheld := 0, wear := .zero, flash := .zero,
    telemetry := { temps := [], powers := [], throttle := 0, corrected := .replicate 8 0, uncorrected := .replicate 8 0, partErrors := [] },
    hoursFrom := 0, hoursPart := 0, flashPart := 0, thermalAt := 0, throttled := 0, scrubbed := 0, hdm := [], fwRecord := 0, reply := [] }

/-- The machine at power-good: one device (log entry 4), no context, no frame owned, no byte of memory listed; the first
event is POWER_GOOD (R427). -/
def State.reset : State :=
  { cw := .blank 0, cp := .blank, waves := [], teams := [], clusters := [], launches := [], ctxs := [], handles := [],
    ports := [], remotes := [], waitSets := [], timers := [], watches := [], copies := [], late := [], tensors := [], tiles := [],
    censuses := [], responders := [], latch := [], jointOps := [], products := [], mem := [], owners := [], lent := [], holds := [],
    tlb := [], wcb := [], invals := [], banks := [], gated := [], rimPorts := [], rimReqs := [], packets := [],
    buckets := [], parts := [], funcs := [], svcCores := [], trainings := [], devs := [.reset 0], podW := 1, podH := 1,
    poison := [], stores := [], nextUid := 1, free := 1, word := 0, issueSeq := 1, issuePorts := [], turn := .event (.powerGood 0), inputs := [] }

end Sys2Proof.Machine
end

