-- ==== Sys2Proof/Machine/Mem.lean ====
section
/-!
DEFINITION. Bytes in one canonical list: addresses strictly rise and no listed byte is 0, which is what an unlisted address
reads as (log entry 3). Physical memory, a scratchpad and a region buffer use the same list; wider items are little-endian
(R9).
-/

namespace Sys2Proof.Machine

/-- What an unlisted byte reads as. -/
def Memory.unlisted : Byte := 0

/-- The byte at an address. -/
def Memory.read : List Host.Cell → Nat → Byte
  | [], _ => Memory.unlisted
  | (b, x) :: rest, a => if a = b then x else Memory.read rest a

/-- A byte put in front of a canonical list whose addresses are all greater. -/
def Memory.put (a : Nat) (x : Byte) (m : List Host.Cell) : List Host.Cell :=
  if x = Memory.unlisted then m else (a, x) :: m

/-- The list after one byte is written. -/
def Memory.write : List Host.Cell → Nat → Byte → List Host.Cell
  | [], a, x => Memory.put a x []
  | (b, y) :: rest, a, x =>
    if a < b then Memory.put a x ((b, y) :: rest)
    else if a = b then Memory.put a x rest
    else (b, y) :: Memory.write rest a x

/-- The canonical form. -/
def Memory.wf : List Host.Cell → Bool
  | [] => true
  | [(_, x)] => x != Memory.unlisted
  | (a, x) :: (b, y) :: rest => x != Memory.unlisted && a < b && Memory.wf ((b, y) :: rest)

/-- `n` bytes from an address, little-endian (R9). -/
def Memory.readLE (m : List Host.Cell) (a : Nat) : Nat → Nat
  | 0 => 0
  | n + 1 => (Memory.read m a).toNat + 256 * Memory.readLE m (a + 1) n

/-- Bytes written from an address upwards. -/
def Memory.writeBytes (m : List Host.Cell) (a : Nat) : List Byte → List Host.Cell
  | [] => m
  | x :: rest => Memory.writeBytes (Memory.write m a x) (a + 1) rest

/-- `n` bytes from an address upwards. -/
def Memory.readBytes (m : List Host.Cell) (a : Nat) : Nat → List Byte
  | 0 => []
  | n + 1 => Memory.read m a :: Memory.readBytes m (a + 1) n

/-- The low `n` bytes of a number, little-endian (R9). -/
def leBytes (x : Nat) : Nat → List Byte
  | 0 => []
  | n + 1 => BitVec.ofNat 8 x :: leBytes (x / 256) n

/-- Bytes as a number, little-endian (R9). -/
def ofLeBytes : List Byte → Nat
  | [] => 0
  | b :: rest => b.toNat + 256 * ofLeBytes rest

end Sys2Proof.Machine
end

