-- ==== Sys2Proof/Machine/Ops.lean ====
section
/-!
DEFINITION. The named operations over waves, registers, handles and records; saving and ending waves; taking a trap (R387 to
R392) and returning from one (R393).
-/

namespace Sys2Proof.Machine

/-! ## Lists keyed by uid -/

/-- The items of a list whose key is `u`, changed by `f`. -/
def updBy {α : Type} (key : α → Nat) (u : Nat) (f : α → α) (l : List α) : List α :=
  l.map fun x => if key x == u then f x else x

/-! ## Waves -/

/-- Every wave, the executing one first. -/
def State.allWaves (s : State) : List Wave := if s.cw.uid == 0 then s.waves else s.cw :: s.waves

/-- The wave with a uid. -/
def State.wave? (s : State) (u : Nat) : Option Wave := s.allWaves.find? (·.uid == u)

/-- A wave changed in its place. -/
def State.updWave (s : State) (u : Nat) (f : Wave → Wave) : State :=
  if s.cw.uid == u then { s with cw := f s.cw } else { s with waves := updBy Wave.uid u f s.waves }

/-- Every wave changed that satisfies a test. -/
def State.mapWaves (s : State) (p : Wave → Bool) (f : Wave → Wave) : State :=
  { s with cw := if s.cw.uid != 0 && p s.cw then f s.cw else s.cw, waves := s.waves.map fun w => if p w then f w else w }

/-- The executing wave and path put back among the others; paths that are no longer live are dropped. -/
def State.unfocus (s : State) : State :=
  let w := s.cw
  if w.uid == 0 then { s with cp := .blank }
  else
    let w := if s.cp.live then { w with eng := { w.eng with paths := s.cp :: w.eng.paths } } else w
    { s with cw := .blank 0, cp := .blank, waves := w :: s.waves }

/-- The wave with a uid made the executing wave. -/
def State.focus (s : State) (u : Nat) : State :=
  let s := s.unfocus
  match s.waves.find? (·.uid == u) with
  | some w => { s with cw := w, waves := s.waves.filter (·.uid != u) }
  | none => s

/-- The path of the executing wave with an id made the executing path. -/
def State.focusPath (s : State) (id : Nat) : State :=
  match s.cw.eng.paths.find? (·.id == id) with
  | some p => { s with cp := p, cw := { s.cw with eng := { s.cw.eng with paths := s.cw.eng.paths.filter (·.id != id) } } }
  | none => s

/-- The paths of the running block of the executing wave. -/
def State.allPaths (s : State) : List Path := if s.cp.live then s.cp :: s.cw.eng.paths else s.cw.eng.paths

/-! ## Objects -/

def State.team? (s : State) (u : Nat) : Option Team := s.teams.find? (·.uid == u)
def State.updTeam (s : State) (u : Nat) (f : Team → Team) : State := { s with teams := updBy Team.uid u f s.teams }
def State.cluster? (s : State) (u : Nat) : Option Cluster := s.clusters.find? (·.uid == u)
def State.updCluster (s : State) (u : Nat) (f : Cluster → Cluster) : State :=
  { s with clusters := updBy Cluster.uid u f s.clusters }
def State.ctx? (s : State) (u : Nat) : Option Ctx := s.ctxs.find? (·.uid == u)
def State.updCtx (s : State) (u : Nat) (f : Ctx → Ctx) : State := { s with ctxs := updBy Ctx.uid u f s.ctxs }
def State.port? (s : State) (u : Nat) : Option Port := s.ports.find? (·.uid == u)
def State.updPort (s : State) (u : Nat) (f : Port → Port) : State := { s with ports := updBy Port.uid u f s.ports }
def State.remote? (s : State) (u : Nat) : Option Remote := s.remotes.find? (·.uid == u)
def State.updRemote (s : State) (u : Nat) (f : Remote → Remote) : State := { s with remotes := updBy Remote.uid u f s.remotes }
def State.copy? (s : State) (u : Nat) : Option Copy := s.copies.find? (·.uid == u)
def State.updCopy (s : State) (u : Nat) (f : Copy → Copy) : State := { s with copies := updBy Copy.uid u f s.copies }
def State.tensor? (s : State) (u : Nat) : Option Tensor := s.tensors.find? (·.uid == u)
def State.updTensor (s : State) (u : Nat) (f : Tensor → Tensor) : State := { s with tensors := updBy Tensor.uid u f s.tensors }
def State.tile? (s : State) (u : Nat) : Option TileEnt := s.tiles.find? (·.uid == u)
def State.updTile (s : State) (u : Nat) (f : TileEnt → TileEnt) : State := { s with tiles := updBy TileEnt.uid u f s.tiles }
def State.census? (s : State) (u : Nat) : Option Census := s.censuses.find? (·.uid == u)
def State.updCensus (s : State) (u : Nat) (f : Census → Census) : State := { s with censuses := updBy Census.uid u f s.censuses }
def State.timer? (s : State) (u : Nat) : Option Timer := s.timers.find? (·.uid == u)
def State.updTimer (s : State) (u : Nat) (f : Timer → Timer) : State := { s with timers := updBy Timer.uid u f s.timers }
def State.watch? (s : State) (u : Nat) : Option Watch := s.watches.find? (·.uid == u)
def State.updWatch (s : State) (u : Nat) (f : Watch → Watch) : State := { s with watches := updBy Watch.uid u f s.watches }
def State.waitSet? (s : State) (u : Nat) : Option WaitSet := s.waitSets.find? (·.uid == u)
def State.updWaitSet (s : State) (u : Nat) (f : WaitSet → WaitSet) : State := { s with waitSets := updBy WaitSet.uid u f s.waitSets }
def State.launch? (s : State) (u : Nat) : Option Launch := s.launches.find? (·.uid == u)
def State.updLaunch (s : State) (u : Nat) (f : Launch → Launch) : State := { s with launches := updBy Launch.uid u f s.launches }
def State.dev? (s : State) (d : Nat) : Option Dev := s.devs.find? (·.id == d)
def State.updDev (s : State) (d : Nat) (f : Dev → Dev) : State := { s with devs := updBy Dev.id d f s.devs }
def State.func? (s : State) (d n : Nat) : Option Func := s.funcs.find? fun f => f.dev == d && f.num == n
def State.updFunc (s : State) (d n : Nat) (f : Func → Func) : State :=
  { s with funcs := s.funcs.map fun x => if x.dev == d && x.num == n then f x else x }
def State.part? (s : State) (d n : Nat) : Option Part := s.parts.find? fun p => p.dev == d && p.num == n
def State.updPart (s : State) (d n : Nat) (f : Part → Part) : State :=
  { s with parts := s.parts.map fun x => if x.dev == d && x.num == n then f x else x }
def Ctx.kernel? (c : Ctx) (n : Nat) : Option Kernel := c.kernels.find? (·.num == n)

/-- The kernel that a wave runs. -/
def State.kernelOf (s : State) (w : Wave) : Option Kernel := (s.ctx? w.ctx).bind (·.kernel? w.kernel)

/-- The time base of a device (R24). -/
def State.time (s : State) (d : Nat) : Nat := ((s.dev? d).map (·.time)).getD 0

/-- A fresh uid. -/
def State.fresh (s : State) : Nat × State := (s.nextUid, { s with nextUid := s.nextUid + 1 })

/-- A draw of free values: its number. -/
def State.draw (s : State) : Nat × State := (s.free, { s with free := s.free + 1 })

/-- A record posted to a function's control port (R449). -/
def State.post (s : State) (dev func : Nat) (r : List Word) : State :=
  s.updFunc dev func fun f => { f with records := f.records ++ [r] }

/-! ## Scalar registers and the scalar stream -/

/-- Reads of s0 give zero (R61). -/
def Wave.rs (w : Wave) (r : SReg) : Word := if r = 0 then 0 else w.s[r.toNat]'r.isLt

/-- Writes to s0 are discarded (R61). -/
def Wave.ws (w : Wave) (r : SReg) (x : Word) : Wave := if r = 0 then w else { w with s := w.s.set r.toNat x r.isLt }

/-- A mask register. -/
def Wave.rk (w : Wave) (r : KReg) : BitVec 32 := w.k[r.toNat]'r.isLt

/-- A mask register written whole (R173). -/
def Wave.wk (w : Wave) (r : KReg) (x : BitVec 32) : Wave := { w with k := w.k.set r.toNat x r.isLt }

/-- A lane return register. -/
def Wave.rq (w : Wave) (r : QReg) : Word := w.q[r.toNat]'r.isLt

/-- A lane return register written. -/
def Wave.wq (w : Wave) (r : QReg) (x : Word) : Wave := { w with q := w.q.set r.toNat x r.isLt }

def State.rs (s : State) (r : SReg) : Word := s.cw.rs r

/-- The poison of register elements that a write of them clears (R398). -/
def State.cure (s : State) (p : ErrUnit → Bool) : State := { s with poison := s.poison.filter fun u => !p u }

/-- A scalar register of the executing wave written. -/
def State.ws (s : State) (r : SReg) (x : Word) : State :=
  { s with cw := s.cw.ws r x, poison := s.poison.filter fun u => !(u == .sReg s.cw.uid r) }

/-- Register `r + i` of a run of consecutive registers (R72). -/
def SReg.plus (r : SReg) (i : Nat) : SReg := .ofNat 6 (r.toNat + i)

/-- Whether a path of a wave waits at a rendezvous move. -/
def Wave.atSlot (w : Wave) : Bool := w.eng.paths.any fun p => match p.wait with
  | .slot _ _ _ _ => true
  | _ => false

/-- A wait that has ended: the wave is no longer waiting, unless a path waits at a rendezvous move (R133). -/
def Wave.awake (w : Wave) : Wave :=
  { w with wait := none, st := if w.st = .waiting && !w.atSlot then .resident else w.st }

/-- The executing wave goes on at `target` after its word. -/
def Wave.goto (w : Wave) (target : Word) : Wave :=
  { w.awake with pc := target, prev := w.pc, swords := w.swords + 1 }

/-- The word of the executing wave is done: the next word follows (R160). -/
def State.retire (s : State) : State := { s with cw := s.cw.goto (s.cw.pc + 4) }

/-- A result in s[d], and the next word. -/
def State.done (s : State) (d : SReg) (x : Word) : State := (s.ws d x).retire

/-- A scalar word that takes effect elsewhere: jumps. -/
def State.jump (s : State) (target : Word) : State := { s with cw := s.cw.goto target }

/-! ## Calls that may trap or wait -/

/-- Why a word does not complete now. -/
inductive Stop where
  | trap (t : Trap)
  | wait (kind : WaitKind) (obj : Nat) (d : SReg) (blocking : Bool)
  | finished
  deriving Repr, Inhabited

/-- A meaning in steps: it may read and change the state and stop. -/
abbrev Op := EStateM Stop State

def trap {α : Type} (cause : Nat) (addr : Word := 0) (info : Word := 0) : Op α := throw (.trap { cause, addr, info })

/-- A wait that is no blocking wait of R133. -/
def stall {α : Type} : Op α := throw (.wait .plain 0 0 false)

/-- A blocking wait (R133). -/
def block {α : Type} (kind : WaitKind := .plain) (obj : Nat := 0) (d : SReg := 0) : Op α := throw (.wait kind obj d true)

/-- The call is over: its word retires. -/
def finish {α : Type} : Op α := throw .finished

/-- A result in s[d] that ends the call. -/
def result {α : Type} (d : SReg) (x : Word) : Op α := do
  modify (·.ws d x)
  finish

/-- A status in s[d][63:32] that ends the call (R299). -/
def status {α : Type} (d : SReg) (code : Nat) (low : Nat := 0) : Op α := result d (.ofNat 64 (code * 2 ^ 32 + low))

/-- A scalar register as an operand; a poisoned one traps (R399). -/
def rd (r : SReg) : Op Word := do
  let s ← get
  if s.poison.contains (.sReg s.cw.uid r) then throw (.trap { cause := 0x71, info := 6 })
  pure (s.rs r)

/-- The causes of R391. -/
def ILLEGAL_OP := 0x01
def ILLEGAL_PAIR := 0x02
def POOL_EXEC := 0x03
def STALL_SHORT := 0x04
def PRIV := 0x05
def MISALIGN := 0x06
def PAGE_FAULT := 0x10
def PROTECTION := 0x11
def GRANTED_AWAY := 0x12
def PLACEMENT_LOCKED := 0x13
def REGION_ILLEGAL := 0x14
def REGION_OVERFLOW := 0x15
def HANDLE_INVALID := 0x20
def PORT_CLOSED := 0x21
def NAME_UNKNOWN := 0x22
def FP_TRAP := 0x30
def CAUSE_BKPT := 0x40
def USER_TRAP := 0x41
def MATRIX_GANG := 0x50
def CAUSE_RENDEZVOUS_TIMEOUT := 0x51
def BARRIER_MISMATCH := 0x52
def CENSUS_ABORT := 0x60
def FABRIC_POISON := 0x70
def SOFT_ERROR_UNCORRECTED := 0x71

/-! ## Results that wait for their write -/

/-- The lanes of a register replaced by pending values: bits of `keep` stay. -/
def mergeLanes (old : Vector Word 32) (lanes : BitVec 32) (keep : Word) (vals : List Word) : Vector Word 32 :=
  Vector.ofFn fun l =>
    if lanes.getLsbD l.val then (old[l.val] &&& keep) ||| (vals.getD l.val 0 &&& ~~~keep) else old[l.val]

/-- A variable-latency result written to its register (R83). -/
def Wave.writePend (w : Wave) (p : VarPend) : Wave :=
  match p.reg with
  | .v n => if h : n < 128 then { w with v := w.v.set n (mergeLanes w.v[n] p.lanes p.keep p.vals) h } else w
  | .k n => w.wk (.ofNat 3 n) ((w.rk (.ofNat 3 n) &&& ~~~p.lanes) ||| ((p.vals.getD 0 0).setWidth 32 &&& p.lanes))
  | .q n => w.wq (.ofNat 3 n) (p.vals.getD 0 0)

/-- Tiles of a team left undefined (R6). -/
def State.undefTiles (s : State) (team : Nat) (bad : List Nat) : State :=
  if bad.isEmpty then s
  else
    let (n, s) := s.draw
    s.updTeam team fun t =>
      { t with tiles := t.tiles.zipIdx.map fun x => if bad.contains x.2 then { undef := some n, cells := [] } else x.1 }

/-- Operands of joint matrix work written between an MJ's issue and its MWAIT (R247, R289): `hit` tells, from the team, the panel
offset, the type and the members, whether they are. A product that is complete and still unawaited becomes undefined at once. -/
def State.disturb (s : State) (hit : Nat → Nat → Nat → List MjArrival → Bool) : State :=
  let late := s.products.filter fun (j : JointOp) => hit j.team j.pa j.ty j.members
  let s := { s with
    latch := s.latch.map fun (e : LatchEntry) => if hit e.team (e.pa % 2 ^ 24) e.ty e.arrivals then { e with dirty := true } else e,
    jointOps := s.jointOps.map fun (j : JointOp) => if hit j.team j.pa j.ty j.members then { j with dirty := true } else j,
    products := s.products.filter fun (j : JointOp) => !hit j.team j.pa j.ty j.members }
  late.foldl (fun (s : State) j => s.undefTiles j.team (j.members.map (·.tile))) s

/-- A write of a B register of joint matrix work in progress (R247, R289). -/
def State.dirtyReg (s : State) (wave : Nat) (r : RegRef) : State :=
  match r with
  | .v n => s.disturb fun _ _ ty members =>
      members.any fun a => a.wave == wave && a.breg ≤ n && n < a.breg + (if ty = 0xC then 5 else 4)
  | _ => s

/-- The results of a wave's running block that wait for their write, about to be written: what they make undefined (R289). -/
def State.dirtyPends (s : State) (w : Wave) : State :=
  if s.jointOps.isEmpty && s.latch.isEmpty && s.products.isEmpty then s
  else (w.eng.paths.flatMap (·.var)).foldl (fun (s : State) p => s.dirtyReg w.uid p.reg) s

/-- Every pending result of the running block written: words already issued complete (R180, R387). -/
def Wave.flushPends (w : Wave) : Wave :=
  let w' := (w.eng.paths.flatMap (·.var)).foldl Wave.writePend w
  { w' with eng := { w.eng with paths := w.eng.paths.map fun p => { p with var := [] } } }

/-! ## Saving a wave (R396) -/

/-- A wave whose open region is discarded and replayed from its IRB (R353). A HALT inside a region resumes there too (R114), where R111
names the word after HALT (DEDUCED, log entry 50). -/
def Wave.dropRegion (w : Wave) : Wave :=
  match w.region with
  | some r => { w with region := none, pc := r.irb, eng := .empty, replays := w.replays + 1 }
  | none => w

/-- Path state as it is saved: an arrival or a rendezvous word in progress is withdrawn and issued again (R294, R224). -/
def Path.saved (p : Path) : Path :=
  match p.wait with
  | .latch | .slot _ _ _ _ | .fifo _ _ => { p with wait := .none }
  | _ => p

/-- A wait that goes on while its word does not: a WJOIN keeps its place among the waits of its target (R159), and a TMOVE that has
installed its copy is the same one when its word executes again (R376, R386). -/
def WaitRec.lasts (r : WaitRec) : Bool := r.kind == .join || r.kind == .move || r.kind == .moved

/-- A wave saved: issued words completed, its wait and region withdrawn, its state parked (R133, R396). -/
def Wave.save (w : Wave) : Wave :=
  let w := w.flushPends.dropRegion
  { w with wait := w.wait.filter WaitRec.lasts, st := .parked,
           eng := { w.eng with paths := w.eng.paths.map Path.saved },
           held := { w.held with paths := w.held.paths.map Path.saved } }

/-- The states in which a wave holds a place on a core. -/
def WaveState.onCore : WaveState → Bool
  | .resident | .waiting | .handler => true
  | _ => false

/-- A joint operation complete (R288): its members' MJOPS count it (R109); tiles or operands written meanwhile leave tiles
undefined (R289). Its product stays among those that no MWAIT has covered (R247). -/
def State.completeJoint (s : State) (j : JointOp) : State :=
  let bad := if j.dirty then j.members.map (·.tile) else j.dirtyTiles
  let s := { s with jointOps := s.jointOps.filter fun (x : JointOp) => x.uid != j.uid,
                    products := if bad.isEmpty then s.products ++ [j] else s.products }
  let s := s.updCtx j.ctx fun c => { c with counters := { c.counters with mjops := c.counters.mjops + .ofNat 64 j.members.length } }
  s.undefTiles j.team bad

/-- A team's scratchpad banks free again (R129). -/
def State.freeBanks (s : State) (team : Nat) : State :=
  { s with banks := s.banks.map fun (b : Bank) => if b.mode == .scratchpad && b.owner == some team then { b with owner := none } else b }

/-- An active context without a wave that is ready, resident, waiting or at handler level is runnable, and a runnable one with
such a wave is active (R98); the deficit of a context that becomes runnable with no ready wave is cleared (R112), but kept through
an eviction, as at a time-slice switch or a park (`kept`). -/
def State.settleCtx (s : State) (u : Nat) (kept : Bool := false) : State :=
  let busy := s.allWaves.any fun w => w.ctx == u && (w.st == .ready || w.st.onCore)
  s.updCtx u fun c =>
    if c.st == .active && !busy then { c with st := .runnable, credit := if kept then c.credit else max c.credit 0 }
    else if c.st == .runnable && busy then { c with st := .active } else c

/-- A cluster and its teams' waves taken off their cores (R130, R396); a latch entry of a member is discarded (R294). `counted`
when EVICTS counts it: by pre-emption, a time-slice switch or a park (R109). -/
def State.evictCluster (s : State) (u : Nat) (counted : Bool := true) : State :=
  match s.cluster? u with
  | none => s
  | some c =>
    let mine := fun (w : Wave) => c.teams.contains w.team && w.st.onCore
    let n := (s.allWaves.filter mine).length
    let replays := (s.allWaves.filter fun w => mine w && w.region.isSome).length
    let s := { s with cp := if mine s.cw then s.cp.saved else s.cp }
    let s := (s.allWaves.filter mine).foldl (fun (s : State) w => s.dirtyPends w) s
    let s := s.mapWaves mine Wave.save
    let s := { s with latch := s.latch.filter fun e => !c.teams.contains e.team }
    let s := (s.jointOps.filter fun j => c.teams.contains j.team).foldl (fun (s : State) j => s.completeJoint j) s
    let s := s.updCtx c.ctx fun x =>
      { x with counters := { x.counters with evicts := x.counters.evicts + .ofNat 64 (if counted then n else 0),
                                             replays := x.counters.replays + .ofNat 64 replays } }
    let s := c.teams.foldl (fun (s : State) t => s.freeBanks t) s
    (s.updCluster u fun x => { x with st := .parked, since := s.time c.dev }).settleCtx c.ctx true

/-- Every placed cluster of a context evicted. -/
def State.evictCtx (s : State) (ctx : Nat) (counted : Bool := true) : State :=
  (s.clusters.filter fun c => c.ctx == ctx && c.st == .placed).foldl (fun s c => s.evictCluster c.uid counted) s

/-! ## Traps -/

/-- HCAUSE for a trap (R390). -/
def Trap.hcause (t : Trap) : Word :=
  .ofNat 64 (t.cause + (if t.lane then 2 ^ 8 else 0) + (if t.pend then 2 ^ 9 else 0) + (if t.xfer then 2 ^ 10 else 0))

/-- The handler registers for a trap taken at `hpc` (R390); HINFO[48] tells that it discarded a region (R392). -/
def Wave.writeHandlerRegs (w : Wave) (t : Trap) (hpc : Word) : Wave :=
  { w with hcause := t.hcause, hpc, hlpc := t.lpc, haddr := t.addr, hlanes := zext64 t.lanes,
           hinfo := t.info ||| (if w.region.isSome then BitVec.ofNat 64 (2 ^ 48) else 0),
           trapIrb := w.region.map (·.irb), trapPath := t.path, trapCopy := t.copy, trapWord := t.word,
           trapBoundary := t.boundary }

/-- Entry to the handler (R387): issued lane words complete, an open region is discarded (R353), the blocks are held. Other traps that are
due stay pending until the return (R180, R389). -/
def Wave.enterHandler (w : Wave) (t : Trap) (hpc handler : Word) : Wave :=
  let w := w.flushPends
  let w := w.writeHandlerRegs t hpc
  let eng := if w.region.isSome then Engine.empty else w.eng
  { w with level := .handler, st := .handler, wait := none, abandoned := w.wait, region := none, pageWait := none,
           pending := w.pending.map fun t => { t with pend := true },
           held := eng, eng := .empty, pc := handler, prev := handler, traps := w.traps + 1 }

/-- The fault record of R449. -/
def faultRecord (num : Nat) (w : Wave) (t : Trap) (noHandler : Bool) (hpc : Word) : List Word :=
  let atHandler := w.level == .handler
  [.ofNat 64 (0x32 + num * 2 ^ 20),
   .ofNat 64 (w.handle.toNat + t.cause * 2 ^ 32 + (if atHandler then (w.hcause.toNat % 256) * 2 ^ 40 else 0) +
     (if noHandler then 2 ^ 48 else 0) + (if atHandler then 2 ^ 49 else 0)),
   hpc, t.lpc, t.addr, t.info ||| (if w.region.isSome then BitVec.ofNat 64 (2 ^ 48) else 0), zext64 t.lanes,
   if atHandler then w.hpc else 0]

/-- The context of the executing wave becomes faulted (R98, R99, R388). -/
def State.faultCtx (s : State) (t : Trap) (noHandler : Bool) (hpc : Word) : State :=
  let w := s.cw
  match s.ctx? w.ctx with
  | none => s
  | some c =>
    let s := (s.post c.dev c.func (faultRecord c.num w t noHandler hpc)).dirtyPends w
    let w' := { w.flushPends.writeHandlerRegs t hpc with region := none, traps := w.traps + 1 }
    let s := { s with cw := { w' with eng := if w.region.isSome then .empty else w'.eng } }
    let s := s.updCtx c.uid fun c => { c with st := .faulted, before := c.st, faulting := w.uid }
    s.evictCtx c.uid false

/-- Whether a partition's turn passes to another function: the slice of the running one is over while a second function is bound,
or the running one is gone (R113). -/
def State.sliceOver (s : State) (p : Part) : Bool :=
  let live := s.funcs.filter fun f => f.dev == p.dev && f.part == p.num && !f.tornDown
  if live.any fun f => f.num == p.running then 1 < live.length && p.sliceFrom + p.sliceNs ≤ s.time p.dev else !live.isEmpty

/-- Whether a context's function has its partition, in a slice that is not over (R113). -/
def State.hasSlice (s : State) (c : Ctx) : Bool :=
  match s.part? c.dev c.part with
  | some p => p.running == c.func && !s.sliceOver p
  | none => false

/-- The executing path put back among the paths of its wave, before the wave leaves ordinary lane issue. -/
def State.parkPath (s : State) : State :=
  if s.cp.live then
    { s with cp := .blank, cw := { s.cw with eng := { s.cw.eng with paths := s.cp :: s.cw.eng.paths } } }
  else { s with cp := .blank }

/-- The holds of a wave end (R354). -/
def State.dropHolds (s : State) (wave : Nat) : State := { s with holds := s.holds.filter fun (h : Hold) => h.wave != wave }

/-- Taking a trap (R387, R388): the handler of the kernel, or the fate of a context without one. `hpc` is the value that
R391 gives HPC. -/
def State.takeTrapAt (s : State) (t : Trap) (hpc : Word) : State :=
  let s := s.parkPath
  let word := if t.lane || t.xfer || t.boundary then t.word else s.word
  let t := { t with pend := t.pend && s.cw.level == .ordinary, word }
  match s.kernelOf s.cw with
  | none => s.faultCtx t true hpc
  | some k =>
    match k.handler with
    | none => s.faultCtx t true hpc
    | some h =>
      if s.cw.level == .handler then s.faultCtx t false hpc
      else
        let now := s.time s.cw.dev
        let s := if s.cw.region.isSome || bitAt t.info.toNat 48 then s.dropHolds s.cw.uid else s
        let s := s.dirtyPends s.cw
        { s with cw := { s.cw.enterHandler t hpc (.ofNat 64 (k.sbase + 4 * h)) with entered := now + 1 } }

/-- Page faults of REASON 0 in an open region abort it: the wave waits for the page at its IRB (R353). Word 0 of the request is its
code alone: R449 puts a context number there for records of a context, R353 gives it in word 1 (DESIGN CHOICE, log entry 47). -/
def State.abortRegion (s : State) (r : Region) (t : Trap) : State :=
  let w := s.cw
  match s.ctx? w.ctx with
  | none => s
  | some c =>
    let s := s.parkPath
    let s := s.post c.dev c.func
      [0x28, .ofNat 64 c.num, t.addr, .ofNat 64 (bitsOf t.info.toNat 43 1 * 2 + bitsOf t.info.toNat 39 1), 0, 0, 0, 0]
    { s with cw := { w with region := none, eng := .empty, pc := r.irb, prev := r.irb, wait := none, st := .waiting,
                            pageWait := some t.addr, pageInfo := t.info, pageSince := s.time w.dev }, cp := .blank }

/-- Whether a trap is a page fault of REASON 0 (R353). -/
def Trap.missing (t : Trap) : Bool := t.cause == PAGE_FAULT && bitsOf t.info.toNat 44 4 == 0

/-- A precise trap of the executing scalar word (R387, R391). -/
def State.takeTrap (s : State) (t : Trap) : State :=
  match s.cw.region with
  | some r => if t.missing then s.abortRegion r t else s.takeTrapAt t s.cw.pc
  | none => s.takeTrapAt t s.cw.pc

/-- The executing wave waits; its word executes again (R160, R180). A wait that goes on keeps its place, and its first moment as a wait of
its kind, blocking or not (R133, R134). -/
def State.suspend (s : State) (kind : WaitKind) (obj : Nat) (d : SReg) (blocking : Bool) : State :=
  let w := s.cw
  let st := if blocking && w.st == .resident then .waiting else w.st
  match w.wait with
  | some r =>
    let since := if r.blocking == blocking then r.since else s.time w.dev
    { s with cw := { w with wait := some { r with kind, obj, d, since, blocking }, st } }
  | none =>
    let (ord, s) := s.fresh
    { s with cw := { w with wait := some { kind, obj, d, since := s.time w.dev, ord, blocking }, st } }

/-- A word that traps has changed no visible state (R8); only the counters of uids and of free values go on. -/
def State.undo (s s' : State) : State := { s with free := s'.free, nextUid := s'.nextUid }

/-- The outcome of a scalar word whose meaning is in steps. -/
def runOp (op : Op Unit) (s : State) : Host.Outcome State Fault Refusal :=
  match op.run s with
  | .ok _ s' => .next s'.retire
  | .error .finished s' => .next s'.retire
  | .error (.trap t) s' => .next ((s.undo s').takeTrap t)
  | .error (.wait kind obj d blocking) s' => .next (s'.suspend kind obj d blocking)

/-- The same, for a word that sets the pc itself. -/
def runJump (op : Op Word) (s : State) : Host.Outcome State Fault Refusal :=
  match op.run s with
  | .ok target s' => .next (s'.jump target)
  | .error .finished s' => .next s'.retire
  | .error (.trap t) s' => .next ((s.undo s').takeTrap t)
  | .error (.wait kind obj d blocking) s' => .next (s'.suspend kind obj d blocking)

/-! ## Waits of the lane queue -/

/-- Whether at most `n` blocks of the executing wave's queue have not ended (R176); at handler level the queue is the
handler's (R180). -/
def State.blocksAtMost (s : State) (n : Nat) : Bool := decide (s.cw.eng.queue.length ≤ n)

/-- LWAIT #0 (R176, R179). -/
def laneWait : Op Unit := do
  unless (← get).blocksAtMost 0 do stall

/-- Words that an open region forbids (R351). -/
def noRegion : Op Unit := do
  if (← get).cw.region.isSome then trap REGION_ILLEGAL

/-- A run of `n` registers from `r` must not pass s63 (R72). -/
def runFits (r : SReg) (n : Nat) : Op Unit := do
  if 64 < r.toNat + n then trap ILLEGAL_OP

/-! ## Handles (R101 to R104) -/

def kWAVE := 1
def kFRAG := 2
def kPORT := 3
def kREMOTE := 4
def kWSET := 5
def kTIMER := 6
def kWATCH := 7
def kTENSOR := 8
def kTILE := 9
def kCENSUS := 10
def kCOPY := 11

/-- The entry of a context's handle table; one never used is empty at generation 1. -/
def State.handleAt (s : State) (ctx i : Nat) : HandleEntry :=
  (s.handles.find? fun h => h.ctx == ctx && h.index == i).getD { ctx, index := i, gen := 1, kind := 0, obj := none }

/-- An entry that cannot take an object: it holds one, or it is retired (R103). -/
def HandleEntry.taken (h : HandleEntry) : Bool := h.obj.isSome || h.gen > 255

/-- The entries of a context that hold an object (R104). -/
def State.handlesUsed (s : State) (ctx : Nat) : Nat := (s.handles.filter fun h => h.ctx == ctx && h.taken).length

/-- Whether the context's slice is full (R104). -/
def State.sliceFull (s : State) (c : Ctx) : Bool := decide (c.slice ≤ s.handlesUsed c.uid)

/-- The first entry free from `i` upwards, cyclically, within `fuel` more entries. -/
def State.freeIndex (s : State) (c : Ctx) (i : Nat) : Nat → Nat
  | 0 => i % c.slice
  | fuel + 1 => if (s.handleAt c.uid (i % c.slice)).taken then s.freeIndex c (i + 1) fuel else i % c.slice

/-- A handle as a word (R101). -/
def HandleEntry.word (h : HandleEntry) : BitVec 32 := .ofNat 32 (h.kind * 2 ^ 28 + h.gen * 2 ^ 20 + h.index)

/-- A new handle for an object; the manual does not say which free entry it takes (R101; log entry 2). -/
def State.newHandle (s : State) (ctx kind obj : Nat) : BitVec 32 × State :=
  match s.ctx? ctx with
  | none => (0, s)
  | some c =>
    let (n, s) := s.draw
    let i := s.freeIndex c (Config.pick n) (s.handlesUsed ctx)
    let h := { s.handleAt ctx i with kind, obj := some obj }
    (h.word, { s with handles := h :: s.handles.filter fun x => !(x.ctx == ctx && x.index == i) })

/-- The handle of an object in a context. -/
def State.handleOf (s : State) (ctx kind obj : Nat) : Option HandleEntry :=
  s.handles.find? fun h => h.ctx == ctx && h.kind == kind && h.obj == some obj

/-- An object's entry emptied, its generation raised; at 255 the entry is retired (R103). -/
def State.freeHandle (s : State) (kind obj : Nat) : State :=
  { s with handles := s.handles.map fun h =>
      if h.kind == kind && h.obj == some obj then { h with obj := none, kind := 0, gen := h.gen + 1 } else h }

/-- A handle operand resolved (R102): the kind and uid of its object, or nothing. A handle of an accepted kind that differs from the kind
of the object that its entry holds resolves to nothing; R102 lists no such case (DESIGN CHOICE, log entry 49). -/
def State.resolve (s : State) (ctx : Nat) (h : BitVec 32) (kinds : List Nat) : Option (Nat × Nat) :=
  let kind := bitsOf h.toNat 28 4
  let e := s.handleAt ctx (bitsOf h.toNat 0 20)
  match s.ctx? ctx, e.obj with
  | some c, some o =>
    if kinds.contains kind && e.kind == kind && e.gen == bitsOf h.toNat 20 8 && bitsOf h.toNat 0 20 < c.slice
    then some (kind, o) else none
  | _, _ => none

/-- The low 32 bits of a register, resolved in the executing context, or HANDLE_INVALID (R102, R392). -/
def resolve (r : SReg) (kinds : List Nat) : Op (Nat × Nat) := do
  let s ← get
  let h := (s.rs r).setWidth 32
  match s.resolve s.cw.ctx h kinds with
  | some x => pure x
  | none => trap HANDLE_INVALID 0 (zext64 h)

/-- A fresh uid. -/
def fresh : Op Nat := do
  let (u, s) := (← get).fresh
  set s
  pure u

/-- A draw of free values. -/
def draw : Op Nat := do
  let (n, s) := (← get).draw
  set s
  pure n

/-- A new handle in the executing context. -/
def newHandle (kind obj : Nat) : Op (BitVec 32) := do
  let s ← get
  let (h, s) := s.newHandle s.cw.ctx kind obj
  set s
  pure h

/-- The context of the executing wave; a wave always has one. -/
def myCtx : Op Ctx := do
  let s ← get
  match s.ctx? s.cw.ctx with
  | some c => pure c
  | none => stall

/-- The team of the executing wave. -/
def myTeam : Op Team := do
  let s ← get
  match s.team? s.cw.team with
  | some t => pure t
  | none => stall

/-- The kernel of the executing wave. -/
def myKernel : Op Kernel := do
  let s ← get
  match s.kernelOf s.cw with
  | some k => pure k
  | none => stall

/-- A full slice: NOOBJ with .nb, else a wait for an entry (R104). -/
def needEntry (d : SReg) (nb : Bool) : Op Unit := do
  let s ← get
  if s.sliceFull (← myCtx) then
    if nb then status d 2 else block

/-! ## Barriers and the end of a wave -/

/-- A barrier at team placement (R325). -/
def Bar.idle : Bar :=
  { collecting := false, phase := 0, mask := 0, pinned := false, members := [], arrived := [], next := [], nextMask := 0 }

/-- A collecting barrier completes when every member has arrived or has ended (R326, R327). -/
def Bar.complete (b : Bar) (ended : Nat → Bool) : Bar :=
  if b.collecting && b.members.all fun m => b.arrived.contains m || ended m then
    { b with collecting := false, phase := b.phase + 1, mask := if b.pinned then b.mask else 0, members := [], arrived := [] }
  else b

/-- Arrivals for the next phase begin it once the barrier is idle (R326, R327); `live` gives the members that a mask names. -/
def Bar.begin (b : Bar) (live : BitVec 16 → List Nat) : Bar :=
  if !b.collecting && !b.next.isEmpty then
    let mask := if b.pinned then b.mask else b.nextMask
    { b with collecting := true, mask, members := live mask, arrived := b.next, next := [], nextMask := 0 }
  else b

/-- A barrier brought forward as far as arrivals and ended waves allow. -/
def Bar.settle (b : Bar) (ended : Nat → Bool) (live : BitVec 16 → List Nat) : Bar :=
  ((b.complete ended).begin live).complete ended

/-- Whether a wave has ended. -/
def State.ended (s : State) (u : Nat) : Bool :=
  match s.wave? u with
  | some w => w.st == .exited
  | none => true

/-- The live waves of the teams that a test selects. -/
def State.liveIn (s : State) (p : Nat → Bool) : List Wave := s.allWaves.filter fun w => p w.team && w.st != .exited

/-- Every barrier of a team and of its cluster, brought forward (R326, R327). -/
def State.settleBars (s : State) (team : Nat) : State :=
  let e := s.ended
  let mine := s.liveIn (· == team)
  let s' := s.updTeam team fun t =>
    { t with bar := t.bar.settle e fun _ => mine.map (·.uid),
             named := t.named.map fun b => b.settle e fun m => (mine.filter fun w => m.getLsbD w.index).map (·.uid) }
  match (s.team? team).bind fun t => s.cluster? t.cluster with
  | some c => s'.updCluster c.uid fun c => { c with bar := c.bar.settle e fun _ => (s.liveIn c.teams.contains).map (·.uid) }
  | none => s'

/-- A source removed from every wait set (R316). -/
def State.dropSource (s : State) (kind obj : Nat) : State :=
  { s with waitSets := s.waitSets.map fun w =>
      { w with sources := w.sources.filter fun x => !(x.kind == kind && x.obj == obj) } }

/-- A census that must complete aborted (R383). -/
def State.abortCensus (s : State) (u : Nat) : State :=
  s.updCensus u fun c => if c.st == .collecting && c.part.isNone then { c with abort := true } else c

/-- The team of a wave that ended: when it was the last, its tiles, banks and barriers go (R153, R230, R325), and with the
last team its cluster. What its scratchpad holds stays with the copies that run to their end (R273). -/
def State.endTeam (s : State) (team : Nat) : State :=
  if s.allWaves.any fun w => w.team == team && w.st != .exited then s
  else
    match s.team? team with
    | none => s
    | some t =>
      let s := { s.freeBanks team with
        teams := s.teams.filter (·.uid != team)
        copies := s.copies.map fun (c : Copy) => if c.team == team then { c with left := some t.scratch } else c
        latch := s.latch.filter (·.team != team)
        products := s.products.filter (·.team != team) }
      if s.teams.any (·.cluster == t.cluster) then s
      else { s with clusters := s.clusters.filter (·.uid != t.cluster) }

/-- The clusters of a launch (R120). -/
def Launch.total (l : Launch) : Nat :=
  let g := (l.record.getD 1 0).toNat
  bitsOf g 0 16 * bitsOf g 16 16 * bitsOf g 32 16

/-- A launch of which a wave ended (R123, R124). -/
def Launch.oneEnded (l : Launch) (cause : Nat) (full : Bool) (now : Nat) : Launch :=
  let l := { l with ended := l.ended + 1, killed := if cause = 0 then l.killed else l.killed + 1 }
  if full && l.ended == l.created then { l with complete := true, done := now } else l

/-- Whether the paths of the program's blocks are set aside, as `hand` blocks run (R180, R394). -/
def Wave.setAside (w : Wave) (hand : Bool) : Bool := w.level == .handler && !hand

/-- A path of a wave, of a handler block or of the program's blocks, wherever it stands. -/
def State.pathOf (s : State) (wave path : Nat) (hand : Bool) : Option Path :=
  (s.wave? wave).bind fun w =>
    if w.setAside hand then w.held.paths.find? (·.id == path)
    else if s.cw.uid == wave then s.allPaths.find? (·.id == path)
    else w.eng.paths.find? (·.id == path)

/-- A path of a wave changed. -/
def State.updPath (s : State) (wave path : Nat) (hand : Bool) (f : Path → Path) : State :=
  let g := fun (w : Wave) =>
    if w.setAside hand then { w with held := { w.held with paths := updBy Path.id path f w.held.paths } }
    else { w with eng := { w.eng with paths := updBy Path.id path f w.eng.paths } }
  let s := s.updWave wave g
  if s.cw.uid == wave && s.cp.live && s.cp.id == path && !s.cw.setAside hand then { s with cp := f s.cp } else s

/-- A trap of a lane word becomes due (R180, R389, R390): HLPC holds the byte address of the word, which the path is still
at. `seq` says when the word issued (R389). -/
def State.pendLane (s : State) (wave path : Nat) (hand : Bool) (word : Nat) (t : Trap) : State :=
  match s.wave? wave, s.pathOf wave path hand with
  | some w, some p =>
    let lpc : Word := .ofNat 64 (((s.kernelOf w).map (·.lbase)).getD 0 + 12 * p.lpc)
    let t := { t with lane := true, lpc, path, word, seq := p.issued, pend := w.setAside hand }
    (s.updPath wave path hand fun p => { p with wait := .none }).updWave wave fun w =>
      { w with pending := w.pending ++ [t] }
  | _, _ => s

/-- The handle-table entry that a handle names, emptied (R103); a handle that is stale names none. -/
def State.freeHandleAt (s : State) (ctx : Nat) (h : BitVec 32) : State :=
  { s with handles := s.handles.map fun (e : HandleEntry) =>
      if e.ctx == ctx && e.word == h && e.obj.isSome then { e with obj := none, kind := 0, gen := e.gen + 1 } else e }

/-- The copies of a wave that ended (R273): queued ones are cancelled, stopped ones failed; their handles go (R261). -/
def State.endCopies (s : State) (u : Nat) : State :=
  let mine := s.copies.filter fun (c : Copy) => c.wave == u
  let s := mine.foldl (fun (s : State) c => s.freeHandle kCOPY c.uid) s
  { s with copies := s.copies.map fun (c : Copy) =>
      if c.wave == u then
        match c.st with
        | .queued => { c with st := .cancelled }
        | .stopped => { c with st := .failed }
        | _ => c
      else c }

/-- Whether a GANG value names a wave index among its members (R274). -/
def gangNames (g : Word) (index : Nat) : Bool :=
  (List.range (bitsOf g.toNat 0 3)).any fun i => bitsOf g.toNat (8 + 4 * i) 4 == index

/-- A wave that ended while a latch entry names it: the entry is discarded and its waves trap MATRIX_GANG 4 (R284). -/
def State.endGang (s : State) (w : Wave) : State :=
  let gone := s.latch.filter fun (e : LatchEntry) => e.team == w.team && gangNames e.gang w.index
  let victims := gone.flatMap fun e => e.arrivals.filter fun a => a.wave != w.uid
  let s := { s with latch := s.latch.filter fun e => !(gone.any fun g => g.uid == e.uid) }
  victims.foldl (fun (s : State) a => s.pendLane a.wave a.path a.hand a.word { cause := MATRIX_GANG, info := 4 }) s

/-- Whether a responder of an entry has been matched and has not ended (R375, R376). -/
def State.entryBusy (s : State) (u : Nat) : Bool := s.responders.any fun (m : Match) => m.tile == u && !m.ended

/-- An entry freed: its handle becomes stale (R374). -/
def State.freeEntry (s : State) (u : Nat) : State :=
  { s.freeHandle kTILE u with tiles := s.tiles.filter fun (x : TileEnt) => x.uid != u }

/-- A responder that ended: its match is over, its s4 handle goes, and without a REPLY its census aborts (R379, R380). The last one
of a dropping entry frees it (R374). -/
def State.endResponder (s : State) (w : Wave) (m : Nat) : State :=
  match s.responders.find? fun (x : Match) => x.uid == m with
  | none => s
  | some x =>
    let s := if x.ended then s else s.abortCensus x.census
    let s := { s.freeHandleAt w.ctx x.handle with responders := updBy Match.uid m (fun x => { x with ended := true }) s.responders }
    match s.tile? x.tile with
    | some t => if t.st == .dropping && !s.entryBusy t.uid then s.freeEntry t.uid else s
    | none => s

/-- The counts of an ended wave go to its context (R109). -/
def Ctx.absorb (c : Ctx) (w : Wave) : Ctx :=
  { c with slotsUsed := c.slotsUsed.filter (· != w.slot),
           counters := { c.counters with swords := c.counters.swords + .ofNat 64 w.swords,
                                         lwords := c.counters.lwords + .ofNat 64 w.lwords,
                                         mjops := c.counters.mjops + .ofNat 64 w.mjops,
                                         traps := c.counters.traps + .ofNat 64 w.traps } }

/-- The products that members which a test selects no longer keep open (R288). -/
def State.unawaited (s : State) (p : MjArrival → Bool) : List JointOp :=
  (s.products.map fun (j : JointOp) => { j with members := j.members.filter fun a => !p a }).filter fun j => !j.members.isEmpty

/-- A wave ends with a cause: 0 WEXIT or REPLY, 1 WKILL or termination (R153, R154, R158). Its counts go to its context, its
slots free, its barriers, its gang and its launch go on without it. -/
def State.endWave (s : State) (u : Nat) (cause : Nat) : State :=
  match s.wave? u with
  | none => s
  | some w =>
    if w.st == .exited then s
    else
      let s := s.updWave u fun w =>
        { w with st := .exited, cause, eng := .empty, held := .empty, region := none, wait := none, pending := [],
                 arrivals := [], swords := 0, lwords := 0, mjops := 0, traps := 0 }
      let s := if s.cw.uid == u then { s with cp := .blank } else s
      let s := (s.updCtx w.ctx (·.absorb w)).endCopies u
      let s := { s with
        holds := s.holds.filter fun (h : Hold) => h.wave != u,
        products := s.unawaited fun a => a.wave == u,
        waitSets := s.waitSets.map fun (ws : WaitSet) =>
          { ws with sources := ws.sources.filter fun x => !(x.kind == 0 && x.obj == u) } }
      let s := (s.freeHandle kFRAG u).endGang w
      let s := s.settleBars w.team
      let s := if w.joinable then s else (s.dropSource kWAVE u).freeHandle kWAVE u
      let s := match w.responder with
        | some m => s.endResponder w m
        | none => s
      let s := s.endTeam w.team
      let s := s.settleCtx w.ctx
      match w.launch, w.ofLaunch with
      | some l, true => s.updLaunch l fun l => l.oneEnded cause (l.next == l.total) (s.time w.dev)
      | _, _ => s

end Sys2Proof.Machine
end

