-- ==== Sys2Proof/Machine/Page.lean ====
section
/-!
DEFINITION. The generic address space (R226 to R228), translation in two stages (R334 to R338), the checks of R336 and R343,
the TLB and its counters (R339, R355), the write-combining buffer (R237), and the accesses that instructions and engines make
through them. Physical bytes of device d stand at d × 2^43 + address, host memory at 2^51 + address (log entry 11).
-/

namespace Sys2Proof.Machine

def hostBase : Nat := 2 ^ 51

/-- A local HBM address as a physical one. -/
def physOf (dev a : Nat) : Nat := dev * 2 ^ 43 + a

/-! ## Frames (R341 to R343) -/

/-- The frame ownership code of a 64 KiB frame (R341). -/
def State.frameCode (s : State) (dev frame : Nat) : BitVec 8 :=
  match s.owners.find? fun (r : OwnRange) => r.dev == dev && r.first ≤ frame && frame < r.first + r.count with
  | some r => r.code
  | none => 0

/-- Frames given a code. -/
def State.setFrames (s : State) (dev first count : Nat) (code : BitVec 8) : State :=
  { s with owners := { dev, first, count, code } :: s.owners }

/-- The fabric domain of a partition; 0 for none (R311). -/
def State.domainOf (s : State) (dev part : Nat) : Nat := ((s.part? dev part).map (·.domain)).getD 0

/-- Whether a frame's owner is a member of the fabric domain of a partition (R343). -/
def State.ownerInDomain (s : State) (dev part phys : Nat) : Bool :=
  let d := phys / 2 ^ 43
  let code := (s.frameCode d (phys % 2 ^ 43 / 65536)).toNat
  1 ≤ code && code ≤ 20 && s.domainOf dev part != 0 && s.domainOf d code == s.domainOf dev part

/-- Whether a local address lies in a frame of which a page is lent (R345). -/
def State.lentFrame (s : State) (dev a : Nat) : Bool :=
  s.lent.any fun (l : Lent) => l.dev == dev && l.addr / 65536 ≤ a / 65536 && a / 65536 * 65536 < l.addr + l.size

/-- The frame check of R343 for an access of a context; `window` when it goes through a window entry. -/
def State.frameOk (s : State) (dev part phys : Nat) (window : Bool) : Bool :=
  if hostBase ≤ phys then true
  else if phys / 2 ^ 43 == dev then
    s.frameCode dev (phys % 2 ^ 43 / 65536) == .ofNat 8 part ||
      (window && s.lentFrame dev (phys % 2 ^ 43) && s.ownerInDomain dev part phys)
  else s.ownerInDomain dev part phys

/-! ## Table walks (R334 to R338) -/

/-- A translation that fails: cause, REASON, STAGE and LEVEL (R336, R337). -/
structure XFault where
  cause : Nat
  reason : Nat
  stage : Nat
  level : Nat
  deriving DecidableEq, Repr, Inhabited

/-- HINFO of a translation fault (R337). -/
def XFault.info (f : XFault) (write : Bool) : Word :=
  .ofNat 64 (f.reason * 2 ^ 44 + f.stage * 2 ^ 43 + f.level * 2 ^ 40 + (if write then 2 ^ 39 else 0))

/-- A leaf that a walk found: the address it maps to, the page size, its rights, and where its entry lies. -/
structure Leaf where
  addr : Nat
  size : Nat
  tgt : Nat
  r : Bool
  w : Bool
  x : Bool
  g : Bool
  wb : Bool
  ct : Bool
  a : Bool
  d : Bool
  level : Nat
  loc : Nat
  deriving DecidableEq, Repr, Inhabited

/-- Whether an entry is a bad entry of R335 at a level; `stage1` entries have TGT reserved. -/
def badEntry (e level : Nat) (stage1 : Bool) : Bool :=
  let frame := bitsOf e 12 39 * 4096
  if bitAt e 1 then
    let size := if level = 2 then 2 ^ 30 else if level = 1 then 2 ^ 21 else if bitAt e 51 then 65536 else 4096
    2 < level || (level != 0 && bitAt e 51) || bitsOf e 10 2 == 3 || (stage1 && bitsOf e 10 2 != 0) ||
      (if bitsOf e 10 2 == 2 then frame % 2 ^ 43 % size != 0 else frame % size != 0)
  else level == 0 || bitsOf e 2 10 != 0 || bitsOf e 51 13 != 0

/-- Whether an L0 entry and the other 15 of its 64 KiB page agree in all that system software writes: A, D and CNT aside (R335). -/
def sameSixteen (m : List Host.Cell) (loc : Nat) : Bool :=
  let plain (e : Nat) : Nat := bitsOf e 0 5 + bitsOf e 7 45 * 2 ^ 7
  let e := plain (Memory.readLE m loc 8)
  (List.range 16).all fun i => plain (Memory.readLE m (loc / 128 * 128 + 8 * i) 8) == e

/-- The entry that serves a walk which reached the entry at `loc`: when the 16 entries of a 64 KiB page differ, R2 applies, and the
model lets any one of them serve (DESIGN CHOICE, log entry 48). -/
def State.servingEntry (s : State) (level loc : Nat) : Nat :=
  let e := Memory.readLE s.mem loc 8
  if level == 0 && bitAt e 51 && !sameSixteen s.mem loc then loc / 128 * 128 + 8 * (Config.mixedEntry loc s.free % 16) else loc

/-- The leaf that an entry is. -/
def leafOf (e level loc va : Nat) : Leaf :=
  let size := if level = 2 then 2 ^ 30 else if level = 1 then 2 ^ 21 else if bitAt e 51 then 65536 else 4096
  { addr := bitsOf e 12 39 * 4096 + va % size, size, tgt := bitsOf e 10 2, r := bitAt e 2, w := bitAt e 3, x := bitAt e 4,
    g := bitAt e 7, wb := bitAt e 8, ct := bitAt e 9, a := bitAt e 5, d := bitAt e 6, level, loc }

/-- The stage-2 walk from a table at a level (R334); its tables lie in system frames (R343). -/
def walk2 (s : State) (dev : Nat) (ia : Nat) : Nat → Nat → Except XFault Leaf
  | 0, table => visit 0 table fun _ => .error { cause := PAGE_FAULT, reason := 1, stage := 1, level := 0 }
  | level + 1, table => visit (level + 1) table fun next => walk2 s dev ia level next
where
  visit (level table : Nat) (down : Nat → Except XFault Leaf) : Except XFault Leaf :=
    let i := if level = 3 then bitsOf ia 39 12 else bitsOf ia (12 + 9 * level) 9
    let loc := physOf dev (table + 8 * i)
    if s.frameCode dev ((table + 8 * i) / 65536) != 0xFF then .error { cause := PROTECTION, reason := 5, stage := 1, level }
    else
      let loc := s.servingEntry level loc
      let e := Memory.readLE s.mem loc 8
      if !bitAt e 0 then .error { cause := PAGE_FAULT, reason := 0, stage := 1, level }
      else if badEntry e level false then .error { cause := PAGE_FAULT, reason := 1, stage := 1, level }
      else if bitAt e 1 then .ok (leafOf e level loc ia)
      else down (bitsOf e 12 39 * 4096)

/-- The physical address that a stage-2 leaf gives (R335). -/
def Leaf.phys (l : Leaf) (dev : Nat) : Nat :=
  if l.tgt = 1 then hostBase + l.addr
  else if l.tgt = 2 then l.addr % 2 ^ 51
  else physOf dev l.addr

/-- A local leaf lies below the peers' part of the address (R335): no frame of the device stands from 2^43 on (R341). -/
def Leaf.confined (l : Leaf) : Bool := l.tgt != 0 || l.addr < 2 ^ 43

/-- The frame check of R343 for the frame that a stage-2 leaf gives. -/
def State.leafOk (s : State) (dev part : Nat) (l : Leaf) : Bool := l.confined && s.frameOk dev part (l.phys dev) false

/-- Whether a physical address lies at a peer of a device. -/
def isPeer (dev phys : Nat) : Bool := phys < hostBase && phys / 2 ^ 43 != dev

/-- An access as the checks see it. -/
structure Who where
  dev : Nat
  core : Nat
  ctx : Nat
  part : Nat
  root1 : Nat
  root2 : Nat
  deriving DecidableEq, Repr, Inhabited

/-- What an access does: a load, a store, both, or a fetch. -/
inductive Acc where
  | load | store | rmw | fetch
  deriving DecidableEq, Repr, Inhabited

def Acc.reads : Acc → Bool
  | .load | .rmw => true
  | _ => false

def Acc.writes : Acc → Bool
  | .store | .rmw => true
  | _ => false

/-- Whether an access is a store to a peer: it merges into the write-combining buffer, and the peer checks the frame when the entry drains
(R414, R415). -/
def Acc.merges (acc : Acc) (dev phys : Nat) : Bool := acc == .store && isPeer dev phys

/-! ## Token buckets (R235, R236)

Time inside a step is left out (log entry 7): a request that finds its bucket empty moves its bytes in its step, and what it waits for
stays queued until a window or a loan pays for it. -/

/-- The home agent of a line of a device: one of its 512 (R22), 32 to a stack, over which the lines of a frame are spread (R233). -/
def agentOf (phys : Nat) : Nat :=
  32 * (Config.stackOf (phys % 2 ^ 43 / 65536) % 16) + Config.channelOf (phys % 2 ^ 43 / 128) % 32

/-- The bucket of a partition at a home-agent port. -/
def State.bucket? (s : State) (dev port part : Nat) : Option Bucket :=
  s.buckets.find? fun (b : Bucket) => b.dev == dev && b.port == port && b.part == part
def State.updBucket (s : State) (dev port part : Nat) (f : Bucket → Bucket) : State :=
  { s with buckets := s.buckets.map fun (b : Bucket) => if b.dev == dev && b.port == port && b.part == part then f b else b }

/-- The tokens that requests wait for at a bucket. -/
def Bucket.queued (b : Bucket) : Nat := (b.queue.map (·.2)).sum

/-- What a context's own bucket at a port lets pay of `k` tokens: a request needs each token from both (R235). -/
def State.payable (s : State) (ctx port k : Nat) : Nat :=
  min k ((((s.ctx? ctx).bind fun c => c.buckets.find? (·.1 == port)).map (·.2.2)).getD k)

/-- Tokens taken from a context's own bucket at a port. -/
def State.takeCtx (s : State) (ctx port n : Nat) : State :=
  s.updCtx ctx fun c => { c with buckets := c.buckets.map fun x => if x.1 == port then (x.1, x.2.1, x.2.2 - n) else x }

/-- Requests of a bucket, each a context and its tokens, paid in their order; what is short is queued (R235). -/
def State.payQueue (dev port part : Nat) : List (Nat × Nat) → State → State
  | [], s => s
  | (ctx, k) :: rest, s =>
    match s.bucket? dev port part with
    | none => s
    | some b =>
      let n := min b.tokens (s.payable ctx port k)
      let s := s.updBucket dev port part fun b =>
        { b with tokens := b.tokens - n, lendable := min b.lendable (b.tokens - n),
                 queue := if k = n then b.queue else b.queue ++ [(ctx, k - n)] }
      State.payQueue dev port part rest (s.takeCtx ctx port n)

/-- The request that a loan would pay: the first of a partition with an empty bucket that its context's own bucket lets pay (R235, R236). -/
def State.borrows (s : State) (b : Bucket) : Option (Nat × Nat) :=
  if b.part != 0 && b.tokens == 0 then b.queue.find? fun x => s.payable x.1 b.port 1 == 1 else none

/-- Whether a bucket has a token to lend (R236). -/
def Bucket.lends (b : Bucket) : Bool := b.lendable != 0 && b.tokens != 0

/-- The lender of lowest partition number at a port; which lender gives the token is not stated (DESIGN CHOICE, log entry 58). -/
def State.lender? (s : State) (dev port : Nat) : Option Bucket :=
  (List.range 21).findSome? fun part => (s.bucket? dev port part).filter (·.lends)

/-- A request shortened by one token. -/
def lessOne (r : Nat × Nat) (queue : List (Nat × Nat)) : List (Nat × Nat) :=
  let rest := queue.erase r
  if r.2 ≤ 1 then rest else (r.1, r.2 - 1) :: rest

/-- A borrower takes one lendable token, which counts 64 bytes lent (R236). -/
def State.lendOne (dev port : Nat) (s : State) (part : Nat) : State :=
  match (s.bucket? dev port part).bind s.borrows, s.lender? dev port with
  | some r, some l =>
    let s := s.updBucket dev port l.part fun b => { b with tokens := b.tokens - 1, lendable := b.lendable - 1 }
    let s := s.updBucket dev port part fun b => { b with queue := lessOne r b.queue }
    (s.takeCtx r.1 port 1).updPart dev l.part fun p => { p with lentBytes := p.lentBytes + 64 }
  | _, _ => s

/-- Rounds in which the borrowers of a port take one token each, by ascending partition number (R236). -/
def State.lend (dev port : Nat) : Nat → State → State
  | 0, s => s
  | n + 1, s => State.lend dev port n ((List.range 21).foldl (State.lendOne dev port) s)

/-- The tokens that a port may still lend. -/
def State.lendable (s : State) (dev port : Nat) : Nat :=
  ((s.buckets.filter fun (b : Bucket) => b.dev == dev && b.port == port).map (·.lendable)).sum

/-- `k` tokens of a port charged to a partition, and to a context's own bucket (R235); what is short is queued, and borrowed if a lender
has it. -/
def State.charge (s : State) (dev part ctx port k : Nat) : State :=
  let s := State.payQueue dev port part [(ctx, k)] s
  s.lend dev port (s.lendable dev port)

/-- The part of a range that lies in a line. -/
def inLine (phys n line : Nat) : Nat := min (phys + n) (line + 128) - max phys line

/-- Bytes of a device's memory charged at the ports of their lines, 64 bytes a token (R235). -/
def State.chargeBytes (s : State) (dev part ctx phys n : Nat) : State :=
  if s.buckets.isEmpty then s
  else (List.range ((phys % 128 + n + 127) / 128)).foldl (fun (s : State) i =>
    let line := phys / 128 * 128 + 128 * i
    s.charge dev part ctx (agentOf line) ((inLine phys n line + 63) / 64)) s

/-- Bytes moved at a device's home agents for a partition (R109, R235). Context 0 is none. -/
def State.moved (s : State) (dev part ctx phys n : Nat) : State :=
  (s.updPart dev part fun p => { p with hbmBytes := p.hbmBytes + .ofNat 64 n }).chargeBytes dev part ctx phys n

/-- Bytes moved at the home agents of the device that holds them (R109): for the partition of the access on its own device, and for
the partition that owns the frame when a peer asks (R235). Host memory has no home agent here. -/
def State.hbm (s : State) (w : Who) (phys n : Nat) : State :=
  if hostBase ≤ phys then s
  else if phys / 2 ^ 43 == w.dev then s.moved w.dev w.part w.ctx phys n
  else s.moved (phys / 2 ^ 43) (s.frameCode (phys / 2 ^ 43) (phys % 2 ^ 43 / 65536)).toNat 0 phys n

/-! ## The walk of stage 1, and both -/

/-- Who accesses for a context from a core of a device. -/
def State.whoAt (s : State) (dev core ctx : Nat) : Who :=
  match s.ctx? ctx with
  | some c => { dev, core, ctx, part := c.part, root1 := c.root1, root2 := ((s.func? c.dev c.func).map (·.root2)).getD 0 }
  | none => default

/-- Who accesses for a wave. -/
def State.whoOf (s : State) (w : Wave) : Who := s.whoAt w.dev w.core w.ctx

/-- An entry that a stage-1 walk read: where it lies, and the stage-2 leaf of its page: where that lies, at which level, the intermediate
address and the page size. -/
structure TableUse where
  entry : Nat
  loc : Nat
  level : Nat
  ia : Nat
  size : Nat
  deriving DecidableEq, Repr, Inhabited

/-- The stage-1 walk (R334, R336): every table entry is itself translated by stage 2, with R there. It gives the leaf, the
stage-2 leaf of its entry, and the stage-2 leaves it used. -/
def walk1 (s : State) (w : Who) (va : Nat) : Nat → Nat → Except XFault (Leaf × Leaf × List TableUse)
  | 0, table => visit 0 table fun _ _ => .error { cause := PAGE_FAULT, reason := 1, stage := 0, level := 0 }
  | level + 1, table => visit (level + 1) table fun next used =>
      match walk1 s w va level next with
      | .ok (l, t, u) => .ok (l, t, used :: u)
      | .error f => .error f
where
  visit (level table : Nat) (down : Nat → TableUse → Except XFault (Leaf × Leaf × List TableUse)) :
      Except XFault (Leaf × Leaf × List TableUse) :=
    let i := if level = 4 then bitsOf va 48 8 else bitsOf va (12 + 9 * level) 9
    match walk2 s w.dev (table + 8 * i) 3 w.root2 with
    | .error f => .error f
    | .ok t =>
      if t.g then .error { cause := GRANTED_AWAY, reason := 0, stage := 1, level := t.level }
      else if !t.r then .error { cause := PROTECTION, reason := 2, stage := 1, level := t.level }
      else if !s.leafOk w.dev w.part t then .error { cause := PROTECTION, reason := 5, stage := 1, level := t.level }
      else
        let loc := s.servingEntry level (t.phys w.dev)
        let use : TableUse := { entry := loc, loc := t.loc, level := t.level, ia := table + 8 * i, size := t.size }
        let e := Memory.readLE s.mem loc 8
        if !bitAt e 0 then .error { cause := PAGE_FAULT, reason := 0, stage := 0, level }
        else if badEntry e level true then .error { cause := PAGE_FAULT, reason := 1, stage := 0, level }
        else if bitAt e 1 then .ok (leafOf e level loc va, t, [use])
        else down (bitsOf e 12 39 * 4096) use

/-- Bits set in a table entry, by an atomic OR (R338). -/
def orByte (m : List Host.Cell) (loc : Nat) (bits : Byte) : List Host.Cell :=
  Memory.write m loc (Memory.read m loc ||| bits)

/-- The rights of an access that a pair of leaves lacks, in the order of R336. -/
def rightsFault (acc : Acc) (a b : Leaf) : Option XFault :=
  let at' (f : Leaf → Bool) (cause reason : Nat) : Option XFault :=
    if f a then some { cause, reason, stage := 0, level := a.level }
    else if f b then some { cause, reason, stage := 1, level := b.level } else none
  match at' (·.g) GRANTED_AWAY 0 with
  | some f => some f
  | none =>
    match (if acc.reads then at' (fun l => !l.r) PROTECTION 2 else none) with
    | some f => some f
    | none =>
      match (if acc.writes then at' (fun l => !l.w) PROTECTION 3 else none) with
      | some f => some f
      | none => if acc = .fetch then at' (fun l => !l.x) PROTECTION 4 else none

/-- The entries of 8 bytes that a walk reads move at their home agents (R109, R235): of stage 2, those from its root down to a leaf. -/
def State.walkBytes (s : State) (w : Who) (used : List TableUse) (l2 : Leaf) : State :=
  let s := used.foldl (fun (s : State) u => (s.hbm w u.entry 8).hbm w u.loc (8 * (4 - u.level))) s
  s.hbm w l2.loc (8 * (4 - l2.level))

/-- A translation afresh, with the A and D bits set and the combined entry filled into the core's TLB (R336, R338, R339). -/
def State.walk (s : State) (w : Who) (acc : Acc) (va : Nat) : Except XFault (TlbEntry × State) :=
  match walk1 s w va 4 w.root1 with
  | .error f => .error f
  | .ok (l1, t, used) =>
    match walk2 s w.dev l1.addr 3 w.root2 with
    | .error f => .error f
    | .ok l2 =>
      match rightsFault acc l1 l2 with
      | some f => .error f
      | none =>
        let phys := l2.phys w.dev
        if !(l2.confined && (acc.merges w.dev phys || s.leafOk w.dev w.part l2)) then
          .error { cause := PROTECTION, reason := 5, stage := 1, level := l2.level }
        else if (!l1.a || (acc.writes && !l1.d)) && !t.w then .error { cause := PROTECTION, reason := 3, stage := 1, level := t.level }
        else
          let bits : Byte := if acc.writes then 0x60 else 0x20
          let m := used.foldl (fun m u => orByte m u.loc 0x20) s.mem
          let m := orByte (orByte m l1.loc bits) l2.loc bits
          let m := if !l1.a || (acc.writes && !l1.d) then orByte m t.loc 0x40 else m
          let size := min l1.size l2.size
          let e : TlbEntry :=
            { dev := w.dev, core := w.core, ctx := w.ctx, va := va / size * size, size, base := phys - va % size,
              r := l1.r && l2.r, w := l1.w && l2.w, x := l1.x && l2.x, g := false, wb := l1.wb || l2.wb, leaf1 := l1.loc,
              leaf2 := l2.loc, ia := l1.addr, ct1 := l1.ct, ct2 := l2.ct, dirty := acc.writes, count := 0, size1 := l1.size,
              size2 := l2.size, tables := used.map fun u => (u.ia, u.size) }
          .ok (e, { s with mem := m, tlb := e :: s.tlb }.walkBytes w used l2)

/-- The TLB entry of a core for an address. -/
def State.tlbHit (s : State) (w : Who) (va : Nat) : Option TlbEntry :=
  s.tlb.find? fun (e : TlbEntry) => e.dev == w.dev && e.core == w.core && e.ctx == w.ctx && e.va ≤ va && va < e.va + e.size

/-- The receive window entry that an address falls into, when it lies in a window of the context (R346): `some none` for a
window address that holds no mapped page. The mapped pages of a closed port stay until they are unmapped (R307). -/
def State.windowAt (s : State) (ctx va : Nat) : Option (Option WinEntry) :=
  let at' (e : WinEntry) : Bool := e.va ≤ va && va < e.va + e.grant.size
  match s.ports.find? fun (p : Port) => p.ctx == ctx && p.winBase ≤ va && va < p.winBase + p.winSize &&
      (p.st != .closed || p.window.any at') with
  | none => none
  | some p => some (p.window.find? at')

/-- CONV of a tensor: a TCONV of it runs, or has stopped for good after its check (R371). -/
def State.converting (s : State) (t : Tensor) : Bool :=
  s.copies.any fun (c : Copy) => c.job == .tconv && c.tensor == t.uid &&
    match c.st with
    | .queued | .started | .stopped => true
    | .failed => 1 ≤ c.phase
    | _ => false

/-- The shard ranges of a tensor that are locked (R348, R371). -/
def State.lockedRanges (s : State) (t : Tensor) : List (Nat × Nat) := if s.converting t then t.locked else t.locked.take 1

/-! ## Kernel pages (R118, log entry 24) -/

/-- The frames of 64 KiB that a section of `n` bytes takes. -/
def framesFor (n : Nat) : Nat := (n + 65535) / 65536

/-- A section's bytes, rounded up to whole pages (R450). -/
def pageUp (n : Nat) : Nat := (n + 4095) / 4096 * 4096

/-- Where a byte of a section lies, from frame `skip` of the kernel on. -/
def Kernel.sectionByte (k : Kernel) (skip base bytes va : Nat) : Option Nat :=
  if base ≤ va && va < base + pageUp bytes then
    (k.frames[skip + (va - base) / 65536]?).map fun f => f * 65536 + (va - base) % 65536
  else none

/-- The local address of a kernel page that the loader mapped, and whether it is data (R118). -/
def Kernel.pageByte (k : Kernel) (va : Nat) : Option (Nat × Bool) :=
  let ns := framesFor (4 * k.swords)
  let nl := framesFor (12 * k.lwords)
  match k.sectionByte 0 k.sbase (4 * k.swords) va with
  | some a => some (a, false)
  | none =>
    match k.sectionByte ns k.lbase (12 * k.lwords) va with
    | some a => some (a, false)
    | none => (k.sectionByte (ns + nl) k.dbase k.dbytes va).map fun a => (a, true)

/-- The same over the kernels of a context. -/
def State.kernelByte (s : State) (ctx va : Nat) : Option (Nat × Bool) :=
  (s.ctx? ctx).bind fun c => c.kernels.findSome? fun k => k.pageByte va

/-- Whether a store to a page meets a placement lock (R348). -/
def State.lockedPage (s : State) (dev ctx page size : Nat) : Bool :=
  s.tensors.any fun (t : Tensor) => t.dev == dev && t.ctx == ctx && (s.lockedRanges t).any fun r => page < r.2 && r.1 < page + size

/-- The leaf that the loader maps for a page (R118, R335): code is readable and executable, data readable and writable. -/
def loaderLeaf (data : Bool) : Nat := if data then 0x0F else 0x17

/-- The leaf of the kernel page at an address; 0 where there is none. -/
def State.kernelLeaf (s : State) (ctx va : Nat) : Nat :=
  (((s.ctx? ctx).bind fun c => c.kernels.findSome? fun k => k.leaves.find? (·.1 == va / 4096 * 4096)).map (·.2)).getD 0

/-- Bits set in the leaf of a kernel page, by an atomic OR (R338). -/
def State.orKernelLeaf (s : State) (ctx va bits : Nat) : State :=
  s.updCtx ctx fun c => { c with kernels := c.kernels.map fun k =>
    { k with leaves := k.leaves.map fun x => if x.1 == va / 4096 * 4096 then (x.1, x.2 ||| bits) else x } }

/-- Whether an address lies in a kernel's data page that is granted away (R305). -/
def State.kernelAway (s : State) (ctx va : Nat) : Bool := bitAt (s.kernelLeaf ctx va) 7

/-- An access to a kernel page checked against its leaf, in the order of R336. -/
def State.kernelAccess (s : State) (w : Who) (acc : Acc) (va : Nat) (a : Nat × Bool) : Except XFault Nat :=
  let e := s.kernelLeaf w.ctx va
  let bad (cause reason stage : Nat) : Except XFault Nat := .error { cause, reason, stage, level := 0 }
  if !bitAt e 0 then bad PAGE_FAULT 0 0
  else if badEntry e 0 true then bad PAGE_FAULT 1 0
  else if bitAt e 7 then bad GRANTED_AWAY 0 0
  else if acc.reads && !bitAt e 2 then bad PROTECTION 2 0
  else if acc.writes && !bitAt e 3 then bad PROTECTION 3 0
  else if acc == .fetch && !bitAt e 4 then bad PROTECTION 4 0
  else if !s.frameOk w.dev w.part (physOf w.dev a.1) false then bad PROTECTION 5 1
  else if acc.writes && s.lockedPage w.dev w.ctx (va / 4096 * 4096) 4096 then bad PLACEMENT_LOCKED 0 0
  else .ok (physOf w.dev a.1)

/-- The outcome of translating one address: a physical address with the page that counts, a wait at a write-blocked page
(R357), or a fault. -/
inductive Xlate where
  | at (phys : Nat) (page : Nat)
  | blocked
  | fault (f : XFault)
  deriving DecidableEq, Repr, Inhabited

/-! ## Counters (R355, R356) -/

/-- A message appended to a port, if it is open and has a free slot. -/
def Port.freeSlots (p : Port) : Nat := p.depth - p.queue.length - p.resv - p.allow

/-- The MSI-X vector of a port is signalled when QUEUED rises from 0 (R419). -/
def State.enqueue (s : State) (port : Nat) (m : Msg) : State :=
  match s.port? port with
  | none => s
  | some p =>
    let s := s.updPort port fun p => { p with queue := p.queue ++ [{ m with stamp := s.time p.dev }] }
    match p.queue, p.vector, s.ctx? p.ctx with
    | [], some v, some c => s.updFunc c.dev c.func fun f => { f with signals := f.signals ++ [v] }
    | _, _, _ => s

/-- A message of the machine's own (R124, R356). -/
def Msg.own (words : List Word) : Msg :=
  { words, grants := [], reply := none, via := none, seq := 0, completion := false, stamp := 0 }

/-- Whether CNT of the leaf that an entry was made from may be written now (R2, R14, R355): a walk of the context's tables still comes to
that leaf, in a frame that passes R343, and it has CT. The 16 entries of a 64 KiB page are one leaf. -/
def State.counts (s : State) (e : TlbEntry) (stage2 : Bool) : Bool :=
  let w := s.whoAt e.dev e.core e.ctx
  let same (l : Leaf) (loc size : Nat) : Bool :=
    l.size == size && l.ct && (if size == 65536 then l.loc / 128 == loc / 128 else l.loc == loc)
  match walk1 s w e.va 4 w.root1 with
  | .error _ => false
  | .ok (l1, t, _) =>
    if stage2 then
      match walk2 s w.dev l1.addr 3 w.root2 with
      | .ok l2 => same l2 e.leaf2 e.size2 && s.leafOk w.dev w.part l2
      | .error _ => false
    else same l1 e.leaf1 e.size1 && s.leafOk w.dev w.part t

/-- CNT of a leaf raised by `n`, saturating at 4,095, and the migration notification of R356. -/
def State.addCnt (s : State) (e : TlbEntry) (stage2 : Bool) (n : Nat) : State :=
  let loc := if stage2 then e.leaf2 else e.leaf1
  let loc := if (if stage2 then e.size2 else e.size1) = 65536 then loc / 128 * 128 else loc
  let old := Memory.readLE s.mem loc 8
  let cnt := bitsOf old 52 12
  let new := min 4095 (cnt + n)
  if !s.counts e stage2 then s else
  let s := { s with mem := Memory.writeBytes s.mem loc (leBytes (old % 2 ^ 52 + new * 2 ^ 52) 8) }
  match s.ctx? e.ctx with
  | none => s
  | some c =>
    match c.migPort with
    | none => s
    | some port =>
      if cnt < c.threshold && c.threshold ≤ new then
        match s.port? port with
        | some p =>
          if p.freeSlots = 0 || p.st == .draining || p.st == .closed then s
          else s.enqueue port (.own
            [.ofNat 64 (0x29 + (if stage2 then 2 ^ 8 else 0) + c.num * 2 ^ 20),
             .ofNat 64 (if stage2 then e.ia / e.size2 * e.size2 else e.va / e.size1 * e.size1), .ofNat 64 new, .ofNat 64 e.core, 0, 0, 0, 0])
        | none => s
      else s

/-- The local count of a TLB entry added to the counting leaf; the entry dropped, or kept at 0 (R355). -/
def State.addCount (s : State) (e : TlbEntry) (drop : Bool) : State :=
  let s := if e.ct1 && 0 < e.count then s.addCnt e false e.count else s
  let s := if e.ct2 && 0 < e.count then s.addCnt e true e.count else s
  if drop then { s with tlb := s.tlb.filter fun x => !(x == e) }
  else { s with tlb := s.tlb.map fun x => if x == e then { x with count := 0 } else x }

/-- Translations that a test selects dropped on every core, their counts added (R339, R347, R355). -/
def State.dropTlb (s : State) (p : TlbEntry → Bool) : State :=
  (s.tlb.filter p).foldl (fun (s : State) e => s.addCount e true) s

/-- One instruction counted at each page it used that has CT (R355). -/
def State.countPages (s : State) (w : Who) (pages : List Nat) : State :=
  pages.eraseDups.foldl (fun s page =>
    match s.tlbHit w page with
    | some e =>
      if e.ct1 || e.ct2 then
        let e' := { e with count := e.count + 1 }
        let s := { s with tlb := s.tlb.map fun x => if x == e then e' else x }
        if 16 ≤ e'.count then s.addCount e' false else s
      else s
    | none => s) s

/-! ## The translation of an access -/

/-- Whether a combined entry serves an access as it stands; another is translated afresh (R336, R338, R339). -/
def State.entryServes (s : State) (w : Who) (acc : Acc) (va : Nat) (e : TlbEntry) : Bool :=
  (!acc.reads || e.r) && (!acc.writes || (e.w && e.dirty)) && (acc != .fetch || e.x) &&
    (acc.merges w.dev (e.base + (va - e.va)) || s.frameOk w.dev w.part (e.base + (va - e.va)) false)

/-- A translation through the tables, with the placement lock (R348) and WB (R357). -/
def State.translateTables (s : State) (w : Who) (acc : Acc) (va : Nat) (buffered : Bool) : Xlate × State :=
  let r : Except XFault (TlbEntry × State) := match (s.tlbHit w va).filter (s.entryServes w acc va) with
    | some e => .ok (e, s)
    | none => s.walk w acc va
  match r with
  | .error f => (.fault f, s)
  | .ok (e, s) =>
    if acc.writes && s.lockedPage w.dev w.ctx e.va e.size then
      (.fault { cause := PLACEMENT_LOCKED, reason := 0, stage := 0, level := 0 }, s)
    else if acc.writes && e.wb && !buffered then
      (.blocked, s.addCount e true)
    else (.at (e.base + (va - e.va)) e.va, s)

/-- One virtual address translated and checked (R336, R343, R346, R348): by a window entry, a kernel's pages, or the tables. STAGE of a
window address without a page is 1 (log entry 59). -/
def State.translate (s : State) (w : Who) (acc : Acc) (va : Nat) (buffered : Bool) : Xlate × State :=
  match s.windowAt w.ctx va with
  | some none => (.fault { cause := PAGE_FAULT, reason := 0, stage := 1, level := 0 }, s)
  | some (some e) =>
    if e.granted then (.fault { cause := GRANTED_AWAY, reason := 0, stage := 0, level := 0 }, s)
    else if acc.writes && !e.grant.w then (.fault { cause := PROTECTION, reason := 3, stage := 0, level := 0 }, s)
    else if acc == .fetch then (.fault { cause := PROTECTION, reason := 4, stage := 0, level := 0 }, s)
    else
      let phys := physOf e.grant.dev e.grant.addr + (va - e.va)
      if !(acc.merges w.dev phys || s.frameOk w.dev w.part phys true) then (.fault { cause := PROTECTION, reason := 5, stage := 1, level := 0 }, s)
      else if acc.writes && s.lockedPage w.dev w.ctx e.va e.grant.size then
        (.fault { cause := PLACEMENT_LOCKED, reason := 0, stage := 0, level := 0 }, s)
      else (.at phys va, s)
  | none =>
    match s.kernelByte w.ctx va with
    | some k =>
      match s.kernelAccess w acc va k with
      | .error f => (.fault f, s)
      | .ok phys =>
        if acc.writes && bitAt (s.kernelLeaf w.ctx va) 8 && !buffered then (.blocked, s)
        else (.at phys va, s.orKernelLeaf w.ctx va (if acc.writes then 0x60 else 0x20))
    | none => s.translateTables w acc va buffered

/-! ## Physical bytes, watches, poison, the write-combining buffer -/

/-- Whether a watch's comparison holds (R321). -/
def Watch.holds (w : Watch) (m : List Host.Cell) : Bool :=
  let n := if w.wide then 8 else 4
  let x : Word := .ofNat 64 (Memory.readLE m w.addr n) &&& w.mask
  let v := w.value &&& w.mask
  let sx (y : Word) : Int := if w.wide then y.toInt else (y.setWidth 32).toInt
  let lo (y : Word) : Nat := y.toNat % 2 ^ (8 * n)
  match w.cmp with
  | 0 => lo x == lo v
  | 1 => lo x != lo v
  | 2 => lo x < lo v
  | 3 => lo v ≤ lo x
  | 4 => sx x < sx v
  | _ => sx v ≤ sx x

/-- Whether a watch may still read its word (R14, R343): the frame belongs to its context's partition, or to its fabric domain. -/
def State.watchReads (s : State) (w : Watch) : Bool :=
  match s.ctx? w.ctx with
  | some c => s.frameOk c.dev c.part w.addr true
  | none => false

/-- Watches with an entry at the word's home agent see every write to it (R321, R322). -/
def State.seeWrite (s : State) (phys n : Nat) : State :=
  { s with watches := s.watches.map fun (w : Watch) =>
      if !w.polled && !w.matched && w.addr < phys + n && phys < w.addr + (if w.wide then 8 else 4) && s.watchReads w && w.holds s.mem
      then { w with matched := true } else w }

/-- Poison that a write of whole 8-byte words clears (R398). -/
def clearPoison (poison : List ErrUnit) (phys n : Nat) : List ErrUnit :=
  poison.filter fun u => match u with
    | .memWord a => !(phys ≤ a && a + 8 ≤ phys + n)
    | _ => true

/-- Whether a range holds a poisoned word (R398). -/
def State.poisonedMem (s : State) (phys n : Nat) : Bool :=
  s.poison.any fun u => match u with
    | .memWord a => a < phys + n && phys < a + 8
    | _ => false

/-- Physical bytes written. -/
def State.writePhys (s : State) (phys : Nat) (bytes : List Byte) : State :=
  let s := { s with mem := Memory.writeBytes s.mem phys bytes, poison := clearPoison s.poison phys bytes.length }
  s.seeWrite phys bytes.length

/-! ## The rim as accesses see it (R400, R405, R407, R412) -/

/-- A device that answers requests: started and not parked. -/
def Dev.answers (d : Dev) : Bool := !d.parked && (d.stage == .stageB || d.stage == .full)

/-- Whether a trained port leads from a device to a peer that answers. -/
def State.linkUp (s : State) (a b : Nat) : Bool :=
  (s.rimPorts.any fun (p : RimPort) => p.dev == a && p.peer == b && p.st == .up) && ((s.dev? b).map (·.answers)).getD false

/-- One leg of a route: none, direct, or by one intermediate device of the same row or column. -/
def State.legUp (s : State) (a b : Nat) (row : Bool) : Bool :=
  a == b || s.linkUp a b ||
    s.devs.any fun (m : Dev) => (if row then m.id / 16 == a / 16 else m.id % 16 == a % 16) && s.linkUp a m.id && s.linkUp m.id b

/-- Whether a request of a device reaches another: first in X, then in Y (R405). -/
def State.reachable (s : State) (a b : Nat) : Bool :=
  let corner := a / 16 * 16 + b % 16
  a == b || (s.legUp a corner true && s.legUp corner b false)

/-- The lines of a list that lie in a device's memory. -/
def linesOf (dst : Nat) (lines : List Nat) : List Nat := lines.filter fun a => a / 2 ^ 43 == dst

/-- A request without a response is outstanding (R412). Its requester has at most one here, and a core has at most one for a line: a later
one waits for the earlier response (R408). -/
def State.rimIssue (s : State) (dev dst core : Nat) (lines : List Nat) (wave copy census : Nat) : State :=
  let own := fun (r : RimReq) => r.wave == wave && r.copy == copy && r.census == census
  let earlier := fun (r : RimReq) => r.core == core && r.dst == dst && r.lines.any lines.contains
  if s.rimReqs.any fun (r : RimReq) => r.dev == dev && (own r || earlier r) then s
  else
    let (u, s) := s.fresh
    { s with rimReqs := s.rimReqs ++
        [{ dev, tag := u % 2 ^ 16, dst, core, lines := linesOf dst lines, wave, copy, census, issued := s.time dev }] }

/-- Bytes of one line written at its home agent as one write, each aligned 8-byte word of it at once (R237). -/
def State.writeLine (s : State) (line : Nat) (bytes : List (Nat × Byte)) : State :=
  let whole (a : Nat) : Bool := (List.range 8).all fun i => bytes.any fun b => line + b.1 == a + i
  let s := { s with
    mem := bytes.foldl (fun m b => Memory.write m (line + b.1) b.2) s.mem,
    poison := s.poison.filter fun u => match u with
      | .memWord a => !whole a
      | _ => true }
  (List.range 16).foldl (fun (s : State) i => if bytes.any fun b => b.1 / 8 == i then s.seeWrite (line + 8 * i) 8 else s) s

/-- A write-combining entry written to the peer (R237), or refused by its frame check: every wave with bytes in it traps
PROTECTION at its next boundary (R415); a wave at handler level takes the trap of a store made before its handler once it has returned, and
that of its handler's own store makes its context faulted (R388). The error record that is posted without them has no stated contents (log entry 2). -/
def State.drain (s : State) (e : WcbEntry) (refuse : Option Nat) : State :=
  let s := { s with wcb := s.wcb.filter fun x => !(x == e) }
  match refuse with
  | none =>
    let d := e.line / 2 ^ 43
    let s := s.moved d (s.frameCode d (e.line % 2 ^ 43 / 65536)).toNat 0 e.line e.bytes.length
    s.writeLine e.line (e.bytes.map fun b => (b.off, b.val))
  | some cause =>
    let waves := (e.bytes.map (·.wave)).eraseDups
    let hand (u : Nat) : Bool := e.bytes.any fun b => b.wave == u && b.hand
    let live := waves.filter fun u => !s.ended u
    if live.isEmpty then
      match s.parts.find? fun (p : Part) => p.dev == e.dev && p.hoops.contains (e.core / 8) with
      | some p =>
        let (n, s) := s.draw
        s.post e.dev p.running ((List.range 8).map (Config.undef64 n))
      | none => s
    else live.foldl (fun (s : State) u => s.updWave u fun w =>
      { w with pending := w.pending ++ [{ cause, pend := w.level == .handler && !hand u, addr := .ofNat 64 e.line, boundary := true, seq := w.seq }],
               seq := w.seq + 1 }) s

/-- The cause with which a drain fails: no device answers (R412), or the peer's frame check fails for the partition of the core (R343,
R415). -/
def State.drainRefusal (s : State) (e : WcbEntry) : Option Nat :=
  if !s.reachable e.dev (e.line / 2 ^ 43) then some FABRIC_POISON
  else if s.frameOk e.dev e.part e.line false then none else some PROTECTION

/-- Every entry of a core that a test selects, drained (R237). -/
def State.drainWhere (s : State) (p : WcbEntry → Bool) : State :=
  (s.wcb.filter p).foldl (fun (s : State) e => s.drain e (s.drainRefusal e)) s

/-- Whether wave `u` is `w` or lies in its cluster: a release of team or cluster scope orders the accesses of the one before those of
the other, and no such release empties a buffer (R237, R240, R243). A wave whose team has gone counts. -/
def State.kin (s : State) (w u : Nat) : Bool :=
  let cluster (x : Nat) : Option Nat := ((s.wave? x).bind fun v => s.team? v.team).map (·.cluster)
  u == w || match cluster u, cluster w with
    | some a, some b => a == b
    | _, _ => true

/-- Entries of other cores that hold bytes of a wave's cluster, as a wave that has moved leaves them; of one line, or of all. -/
def WcbEntry.leftBy (e : WcbEntry) (s : State) (wave : Nat) : Bool := e.bytes.any fun b => s.kin wave b.wave

/-- Bytes of a remote line, by their place in it, merged into its entry (R237); what a wave of its cluster left for the line on another core
drains first, so that the stores of a wave to a byte stay in program order (R238). -/
def State.wcbMerge (s : State) (w : Who) (wave : Nat) (hand : Bool) (line : Nat) (bytes : List (Nat × Byte)) : State :=
  let mine := fun (e : WcbEntry) => e.dev == w.dev && e.core == w.core
  let s := s.drainWhere fun e => e.dev == w.dev && e.core != w.core && e.line == line && e.leftBy s wave
  let s := match s.wcb.find? fun e => mine e && e.line == line with
    | some _ => s
    | none =>
      let s := if 64 ≤ (s.wcb.filter mine).length then
          match s.wcb.find? mine with
          | some e => s.drain e (s.drainRefusal e)
          | none => s
        else s
      let new : WcbEntry := { dev := w.dev, core := w.core, part := w.part, line, bytes := [], born := s.time w.dev }
      { s with wcb := s.wcb ++ [new] }
  let new := bytes.map fun b => WcbByte.mk b.1 b.2 wave hand
  let merge := fun (e : WcbEntry) =>
    if mine e && e.line == line then
      { e with bytes := e.bytes.filter (fun b => !(new.any fun n => n.off == b.off)) ++ new }
    else e
  let s := { s with wcb := s.wcb.map merge }
  s.drainWhere fun e => mine e && e.line == line && e.bytes.length == 128

/-- A remote store of a wave (R237). -/
def State.wcbStore (s : State) (w : Who) (wave : Wave) (phys : Nat) (bytes : List Byte) : State :=
  s.wcbMerge w wave.uid (wave.level == .handler) (phys / 128 * 128) (bytes.zipIdx.map fun b => (phys % 128 + b.2, b.1))

/-- A read or an atomic of a line held in a write-combining entry of the core drains it first (R237); so does one of a line that a wave
of the reader's cluster left on another core, whose stores may happen before the read (R238, R242). Wave 0 is no wave. -/
def State.beforeRead (s : State) (w : Who) (wave phys : Nat) : State :=
  if isPeer w.dev phys then
    s.drainWhere fun e => e.dev == w.dev && e.line == phys / 128 * 128 && (e.core == w.core || (wave != 0 && e.leftBy s wave))
  else s

/-! ## Generic addresses -/

/-- Where an access goes once every check has passed. -/
inductive Loc where
  | phys (a page : Nat)
  | scratch (team off : Nat)
  | fifo (bank : Nat)
  deriving DecidableEq, Repr, Inhabited

def scratchWindow : Nat := 0x0100000000000000
def fifoWindow : Nat := 0x0100000080000000

/-- The team that field T of a scratchpad address names for a wave (R227). -/
def State.scratchTeam (s : State) (w : Wave) (t : Nat) : Option Team :=
  match s.team? w.team with
  | none => none
  | some own =>
    if own.banks = 0 then none
    else if t = 0 then some own
    else s.teams.find? fun (x : Team) => x.cluster == own.cluster && x.tpos == t - 1

/-- A scratchpad address checked (R227): the team and the offset. -/
def State.scratchAt (s : State) (w : Wave) (a : Nat) : Option (Team × Nat) :=
  let off := a % 2 ^ 24
  let t := (a - scratchWindow) / 2 ^ 24
  if 12 < t then none
  else match s.scratchTeam w t with
    | some x => if off < x.banks * 131072 then some (x, off) else none
    | none => none

/-- A hoop bank; one never configured is a cache way (log entry 4). -/
def State.bank (s : State) (dev hoop bank : Nat) : Bank :=
  (s.banks.find? fun (b : Bank) => b.dev == dev && b.hoop == hoop && b.bank == bank).getD
    { dev, hoop, bank, mode := .cacheWay, owner := none, fifo := [], pending := none, pendingOwner := none }

def State.setBank (s : State) (b : Bank) : State :=
  { s with banks := b :: s.banks.filter fun x => !(x.dev == b.dev && x.hoop == b.hoop && x.bank == b.bank) }

/-- The outcome of checking one generic address. -/
inductive Resolved where
  | ok (l : Loc)
  | blocked
  | bad (t : Trap)
  deriving DecidableEq, Repr, Inhabited

/-- One generic address checked for an access of `n` bytes by a wave (R226 to R228, R232, R336). -/
def State.locate (s : State) (w : Wave) (acc : Acc) (a n : Nat) : Resolved × State :=
  let bad : Resolved := .bad { cause := PROTECTION, addr := .ofNat 64 a }
  if a < 2 ^ 56 then
    match s.translate (s.whoOf w) acc a w.region.isSome with
    | (.at p page, s) => (.ok (.phys p page), s)
    | (.blocked, s) => (.blocked, s)
    | (.fault f, s) => (.bad { cause := f.cause, addr := .ofNat 64 a, info := f.info acc.writes }, s)
  else if scratchWindow ≤ a && a < scratchWindow + 0x0D000000 then
    match s.scratchAt w a with
    | some (t, off) => (.ok (.scratch t.uid off), s)
    | none => (bad, s)
  else if fifoWindow ≤ a && a < fifoWindow + 0x200 then
    let q := (a - fifoWindow) / 8
    let b := s.bank w.dev (w.core / 8) q
    if w.region.isSome then (.bad { cause := REGION_ILLEGAL }, s)
    else if b.mode == .fifo && b.owner == some w.ctx && n == 8 && a % 8 == 0 && acc != .rmw && acc != .fetch
    then (.ok (.fifo q), s)
    else (bad, s)
  else (bad, s)

/-- The bytes of a checked location, as the executing wave loads them: buffered bytes of its region first (R351). -/
def State.loadBytes (s : State) (w : Wave) (a : Nat) (l : Loc) (n : Nat) : List Byte × State :=
  let own (i : Nat) : Option Byte :=
    w.region.bind fun r => (r.buf.find? fun c => c.1 == a + i).map (·.2)
  let overlay (raw : List Byte) : List Byte := raw.zipIdx.map fun b => (own b.2).getD b.1
  match l with
  | .phys p _ =>
    let who := s.whoOf w
    let s := s.beforeRead who w.uid p
    (overlay (Memory.readBytes s.mem p n), s.hbm who p n)
  | .scratch t off => (overlay (Memory.readBytes (((s.team? t).map (·.scratch)).getD []) off n), s)
  | .fifo _ => ([], s)

/-- A write of the A panel of joint matrix work in progress (R247, R289). -/
def State.dirtyPanel (s : State) (team off n : Nat) : State :=
  s.disturb fun t pa ty _ => t == team && off < pa + (if ty = 0xC then 10304 else 8192) && pa < off + n

/-- A write of a team's scratchpad, by a wave or a chunk of a copy, that no MFENCE has ordered yet (R247). What it covers whole is replaced.
A team without tiles runs no joint operation. -/
def Team.note (t : Team) (src : Nat) (chunk : Option Nat) (off n : Nat) : Team :=
  if t.acc = 0 then t
  else
    let others := t.unfenced.filter fun (u : Unfenced) => !(off ≤ u.off && u.off + u.n ≤ off + n)
    { t with unfenced := others ++ [{ src, chunk, off, n, elig := [src], barred := none, seen := [] }] }

/-- The panel writes of a test are ordered for the executing wave, up to its next MFENCE (R247). -/
def State.observe (s : State) (p : Unfenced → Bool) : State :=
  let w := s.cw.uid
  s.updTeam s.cw.team fun t =>
    { t with unfenced := t.unfenced.map fun (u : Unfenced) => if p u && !u.elig.contains w then { u with elig := w :: u.elig } else u }

/-- Scratchpad bytes written by a wave, or by a chunk of a copy. -/
def State.writeScratch (s : State) (team off src : Nat) (chunk : Option Nat) (bytes : List Byte) : State :=
  let n := bytes.length
  let cured := fun (u : ErrUnit) => match u with
    | .scratchWord t o => t == team && off ≤ o && o + 8 ≤ off + n
    | _ => false
  let write := fun (t : Team) => { t.note src chunk off n with scratch := Memory.writeBytes t.scratch off bytes }
  ((s.updTeam team write).dirtyPanel team off n).cure cured

/-- Single scratchpad bytes that a wave writes together, each by its offset: a word of which every byte is among them loses its poison (R398). -/
def State.writeScratchCells (s : State) (team src : Nat) (cells : List (Nat × Byte)) : State :=
  let cured := fun (u : ErrUnit) => match u with
    | .scratchWord t o => t == team && (List.range 8).all fun i => cells.any fun c => c.1 == o + i
    | _ => false
  (cells.foldl (fun (s : State) c => s.writeScratch team c.1 src none [c.2]) s).cure cured

/-- Bytes stored at a checked location by a wave: to memory, through the write-combining buffer to a peer, or to a
scratchpad. -/
def State.storeBytes (s : State) (w : Wave) (l : Loc) (bytes : List Byte) : State :=
  match l with
  | .phys p _ =>
    let who := s.whoOf w
    if isPeer who.dev p then s.wcbStore who w p bytes else (s.writePhys p bytes).hbm who p bytes.length
  | .scratch t off => s.writeScratch t off w.uid none bytes
  | .fifo _ => s

/-- The 128-byte lines of a region buffer (R351). -/
def regionLines (buf : List Host.Cell) : List Nat := (buf.map fun c => c.1 / 128).eraseDups

/-- Bytes placed in the region buffer at a generic address; a zero byte is kept, so the buffer is no canonical memory. -/
def bufferBytes (buf : List Host.Cell) (a : Nat) (bytes : List Byte) : List Host.Cell :=
  bytes.zipIdx.foldl (fun buf b => (a + b.2, b.1) :: buf.filter fun c => c.1 != a + b.2) buf

/-- A store of the executing wave: buffered inside an open region (R351), else performed. -/
def storeAt (a : Nat) (l : Loc) (bytes : List Byte) : Op Unit := do
  let s ← get
  match s.cw.region with
  | some r =>
    let buf := bufferBytes r.buf a bytes
    if 64 < (regionLines buf).length then trap REGION_OVERFLOW (.ofNat 64 a)
    else set { s with cw := { s.cw with region := some { r with buf } } }
  | none => set (s.storeBytes s.cw l bytes)

/-- One address checked, or the trap or wait that the check gives. -/
def locate (acc : Acc) (a n : Nat) : Op Loc := do
  let s ← get
  let (r, s) := s.locate s.cw acc a n
  set s
  match r with
  | .ok l => pure l
  | .blocked => stall
  | .bad t => throw (.trap t)

/-- The poisoned bytes of a range (R398) among those that a test selects: the store that holds one, by the codes of R392; a scratchpad is
hoop SRAM (R230). -/
def State.poisonAt (s : State) (l : Loc) (n : Nat) (reads : Nat → Bool) : Option Nat :=
  let within (a base : Nat) : Bool := (List.range 8).any fun i => a ≤ base + i && base + i < a + n && reads (base + i - a)
  match l with
  | .phys p _ => (s.poison.findSome? fun u => match u with
      | .memWord b => if within p b then some b else none
      | _ => none).map fun b => ((s.stores.find? (·.1 == b)).map (·.2)).getD 0
  | .scratch t off =>
    if s.poison.any fun u => match u with
      | .scratchWord t' o => t' == t && within off o
      | _ => false
    then some 2 else none
  | .fifo _ => none

/-- The store of the poison that a load of the executing wave meets (R399): among the bytes that memory gives once what the write-combining
buffer holds of the line is there; bytes of the wave's own region are clean (R351). -/
def State.loadPoison (s : State) (a : Nat) (l : Loc) (n : Nat) : Option Nat :=
  if s.poison.isEmpty then none
  else
    let buffered (i : Nat) : Bool := (s.cw.region.map fun r => r.buf.any fun c => c.1 == a + i).getD false
    (s.loadBytes s.cw a l n).2.poisonAt l n fun i => !buffered i

/-- A load of `n` bytes at an address of the context, as a number. -/
def loadAt (a : Nat) (l : Loc) (n : Nat) : Op Nat := do
  let s ← get
  match s.loadPoison a l n with
  | some store => throw (.trap { cause := SOFT_ERROR_UNCORRECTED, addr := .ofNat 64 a, info := .ofNat 64 store })
  | none => pure ()
  let (b, s) := s.loadBytes s.cw a l n
  set s
  pure (ofLeBytes b)

/-- Whether a request of the executing wave to one of these devices, for these lines, completes poisoned: it had no response (R412). While the request is
outstanding the word waits. At handler level the trap is the handler's own (R388). -/
def peersPoisoned (peers lines : List Nat) : Op Bool := do
  let s ← get
  let d := s.cw.dev
  if peers.isEmpty then pure false
  else if s.cw.poisonWait then
    let w := s.cw
    let t : Trap := { cause := FABRIC_POISON, boundary := true, seq := w.seq }
    set { s with cw := { w with poisonWait := false, pending := w.pending ++ [t], seq := w.seq + 1 } }
    pure true
  else
    match peers.find? fun p => !s.reachable d p with
    | none => pure false
    | some p => do
      set (s.rimIssue d p s.cw.core lines s.cw.uid 0 0)
      stall

/-- Whether an access of the executing wave to these locations completes poisoned (R412). -/
def rimPoisoned (ls : List Loc) : Op Bool := do
  let d := (← get).cw.dev
  let lines := (ls.filterMap fun l => match l with
    | .phys p _ => if isPeer d p then some (p / 128 * 128) else none
    | _ => none).eraseDups
  peersPoisoned ((lines.map (· / 2 ^ 43)).eraseDups) lines

/-- The pages that a set of locations counts at (R355). -/
def countLocs (ls : List Loc) : Op Unit := do
  let s ← get
  set (s.countPages (s.whoOf s.cw) (ls.filterMap fun l => match l with
    | .phys _ page => some page
    | _ => none))

/-- How a wait names the pushes or the pops of a FIFO bank: by a bit of a mask, as one word may wait at several banks (R232). -/
def fifoKey (bank : Nat) (push : Bool) : Nat := 2 * bank + push.toNat

/-- The place of a path in the order of the pushes or the pops of a FIFO bank, by key. -/
def Path.fifoOrd (p : Path) (q : Nat) : Option Nat :=
  match p.wait with
  | .fifo keys ord => if bitAt keys q then some ord else none
  | _ => none

/-- The place of a wave's scalar word. -/
def Wave.fifoOrd (w : Wave) (q : Nat) : Option Nat :=
  match w.wait with
  | some r => if r.kind == .fifo && bitAt r.obj q then some r.ord else none
  | none => none

/-- The places of a wave, its scalar word and its paths, in that order. -/
def Wave.fifoOrds (w : Wave) (q : Nat) : List Nat :=
  (w.fifoOrd q).toList ++ (w.eng.paths ++ w.held.paths).filterMap (·.fifoOrd q)

/-- Waiting accesses of a FIFO bank are served in arrival order, pushes for free entries and pops for entries (R232): whether no earlier
one of its kind waits, by key `q`. -/
def State.fifoTurn (s : State) (q : Nat) : Bool :=
  let ords := (s.allWaves.filter fun w => w.dev == s.cw.dev && w.core / 8 == s.cw.core / 8).flatMap (·.fifoOrds q)
  match if s.cp.live then s.cp.fifoOrd q else s.cw.fifoOrd q with
  | some o => ords.all (o ≤ ·)
  | none => ords.isEmpty

/-- Whether a FIFO bank has what an access of the executing wave needs now, and it is its turn (R232). -/
def State.fifoServes (s : State) (push : Bool) (need : Nat × Nat) : Bool :=
  let n := (s.bank s.cw.dev (s.cw.core / 8) need.1).fifo.length
  (if push then n + need.2 ≤ 16384 else need.2 ≤ n) && s.fifoTurn (fifoKey need.1 push)

/-- A word's accesses of FIFO banks, each with its number of entries, wait whole: the word holds a place at every bank (R232). -/
def fifoWait (push : Bool) (needs : List (Nat × Nat)) : Op Unit := do
  let s ← get
  if !needs.all (s.fifoServes push) then
    throw (.wait .fifo (needs.map fun x => 2 ^ fifoKey x.1 push).sum 0 false)

/-- `n` entries popped from a FIFO bank that has them. -/
def fifoTake (q n : Nat) : Op (List Word) := do
  let s ← get
  let b := s.bank s.cw.dev (s.cw.core / 8) q
  set (s.setBank { b with fifo := b.fifo.drop n })
  pure (b.fifo.take n)

/-- Entries pushed to a FIFO bank that has room. -/
def fifoPut (q : Nat) (xs : List Word) : Op Unit := do
  let s ← get
  let b := s.bank s.cw.dev (s.cw.core / 8) q
  set (s.setBank { b with fifo := b.fifo ++ xs })

/-- `n` entries popped from a FIFO bank, whole or not at all (R232). -/
def fifoPop (q n : Nat) : Op (List Word) := do
  fifoWait false [(q, n)]
  fifoTake q n

/-- Entries pushed to a FIFO bank, whole or not at all (R232). -/
def fifoPush (q : Nat) (xs : List Word) : Op Unit := do
  fifoWait true [(q, xs.length)]
  fifoPut q xs

/-! ## The waits of releases (R172, R179, R237) -/

/-- The write-combining entries that hold bytes of the executing wave, drained (R237), with those of its cluster: the order of a release
is cumulative (R243). -/
def drainMine : Op Unit := do
  let s ← get
  let u := s.cw.uid
  set (s.drainWhere fun e => e.leftBy s u)

/-- A wait as FENCE.rel at a scope (0 team, 1 cluster, 2 device, 3 system): it implies LWAIT #0 (R172). -/
def releaseWait (scope : Nat) : Op Unit := do
  laneWait
  if 2 ≤ scope then drainMine

end Sys2Proof.Machine
end

