-- ==== Sys2Proof/Machine/ScalarAlu.lean ====
section
/-!
DEFINITION. The scalar integer, comparison, immediate, bit-field and select words (R161 to R165, with the division corners of
R54). None traps after decoding, except a bit field that passes bit 63.
-/

namespace Sys2Proof.Machine

/-! ## The operations -/

/-- The signed quotient with R54's corners: all ones for a zero divisor, the dividend for the minimum over −1. -/
def sdivW (x y : Word) : Word := if y = 0 then BitVec.allOnes 64 else x.sdiv y

/-- The unsigned quotient; all ones for a zero divisor (R54). -/
def udivW (x y : Word) : Word := if y = 0 then BitVec.allOnes 64 else x / y

/-- The signed remainder; the dividend for a zero divisor (R54). -/
def sremW (x y : Word) : Word := if y = 0 then x else x.srem y

/-- The unsigned remainder; the dividend for a zero divisor (R54). -/
def uremW (x y : Word) : Word := if y = 0 then x else x % y

/-- The amount of a shift: s[b][5:0] (R161). -/
def shAmt (y : Word) : Nat := y.toNat % 64

/-- The number of leading zero bits among the lowest `n` bits. -/
def clzN (x : Nat) : Nat → Nat
  | 0 => 0
  | n + 1 => if bitAt x n then 0 else 1 + clzN x n

/-- The number of trailing zero bits among `n` bits from bit `i`. -/
def ctzN (x : Nat) (i : Nat) : Nat → Nat
  | 0 => 0
  | n + 1 => if bitAt x i then 0 else 1 + ctzN x (i + 1) n

/-- The number of set bits among the lowest `n`. -/
def popN (x : Nat) : Nat → Nat
  | 0 => 0
  | n + 1 => (if bitAt x n then 1 else 0) + popN x n

/-- Bytes in reverse order (R161). -/
def bswapW (x : Word) : Word := .ofNat 64 (ofLeBytes (leBytes x.toNat 8).reverse)

/-- 1 or 0 (R162). -/
def flagW (b : Bool) : Word := if b then 1 else 0

/-- The bit field of R164, `len` bits from bit `p`. -/
def fieldW (x : Word) (p len : Nat) : Nat := bitsOf x.toNat p len

/-- A two-register operation (R161, R162): both sources are read before s[d] is written. -/
def State.alu2 (s : State) (d a b : SReg) (f : Word → Word → Word) : Host.Outcome State Fault Refusal :=
  .next (s.done d (f (s.rs a) (s.rs b)))

/-- A one-register operation. -/
def State.alu1 (s : State) (d a : SReg) (f : Word → Word) : Host.Outcome State Fault Refusal := .next (s.done d (f (s.rs a)))

/-- A bit-field word: ILLEGAL_OP when the field passes bit 63 (R63, R164). `len` holds the length less 1. -/
def State.bitField (s : State) (d : SReg) (p len : BitVec 6) (f : Nat → Nat → Word) : Host.Outcome State Fault Refusal :=
  if 64 < p.toNat + len.toNat + 1 then .next (s.takeTrap { cause := ILLEGAL_OP })
  else .next (s.done d (f p.toNat (len.toNat + 1)))

/-! ## The words -/

/-- SADD (R161): s[a] + s[b]. -/
def execSadd (d a b : SReg) (s : State) : Host.Outcome State Fault Refusal :=
  s.alu2 d a b fun x y => x + y

/-- SSUB (R161): s[a] − s[b]. -/
def execSsub (d a b : SReg) (s : State) : Host.Outcome State Fault Refusal :=
  s.alu2 d a b fun x y => x - y

/-- SMUL (R161): the low 64 bits of the product. -/
def execSmul (d a b : SReg) (s : State) : Host.Outcome State Fault Refusal :=
  s.alu2 d a b fun x y => x * y

/-- SMULH (R161): bits [127:64] of the signed product. -/
def execSmulh (d a b : SReg) (s : State) : Host.Outcome State Fault Refusal :=
  s.alu2 d a b fun x y => .ofInt 64 (x.toInt * y.toInt / 2 ^ 64)

/-- SMULHU (R161): bits [127:64] of the unsigned product. -/
def execSmulhu (d a b : SReg) (s : State) : Host.Outcome State Fault Refusal :=
  s.alu2 d a b fun x y => .ofNat 64 (x.toNat * y.toNat / 2 ^ 64)

/-- SDIV (R161): the signed quotient. -/
def execSdiv (d a b : SReg) (s : State) : Host.Outcome State Fault Refusal :=
  s.alu2 d a b fun x y => sdivW x y

/-- SDIVU (R161): the unsigned quotient. -/
def execSdivu (d a b : SReg) (s : State) : Host.Outcome State Fault Refusal :=
  s.alu2 d a b fun x y => udivW x y

/-- SREM (R161): the signed remainder. -/
def execSrem (d a b : SReg) (s : State) : Host.Outcome State Fault Refusal :=
  s.alu2 d a b fun x y => sremW x y

/-- SREMU (R161): the unsigned remainder. -/
def execSremu (d a b : SReg) (s : State) : Host.Outcome State Fault Refusal :=
  s.alu2 d a b fun x y => uremW x y

/-- SAND (R161): AND. -/
def execSand (d a b : SReg) (s : State) : Host.Outcome State Fault Refusal :=
  s.alu2 d a b fun x y => x &&& y

/-- SOR (R161): OR. -/
def execSor (d a b : SReg) (s : State) : Host.Outcome State Fault Refusal :=
  s.alu2 d a b fun x y => x ||| y

/-- SXOR (R161): XOR. -/
def execSxor (d a b : SReg) (s : State) : Host.Outcome State Fault Refusal :=
  s.alu2 d a b fun x y => x ^^^ y

/-- SANDN (R161): s[a] AND NOT s[b]. -/
def execSandn (d a b : SReg) (s : State) : Host.Outcome State Fault Refusal :=
  s.alu2 d a b fun x y => x &&& ~~~y

/-- SORN (R161): s[a] OR NOT s[b]. -/
def execSorn (d a b : SReg) (s : State) : Host.Outcome State Fault Refusal :=
  s.alu2 d a b fun x y => x ||| ~~~y

/-- SSHL (R161): shift left. -/
def execSshl (d a b : SReg) (s : State) : Host.Outcome State Fault Refusal :=
  s.alu2 d a b fun x y => x <<< shAmt y

/-- SSHR (R161): shift right, zeros in. -/
def execSshr (d a b : SReg) (s : State) : Host.Outcome State Fault Refusal :=
  s.alu2 d a b fun x y => x >>> shAmt y

/-- SSRA (R161): shift right, copies of bit 63 in. -/
def execSsra (d a b : SReg) (s : State) : Host.Outcome State Fault Refusal :=
  s.alu2 d a b fun x y => x.sshiftRight (shAmt y)

/-- SROL (R161): rotate left. -/
def execSrol (d a b : SReg) (s : State) : Host.Outcome State Fault Refusal :=
  s.alu2 d a b fun x y => x.rotateLeft (shAmt y)

/-- SROR (R161): rotate right. -/
def execSror (d a b : SReg) (s : State) : Host.Outcome State Fault Refusal :=
  s.alu2 d a b fun x y => x.rotateRight (shAmt y)

/-- SMIN (R161): the lesser as signed. -/
def execSmin (d a b : SReg) (s : State) : Host.Outcome State Fault Refusal :=
  s.alu2 d a b fun x y => if x.toInt ≤ y.toInt then x else y

/-- SMAX (R161): the greater as signed. -/
def execSmax (d a b : SReg) (s : State) : Host.Outcome State Fault Refusal :=
  s.alu2 d a b fun x y => if x.toInt ≤ y.toInt then y else x

/-- SMINU (R161): the lesser as unsigned. -/
def execSminu (d a b : SReg) (s : State) : Host.Outcome State Fault Refusal :=
  s.alu2 d a b fun x y => if x.toNat ≤ y.toNat then x else y

/-- SMAXU (R161): the greater as unsigned. -/
def execSmaxu (d a b : SReg) (s : State) : Host.Outcome State Fault Refusal :=
  s.alu2 d a b fun x y => if x.toNat ≤ y.toNat then y else x

/-- SADDW (R161): SExt of the low 32 bits of the sum. -/
def execSaddw (d a b : SReg) (s : State) : Host.Outcome State Fault Refusal :=
  s.alu2 d a b fun x y => sext64 ((x + y).setWidth 32)

/-- SSUBW (R161): SExt of the low 32 bits of the difference. -/
def execSsubw (d a b : SReg) (s : State) : Host.Outcome State Fault Refusal :=
  s.alu2 d a b fun x y => sext64 ((x - y).setWidth 32)

/-- SCLZ (R161): leading zero bits. -/
def execSclz (d a : SReg) (s : State) : Host.Outcome State Fault Refusal :=
  s.alu1 d a fun x => .ofNat 64 (clzN x.toNat 64)

/-- SCTZ (R161): trailing zero bits. -/
def execSctz (d a : SReg) (s : State) : Host.Outcome State Fault Refusal :=
  s.alu1 d a fun x => .ofNat 64 (ctzN x.toNat 0 64)

/-- SPOPC (R161): set bits. -/
def execSpopc (d a : SReg) (s : State) : Host.Outcome State Fault Refusal :=
  s.alu1 d a fun x => .ofNat 64 (popN x.toNat 64)

/-- SBREV (R161): bit order reversed. -/
def execSbrev (d a : SReg) (s : State) : Host.Outcome State Fault Refusal :=
  s.alu1 d a fun x => x.reverse

/-- SBSWAP (R161): byte order reversed. -/
def execSbswap (d a : SReg) (s : State) : Host.Outcome State Fault Refusal :=
  s.alu1 d a fun x => bswapW x

/-- SCEQ (R162): =. -/
def execSceq (d a b : SReg) (s : State) : Host.Outcome State Fault Refusal :=
  s.alu2 d a b fun x y => flagW (x == y)

/-- SCNE (R162): ≠. -/
def execScne (d a b : SReg) (s : State) : Host.Outcome State Fault Refusal :=
  s.alu2 d a b fun x y => flagW (x != y)

/-- SCLT (R162): signed <. -/
def execSclt (d a b : SReg) (s : State) : Host.Outcome State Fault Refusal :=
  s.alu2 d a b fun x y => flagW (x.toInt < y.toInt)

/-- SCLTU (R162): unsigned <. -/
def execScltu (d a b : SReg) (s : State) : Host.Outcome State Fault Refusal :=
  s.alu2 d a b fun x y => flagW (x.toNat < y.toNat)

/-- SCLE (R162): signed ≤. -/
def execScle (d a b : SReg) (s : State) : Host.Outcome State Fault Refusal :=
  s.alu2 d a b fun x y => flagW (x.toInt ≤ y.toInt)

/-- SCLEU (R162): unsigned ≤. -/
def execScleu (d a b : SReg) (s : State) : Host.Outcome State Fault Refusal :=
  s.alu2 d a b fun x y => flagW (x.toNat ≤ y.toNat)

/-- SADDI (R163): s[a] + SExt(imm14). -/
def execSaddi (d a : SReg) (imm : BitVec 14) (s : State) : Host.Outcome State Fault Refusal :=
  s.alu1 d a fun x => x + sext64 imm

/-- SANDI (R163): s[a] AND ZExt(imm14). -/
def execSandi (d a : SReg) (imm : BitVec 14) (s : State) : Host.Outcome State Fault Refusal :=
  s.alu1 d a fun x => x &&& zext64 imm

/-- SORI (R163): s[a] OR ZExt(imm14). -/
def execSori (d a : SReg) (imm : BitVec 14) (s : State) : Host.Outcome State Fault Refusal :=
  s.alu1 d a fun x => x ||| zext64 imm

/-- SXORI (R163): s[a] XOR ZExt(imm14). -/
def execSxori (d a : SReg) (imm : BitVec 14) (s : State) : Host.Outcome State Fault Refusal :=
  s.alu1 d a fun x => x ^^^ zext64 imm

/-- SSHLI (R163): shift left by imm14[5:0]. -/
def execSshli (d a : SReg) (imm : BitVec 6) (s : State) : Host.Outcome State Fault Refusal :=
  s.alu1 d a fun x => x <<< imm.toNat

/-- SSHRI (R163): shift right. -/
def execSshri (d a : SReg) (imm : BitVec 6) (s : State) : Host.Outcome State Fault Refusal :=
  s.alu1 d a fun x => x >>> imm.toNat

/-- SSRAI (R163): arithmetic shift right. -/
def execSsrai (d a : SReg) (imm : BitVec 6) (s : State) : Host.Outcome State Fault Refusal :=
  s.alu1 d a fun x => x.sshiftRight imm.toNat

/-- SROLI (R163): rotate left. -/
def execSroli (d a : SReg) (imm : BitVec 6) (s : State) : Host.Outcome State Fault Refusal :=
  s.alu1 d a fun x => x.rotateLeft imm.toNat

/-- SCLTI (R163): 1 when s[a] < SExt(imm14), signed. -/
def execSclti (d a : SReg) (imm : BitVec 14) (s : State) : Host.Outcome State Fault Refusal :=
  s.alu1 d a fun x => flagW (x.toInt < (sext64 imm).toInt)

/-- SLUI (R163): SExt(imm20 × 4,096). -/
def execSlui (d : SReg) (imm : BitVec 20) (s : State) : Host.Outcome State Fault Refusal :=
  .next (s.done d (sext64 imm * 4096))

/-- SADRP (R163): the page of the SADRP word plus SExt(imm20) × 4,096. -/
def execSadrp (d : SReg) (imm : BitVec 20) (s : State) : Host.Outcome State Fault Refusal :=
  .next (s.done d ((s.cw.pc &&& ~~~(0xFFF : Word)) + sext64 imm * 4096))

/-- SBFX (R164): the field, zero-extended. -/
def execSbfx (d a : SReg) (p len : BitVec 6) (s : State) : Host.Outcome State Fault Refusal :=
  s.bitField d p len fun p n => .ofNat 64 (fieldW (s.rs a) p n)

/-- SBFXS (R164): the field, sign-extended. -/
def execSbfxs (d a : SReg) (p len : BitVec 6) (s : State) : Host.Outcome State Fault Refusal :=
  s.bitField d p len fun p n => sext64 (BitVec.ofNat n (fieldW (s.rs a) p n))

/-- SBFI (R164): the low bits of s[a] in place of a field of s[d]. -/
def execSbfi (d a : SReg) (p len : BitVec 6) (s : State) : Host.Outcome State Fault Refusal :=
  s.bitField d p len fun p n =>
    let m : Word := .ofNat 64 ((2 ^ n - 1) * 2 ^ p)
    (s.rs d &&& ~~~m) ||| ((s.rs a <<< p) &&& m)

/-- SSEL (R165): s[a] when s[c] ≠ 0, else s[b]. -/
def execSsel (d a b c : SReg) (s : State) : Host.Outcome State Fault Refusal :=
  .next (s.done d (if s.rs c ≠ 0 then s.rs a else s.rs b))

end Sys2Proof.Machine
end

