-- ==== Sys2Proof/Machine/ScalarFlow.lean ====
section
/-!
DEFINITION. Control transfer (R166, R167), the lane-queue words (R174 to R177), SNOP, BKPT and TRAP (R181), the mask words
(R173), and the return from a handler (R393).
-/

namespace Sys2Proof.Machine

/-! ## Branches and jumps -/

/-- Whether an address lies in the scalar code section of the executing wave's kernel (R64). -/
def State.inCode (s : State) (t : Word) : Bool :=
  match s.kernelOf s.cw with
  | some k => k.sbase ≤ t.toNat && t.toNat < k.sbase + 4 * k.swords
  | none => false

/-- A transfer to a target: MISALIGN, then PROTECTION, with the target in HADDR; a trapping transfer changes nothing (R64,
R166, R167). -/
def State.transfer (s : State) (t : Word) (link : State → State) : Host.Outcome State Fault Refusal :=
  if t.toNat % 4 ≠ 0 then .next (s.takeTrap { cause := MISALIGN, addr := t })
  else if s.inCode t then .next (link (s.jump t))
  else .next (s.takeTrap { cause := PROTECTION, addr := t })

/-- A conditional branch (R166). -/
def State.branch (s : State) (taken : Bool) (off : BitVec 16) : Host.Outcome State Fault Refusal :=
  if taken then s.transfer (s.cw.pc + sext64 off * 4) id else .next s.retire

/-- A branch on a mask register: it first waits as LWAIT #0 (R166, R173). -/
def State.branchK (s : State) (a : KReg) (off : BitVec 16) (test : BitVec 32 → BitVec 32 → Bool) :
    Host.Outcome State Fault Refusal :=
  if s.blocksAtMost 0 then s.branch (test (s.cw.rk a &&& s.cw.live) s.cw.live) off else .next (s.suspend .plain 0 0 false)

/-- BEQZ (R166). -/
def execBeqz (a : SReg) (off : BitVec 16) (s : State) : Host.Outcome State Fault Refusal := s.branch (s.rs a == 0) off

/-- BNEZ (R166). -/
def execBnez (a : SReg) (off : BitVec 16) (s : State) : Host.Outcome State Fault Refusal := s.branch (s.rs a != 0) off

/-- BLTZ (R166). -/
def execBltz (a : SReg) (off : BitVec 16) (s : State) : Host.Outcome State Fault Refusal := s.branch ((s.rs a).toInt < 0) off

/-- BGEZ (R166). -/
def execBgez (a : SReg) (off : BitVec 16) (s : State) : Host.Outcome State Fault Refusal := s.branch (0 ≤ (s.rs a).toInt) off

/-- BGTZ (R166). -/
def execBgtz (a : SReg) (off : BitVec 16) (s : State) : Host.Outcome State Fault Refusal := s.branch (0 < (s.rs a).toInt) off

/-- BLEZ (R166). -/
def execBlez (a : SReg) (off : BitVec 16) (s : State) : Host.Outcome State Fault Refusal := s.branch ((s.rs a).toInt ≤ 0) off

/-- BKANY (R166). -/
def execBkany (a : KReg) (off : BitVec 16) (s : State) : Host.Outcome State Fault Refusal := s.branchK a off fun m _ => m != 0

/-- BKNONE (R166). -/
def execBknone (a : KReg) (off : BitVec 16) (s : State) : Host.Outcome State Fault Refusal := s.branchK a off fun m _ => m == 0

/-- BKALL (R166). -/
def execBkall (a : KReg) (off : BitVec 16) (s : State) : Host.Outcome State Fault Refusal := s.branchK a off fun m l => m == l

/-- JMP (R167). -/
def execJmp (imm : BitVec 26) (s : State) : Host.Outcome State Fault Refusal := s.transfer (s.cw.pc + sext64 imm * 4) id

/-- CALL (R167): the link goes into s62. -/
def execCall (imm : BitVec 26) (s : State) : Host.Outcome State Fault Refusal :=
  s.transfer (s.cw.pc + sext64 imm * 4) fun t => t.ws 62 (s.cw.pc + 4)

/-- JR (R167). -/
def execJr (a : SReg) (s : State) : Host.Outcome State Fault Refusal := s.transfer (s.rs a) id

/-- JALR (R167): s[a] is read before the link is written. -/
def execJalr (d a : SReg) (s : State) : Host.Outcome State Fault Refusal :=
  s.transfer (s.rs a) fun t => t.ws d (s.cw.pc + 4)

/-- SNOP (R181). -/
def execSnop (s : State) : Host.Outcome State Fault Refusal := .next s.retire

/-- BKPT (R181). -/
def execBkpt (s : State) : Host.Outcome State Fault Refusal := .next (s.takeTrap { cause := CAUSE_BKPT })

/-- TRAP (R181): HINFO[5:0] holds n. -/
def execTrap (n : BitVec 6) (s : State) : Host.Outcome State Fault Refusal :=
  .next (s.takeTrap { cause := USER_TRAP, info := zext64 n })

/-- SPOOL (R88): executing one in a code line traps POOL_EXEC; the fetch that led here is described by HPC and HADDR. -/
def execSpool (_len : BitVec 26) (s : State) : Host.Outcome State Fault Refusal :=
  .next (s.takeTrapAt { cause := POOL_EXEC, addr := s.cw.pc } s.cw.prev)

/-- A reserved major, fn, sub, cond or selector (R66). -/
def execReservedScalarOpcode (_w : BitVec 32) (s : State) : Host.Outcome State Fault Refusal :=
  .next (s.takeTrap { cause := ILLEGAL_OP })

/-! ## The lane queue -/

/-- The head of the queue begins, with one path in slot A over the live lanes (R135, R174); with no live lane it ends at once
(R212). -/
def Wave.startBlock (w : Wave) : Wave :=
  match w.eng.running, w.eng.queue with
  | false, b :: _ =>
    let p : Path :=
      { live := true, id := 0, parent := 0, join := 0, lpc := b.start, mask := w.live, place := .slotA, ended := w.live == 0,
        wait := .none, fixed := [], var := [], spill := 0, born := 0, issued := 0 }
    { w with eng := { w.eng with running := true, paths := [p], nextId := 1, last := .slotB } }
  | _, _ => w

/-- The entries of the wave's lane queue: 8, or 2 for a handler's (R174, R180). -/
def Wave.queueLimit (w : Wave) : Nat := if w.level = .handler then 2 else 8

/-- LRUN (R174): PROTECTION beyond the lane section; a wait for a free entry; the snapshot of s48 to s63. -/
def execLrun (imm : BitVec 26) (s : State) : Host.Outcome State Fault Refusal :=
  let len := ((s.kernelOf s.cw).map (·.lwords)).getD 0
  if len ≤ imm.toNat then .next (s.takeTrap { cause := PROTECTION })
  else if s.cw.eng.queue.length < s.cw.queueLimit then
    let b : Block := { start := imm.toNat, uniform := (List.range 16).map fun i => s.cw.rs (.ofNat 6 (48 + i)),
                       chk := s.cw.chk, gang := s.cw.gang }
    let w := { s.cw with eng := { s.cw.eng with queue := s.cw.eng.queue ++ [b] } }
    .next { s with cw := w.startBlock }.retire
  else .next (s.suspend .plain 0 0 false)

/-- LWAIT (R176): a count from 8 to 63 traps ILLEGAL_OP. -/
def execLwait (n : BitVec 6) (s : State) : Host.Outcome State Fault Refusal :=
  if 7 < n.toNat then .next (s.takeTrap { cause := ILLEGAL_OP })
  else if s.blocksAtMost n.toNat then .next s.retire
  else .next (s.suspend .plain 0 0 false)

/-- The lane word at an index of a kernel, as it stands in memory, for a look ahead. -/
def State.peekLane (s : State) (k : Kernel) (i : Nat) : Option Instr :=
  let part (a : Nat) : Option Nat :=
    match (s.translate (s.whoOf s.cw) .fetch a false).1 with
    | .at p _ => some (Memory.readLE s.mem p 4)
    | _ => none
  let a := k.lbase + 12 * i
  match part a, part (a + 4), part (a + 8) with
  | some x, some y, some z => (decodeLane (x + y * 2 ^ 32 + z * 2 ^ 64)).toOption
  | _, _, _ => none

/-- The operations of a lane word that write no register and leave their path at the next word. -/
def quietOps : List Nat := [LaneCode.vst, .astore, .vpref, .lnop, .mfence, .mwait, .vpass, .ljoin, .lkill].map LaneCode.op9

/-- Where a path may go from word `i` when the word writes no register. -/
def quietFlow (i : Int) : Instr → Option (List Int)
  | .lend _ => some []
  | .vst _ | .astore _ | .vpref _ | .lnop _ | .mfence _ | .mwait _ | .vpass _ | .ljoin _ | .lkill _ => some [i + 1]
  | .ljmp o => some [i + o.imm.toInt]
  | .lbr o => some [i + 1, i + o.imm.toInt]
  | .laneWordPair _ x y =>
    if !quietOps.contains x.op9.toNat then none
    else if y.op9.toNat = LaneCode.lend.op9 then some []
    else if quietOps.contains y.op9.toNat then some [i + 1] else none
  | _ => none

/-- Where a path may go from a word of a kernel that writes no register. -/
def State.quietNext (s : State) (k : Kernel) (i : Int) : Option (List Int) :=
  if i < 0 || (k.lwords : Int) ≤ i then none else (s.peekLane k i.toNat).bind (quietFlow i)

/-- Whether no word that can be reached from the words `todo` writes a register; `seen` have been looked at (R177, R178). -/
def State.noResults (s : State) (k : Kernel) : Nat → List Int → List Int → Bool
  | _, [], _ => true
  | 0, _, _ => false
  | fuel + 1, i :: todo, seen =>
    if seen.contains i then s.noResults k fuel todo seen
    else
      match s.quietNext k i with
      | some next => s.noResults k fuel (next ++ todo) (i :: seen)
      | none => false

/-- Whether no register result is due from a word of a kernel on. -/
def State.onlyStores (s : State) (k : Kernel) (i : Nat) : Bool := s.noResults k (2 * k.lwords + 2) [(i : Int)] []

/-- Every block enqueued so far has written all its register results (R177): the paths of the running one have ended or no result is due
from where they stand, nothing of theirs is pending, and the blocks behind it have none to write. Their stores may be still to come (R178,
item 4). -/
def State.resultsWritten (s : State) : Bool :=
  let quiet (i : Nat) : Bool := ((s.kernelOf s.cw).map fun k => s.onlyStores k i).getD false
  s.cw.eng.queue.isEmpty ||
    ((s.allPaths.all fun p => p.var.isEmpty && (p.ended || quiet p.lpc)) && (s.cw.eng.queue.drop 1).all fun b => quiet b.start)

/-- SQRD (R177). -/
def execSqrd (d : SReg) (a : QReg) (s : State) : Host.Outcome State Fault Refusal :=
  if s.resultsWritten then .next (s.done d (s.cw.rq a)) else .next (s.suspend .plain 0 0 false)

/-! ## Mask registers -/

/-- A word that first waits as LWAIT #0 (R173, R179). -/
def State.afterLanes (s : State) (f : State) : Host.Outcome State Fault Refusal :=
  if s.blocksAtMost 0 then .next f else .next (s.suspend .plain 0 0 false)

/-- A mask word that writes k[d] (R173). -/
def State.doneK (s : State) (d : KReg) (x : BitVec 32) : State :=
  ({ s with cw := s.cw.wk d x }.cure fun (u : ErrUnit) => u == ErrUnit.kReg s.cw.uid d).retire

/-- KAND (R173). -/
def execKand (d a b : KReg) (s : State) : Host.Outcome State Fault Refusal := s.afterLanes (s.doneK d (s.cw.rk a &&& s.cw.rk b))

/-- KOR (R173). -/
def execKor (d a b : KReg) (s : State) : Host.Outcome State Fault Refusal := s.afterLanes (s.doneK d (s.cw.rk a ||| s.cw.rk b))

/-- KXOR (R173). -/
def execKxor (d a b : KReg) (s : State) : Host.Outcome State Fault Refusal := s.afterLanes (s.doneK d (s.cw.rk a ^^^ s.cw.rk b))

/-- KANDN (R173). -/
def execKandn (d a b : KReg) (s : State) : Host.Outcome State Fault Refusal :=
  s.afterLanes (s.doneK d (s.cw.rk a &&& ~~~(s.cw.rk b)))

/-- KNOT (R173). -/
def execKnot (d a : KReg) (s : State) : Host.Outcome State Fault Refusal := s.afterLanes (s.doneK d (~~~(s.cw.rk a)))

/-- KFROMS (R173). -/
def execKfroms (d : KReg) (a : SReg) (s : State) : Host.Outcome State Fault Refusal :=
  s.afterLanes (s.doneK d ((s.rs a).setWidth 32))

/-- KTOS (R173). -/
def execKtos (d : SReg) (a : KReg) (s : State) : Host.Outcome State Fault Refusal := s.afterLanes (s.done d (zext64 (s.cw.rk a)))

/-- KPOP (R173). -/
def execKpop (d : SReg) (a : KReg) (s : State) : Host.Outcome State Fault Refusal :=
  s.afterLanes (s.done d (.ofNat 64 (popN (s.cw.rk a).toNat 32)))

/-- KFIRST (R173). -/
def execKfirst (d : SReg) (a : KReg) (s : State) : Host.Outcome State Fault Refusal :=
  s.afterLanes (s.done d (.ofNat 64 (ctzN (s.cw.rk a).toNat 0 32)))

/-- KACT (R173). -/
def execKact (d : KReg) (s : State) : Host.Outcome State Fault Refusal := s.afterLanes (s.doneK d s.cw.live)

/-! ## Return from the handler -/

/-- HCAUSE fields (R390). -/
def Wave.causeCode (w : Wave) : Nat := bitsOf w.hcause.toNat 0 8
def Wave.causeLane (w : Wave) : Bool := bitAt w.hcause.toNat 8
def Wave.causeXfer (w : Wave) : Bool := bitAt w.hcause.toNat 10
def Wave.causeRedir (w : Wave) : Bool := bitAt w.hcause.toNat 11

/-- Whether the 32-byte line of an address is a data line of the kernel (R87). -/
def Kernel.dataLine (k : Kernel) (a : Nat) : Bool :=
  k.pools.any fun p => k.sbase + 4 * p.1 ≤ a / 32 * 32 && a / 32 * 32 < k.sbase + 4 * (p.1 + p.2)

/-- The first word of the first code line after the run of data lines that holds an address (R391). -/
def Kernel.afterPools (k : Kernel) (a : Nat) : Nat → Nat
  | 0 => a
  | fuel + 1 => if k.dataLine a then k.afterPools (a / 32 * 32 + 32) fuel else a

end Sys2Proof.Machine
end

