-- ==== Sys2Proof/Machine/System.lean ====
section
/-!
DEFINITION. The system registers (R106 to R108), the performance counters (R109), TIME (R110) and HALT (R111).
-/

namespace Sys2Proof.Machine

/-- The assigned system register numbers (R106). -/
def sysAssigned (n : Nat) : Bool :=
  n ≤ 0x005 || (0x008 ≤ n && n ≤ 0x00A) || n == 0x00C || n == 0x010 || (0x020 ≤ n && n ≤ 0x025) || n == 0x030 || n == 0x031

/-- The registers whose read and write wait as LWAIT #0 (R108, R179). -/
def sysWaits (n : Nat) : Bool := n == 0x005 || n == 0x008 || n == 0x009 || n == 0x00A || n == 0x00C

/-- CTXID (R97). -/
def Ctx.ctxid (c : Ctx) : Word :=
  .ofNat 64 ((if c.svc then 2 ^ 48 else 0) + c.part * 2 ^ 40 + c.func * 2 ^ 32 + c.num)

/-- The value of an assigned system register (R106, R107). -/
def State.sysRead (s : State) (n : Nat) : Word :=
  let w := s.cw
  match n with
  | 0x000 => .ofNat 64 (w.index * 2 ^ 32 + w.handle.toNat)
  | 0x001 => zext64 w.teamIndex
  | 0x002 => .ofNat 64 (w.tpos * 2 ^ 32 + w.clusterIndex.toNat)
  | 0x003 => w.gridpos
  | 0x004 => .ofNat 64 w.core
  | 0x005 => zext64 w.live
  | 0x008 => w.fstat
  | 0x009 => w.fmode
  | 0x00A => w.dphase
  | 0x00C => w.chk
  | 0x010 => w.gang
  | 0x020 => w.hcause
  | 0x021 => w.hpc
  | 0x022 => w.hlpc
  | 0x023 => w.haddr
  | 0x024 => w.hlanes
  | 0x025 => w.hinfo
  | 0x030 => ((s.ctx? w.ctx).map (·.ctxid)).getD 0
  | _ => .ofNat 64 (w.prio.toNat * 8 + w.prio.toNat)

/-- The RW bits of a system register; 0 where every field is RO (R44 to R46, R85, R390). -/
def sysRwMask (n : Nat) : Word :=
  match n with
  | 0x008 => 0x1F
  | 0x009 => 0x1F1F
  | 0x00A => 0x3F
  | 0x00C => 0x1
  | 0x021 => BitVec.allOnes 64
  | _ => 0

/-- A value that SYSWR refuses: a non-zero reserved bit (R108), or 6 or 7 in FMODE.RND (R47). -/
def sysBadValue (n : Nat) (x : Word) : Bool :=
  x &&& ~~~(sysRwMask n) != 0 || (n == 0x009 && 6 ≤ bitsOf x.toNat 0 3)

/-- HPC written by the handler: REDIR is set (R390). -/
def Wave.writeHpc (w : Wave) (x : Word) : Wave := { w with hpc := x, hcause := w.hcause ||| 0x800 }

/-- A writable system register written (R108, R390). -/
def Wave.sysWrite (w : Wave) (n : Nat) (x : Word) : Wave :=
  match n with
  | 0x008 => { w with fstat := x }
  | 0x009 => { w with fmode := x }
  | 0x00A => { w with dphase := x }
  | 0x00C => { w with chk := x }
  | 0x021 => w.writeHpc x
  | _ => w

/-- The checks that SYSRD and SYSWR share, in the order of R108: the number, the level, the wait. -/
def State.sysCheck (s : State) (n : Nat) (f : Host.Outcome State Fault Refusal) : Host.Outcome State Fault Refusal :=
  if !sysAssigned n then .next (s.takeTrap { cause := ILLEGAL_OP })
  else if 0x020 ≤ n && n ≤ 0x025 && s.cw.level != .handler then .next (s.takeTrap { cause := PRIV })
  else if sysWaits n && !s.blocksAtMost 0 then .next (s.suspend .plain 0 0 false)
  else f

/-- SYSRD (R108). -/
def execSysrd (d : SReg) (n : BitVec 12) (s : State) : Host.Outcome State Fault Refusal :=
  s.sysCheck n.toNat (.next (s.done d (s.sysRead n.toNat)))

/-- The SYSWR of one register (R108). -/
def State.sysWriteTo (s : State) (d : SReg) (n : Nat) : Host.Outcome State Fault Refusal :=
  s.sysCheck n <|
    if sysRwMask n = 0 then .next (s.takeTrap { cause := ILLEGAL_OP })
    else if sysBadValue n (s.rs d) then .next (s.takeTrap { cause := ILLEGAL_OP })
    else .next { s with cw := s.cw.sysWrite n (s.rs d) }.retire

/-- SYSWR (R108). -/
def execSyswr (d : SReg) (n : BitVec 12) (s : State) : Host.Outcome State Fault Refusal := s.sysWriteTo d n.toNat

/-- HPC_WRITE (R390): the SYSWR of HPC. -/
def execHpcWrite (d : SReg) (s : State) : Host.Outcome State Fault Refusal := s.sysWriteTo d 0x021

/-! ## Counters -/

/-- A count of a context's live waves (R109). -/
def State.liveSum (s : State) (ctx : Nat) (f : Wave → Nat) : Word :=
  .ofNat 64 (((s.allWaves.filter fun w => w.ctx == ctx).map f).sum)

/-- A counter summed over the contexts of a partition (R109). -/
def State.partSum (s : State) (c : Ctx) (f : Counters → Word) : Word :=
  ((s.ctxs.filter fun x => x.dev == c.dev && x.part == c.part).map fun x => f x.counters).foldl (· + ·) 0

/-- The performance counters (R109); `none` for an unassigned number. -/
def State.perf (s : State) (c : Ctx) (n : Nat) : Option Word :=
  match n with
  | 0x000 => some c.counters.cycles
  | 0x001 => some (c.counters.swords + s.liveSum c.uid (·.swords))
  | 0x002 => some (c.counters.lwords + s.liveSum c.uid (·.lwords))
  | 0x003 => some (c.counters.mjops + s.liveSum c.uid (·.mjops))
  | 0x004 => some c.counters.xbytes
  | 0x005 => some (c.counters.traps + s.liveSum c.uid (·.traps))
  | 0x006 => some c.counters.evicts
  | 0x007 => some c.counters.throttle
  | 0x008 => some c.counters.replays
  | 0x800 => some (s.partSum c (·.cycles))
  | 0x801 => some (s.partSum c (·.throttle))
  | 0x802 => some (((s.part? c.dev c.part).map (·.hbmBytes)).getD 0)
  | 0x803 => some (((s.part? c.dev c.part).map (·.lentBytes)).getD 0)
  | _ => none

/-- PERFRD (R109): an unassigned number traps ILLEGAL_OP, a partition counter without service privilege PRIV. -/
def execPerfrd (d : SReg) (n : BitVec 12) (s : State) : Host.Outcome State Fault Refusal :=
  let c := (s.ctx? s.cw.ctx).getD default
  match s.perf c n.toNat with
  | none => .next (s.takeTrap { cause := ILLEGAL_OP })
  | some x => if 0x800 ≤ n.toNat && !c.svc then .next (s.takeTrap { cause := PRIV }) else .next (s.done d x)

/-- TIME (R110). -/
def execTime (d : SReg) (s : State) : Host.Outcome State Fault Refusal := .next (s.done d (.ofNat 64 (s.time s.cw.dev)))

/-! ## Park -/

/-- A context parks (R113, R114): its waves are saved, the write-combining entries of its waves drain. -/
def State.parkCtx (s : State) (u : Nat) (byDevice : Bool) : State :=
  let mine := (s.allWaves.filter fun w => w.ctx == u).map (·.uid)
  let held := ((s.ctx? u).map (·.st)).getD .runnable
  let s := s.evictCtx u
  let s := s.drainWhere fun e => e.bytes.any fun b => mine.contains b.wave
  s.updCtx u fun c => { c with before := held, st := .parked, deviceParked := byDevice }

/-- HALT (R111): PRIV without service privilege; else the context parks and a halt record is posted. The wave goes on at the
next word on resume. -/
def execHalt (s : State) : Host.Outcome State Fault Refusal :=
  let c := (s.ctx? s.cw.ctx).getD default
  if !c.svc then .next (s.takeTrap { cause := PRIV })
  else
    let s' := s.post c.dev c.func [.ofNat 64 (0x33 + c.num * 2 ^ 20), zext64 s.cw.handle, s.cw.pc, 0, 0, 0, 0, 0]
    .next (s'.retire.parkPath.parkCtx c.uid false)

end Sys2Proof.Machine
end

