-- ==== Sys2Proof/Machine/Objects.lean ====
section
/-!
DEFINITION. What the object engine does to ports, grants, copies, censuses and tile entries, shared by the calls, by the events
and by the end of a context (R115): releasing granted pages (R298, R345), closing ports (R298, R315), names (R311), the end of
copies (R261), the completion of a census (R382), and termination.
-/

namespace Sys2Proof.Machine

/-! ## Pages that grants moved -/

/-- Bytes zeroed in place. -/
def State.zeroBytes (s : State) (phys n : Nat) : State :=
  { s with mem := s.mem.filter fun c => !(phys ≤ c.1 && c.1 < phys + n), poison := clearPoison s.poison phys n }

/-- A granted page scrubbed: frame by frame when it is 64 KiB or more, in place when it is 4 KiB (R345). A frame that has left partition
`part` meanwhile is no longer part of the grant and keeps what it holds (R14, R342). -/
def State.scrubPage (s : State) (dev part a size : Nat) : State :=
  let owned (f : Nat) : Bool := s.frameCode dev f == .ofNat 8 part
  if 65536 ≤ size then
    (((List.range (size / 65536)).map (a / 65536 + ·)).filter owned).foldl (fun (s : State) f => s.setFrames dev f 1 0xFE) s
  else if owned (a / 65536) then s.zeroBytes (physOf dev a) size
  else s

/-- A granted page given up by its holder in partition `part`: a lent page is released to its owning device, any other is scrubbed (R298,
R345). -/
def State.dropGrant (s : State) (part : Nat) (g : Grant) : State :=
  if s.lent.any fun l => l.dev == g.dev && l.addr == g.addr then
    { s with lent := s.lent.map fun l => if l.dev == g.dev && l.addr == g.addr then { l with released := true } else l }
  else s.scrubPage g.dev part g.addr g.size

/-! ## Domains -/

/-- Whether two partitions lie in one fabric domain (R311); a partition in no domain shares names with itself alone. -/
def State.sameDomain (s : State) (d p d' p' : Nat) : Bool :=
  (d == d' && p == p') || (s.domainOf d p != 0 && s.domainOf d p == s.domainOf d' p')

/-- Whether the domain of a context is being rearranged, so that name calls wait (R311). -/
def State.domainMoving (s : State) (c : Ctx) : Bool :=
  s.parts.any fun p => p.nextDomain.isSome &&
    (s.sameDomain p.dev p.num c.dev c.part || p.nextDomain == some (s.domainOf c.dev c.part))

/-- The port bound to a name in the domain of a context (R311). -/
def State.boundPort (s : State) (c : Ctx) (name : Word) : Option Port :=
  s.ports.find? fun (p : Port) =>
    p.st == .bound && (p.name.map (·.1)) == some name &&
      match s.ctx? p.ctx with
      | some x => s.sameDomain x.dev x.part c.dev c.part
      | none => false

/-! ## Ports -/

/-- A port takes no message at all: it is closed (R298), its context terminates (R115) or its function drains (R426). -/
def State.gone (s : State) (p : Port) : Bool :=
  p.st == .closed ||
    match s.ctx? p.ctx with
    | some c => c.st == .terminating || c.st == .dead || ((s.func? c.dev c.func).map (·.draining)).getD true
    | none => true

/-- A port takes no new send: it drains too, when it still takes the replies whose slots are reserved (R298). -/
def State.shut (s : State) (p : Port) : Bool := p.st == .draining || s.gone p

/-- A port closed: its object is freed, its handle becomes stale, its sources leave every wait set, its quota returns (R298,
R103, R316). The pages of its window stay mapped until they are unmapped (R307). -/
def State.freePort (s : State) (u : Nat) : State :=
  match s.port? u with
  | none => s
  | some p =>
    if p.st == .closed then s
    else
      let s := s.updPort u fun p => { p with st := .closed, queue := [], resv := 0, allow := 0, name := none, vector := none }
      let s := s.updCtx p.ctx fun c => { c with quotaUsed := c.quotaUsed - 128 * p.depth }
      (s.dropSource kPORT u).freeHandle kPORT u

/-- A draining port closes when QUEUED and RESV reach 0 (R298). -/
def State.drainPort (s : State) (u : Nat) : State :=
  match s.port? u with
  | some p => if p.st == .draining && p.queue.isEmpty && p.resv == 0 then s.freePort u else s
  | none => s

/-- A reply reservation that completes without a reply: a completion in the reply port (R315). -/
def State.noReply (s : State) (r : Nat) (word0 : Word) : State :=
  match s.port? r with
  | none => s
  | some p =>
    if p.st == .closed then s
    else
      (s.updPort r fun p => { p with resv := p.resv - 1 }).enqueue r
        { Msg.own [word0, 0, 0, 0, 0, 0, 0, 0] with completion := true }

/-- The partition of a port's context. -/
def State.portPart (s : State) (p : Port) : Nat := ((s.ctx? p.ctx).map (·.part)).getD 0

/-- A message of a partition's port discarded: its pages are given up and its reservation completes without a reply (R298). -/
def State.discardMsg (s : State) (part : Nat) (m : Msg) : State :=
  let s := m.grants.foldl (fun (s : State) g => s.dropGrant part g) s
  match m.reply with
  | some r => s.noReply r (m.words.getD 0 0)
  | none => s

/-- A port closed at once, its queued messages discarded (R298). -/
def State.closeNow (s : State) (u : Nat) : State :=
  match s.port? u with
  | none => s
  | some p => p.queue.foldl (fun (s : State) m => s.discardMsg (s.portPart p) m) (s.freePort u)

/-- A message taken off the head of a port: an allowance goes back to the handle it came through, and to the port's free slots
once that handle is closed and its last message is received (R307, R313). -/
def State.dequeue (s : State) (u : Nat) (m : Msg) : State :=
  let s := s.updPort u fun p => { p with queue := p.queue.drop 1 }
  let s := match m.via.bind s.remote? with
    | none => s
    | some r =>
      let s := s.updPort u fun p => { p with allow := p.allow + 1 }
      let r' := { r with sends := r.sends + 1, inFlight := r.inFlight - 1 }
      if r.closed && r'.inFlight == 0 then
        { s.updPort u fun p => { p with allow := p.allow - r'.sends } with remotes := s.remotes.filter (·.uid != r.uid) }
      else s.updRemote r.uid fun _ => r'
  s.drainPort u

/-- A remote handle or reply handle given up: its unused allowance returns to the port's free slots, and what is in flight with the
last of its messages; a reservation completes without a reply (R313, R315, R323). -/
def State.closeRemote (s : State) (r : Remote) : State :=
  match r.reply with
  | some word0 => ({ s with remotes := s.remotes.filter (·.uid != r.uid) }.noReply r.port word0).drainPort r.port
  | none =>
    let s := s.updPort r.port fun p => { p with allow := p.allow - r.sends }
    if r.inFlight = 0 then { s with remotes := s.remotes.filter (·.uid != r.uid) }
    else s.updRemote r.uid fun r => { r with sends := 0, closed := true }

/-! ## Copies -/

/-- Whether a copy has ended (R261). -/
def CopyState.ended : CopyState → Bool
  | .done | .cancelled | .failed => true
  | _ => false

/-- Whether a batch of a wave is complete (R266). -/
def State.batchDone (s : State) (wave n : Nat) : Bool :=
  s.copies.all fun (c : Copy) => c.wave != wave || n < c.batch || c.st.ended

/-- The writes of a wave's copies of batches up to `n` are observed (R246, R247). -/
def State.observeBatch (s : State) (wave n : Nat) : State :=
  s.observe fun u => s.copies.any fun (c : Copy) => c.uid == u.src && c.wave == wave && c.batch ≤ n

/-! ## Censuses -/

/-- Who accesses for a context's objects: the object engine, which is core 512 of the device. -/
def State.engineOf (s : State) (ctx : Nat) : Who :=
  s.whoAt (((s.ctx? ctx).map (·.dev)).getD 0) 512 ctx

/-- The status of a census: OK, ABORT, or FAULT when its result could not be written (R382, R365). -/
def Census.status (c : Census) : Nat := if c.writeFault then 14 else if c.abort then 13 else 0

/-- The two words of a census result (R382). -/
def Census.resultWords (c : Census) (combined : Word) : Word × Word :=
  (if c.abort || c.replies = 0 then 0 else combined, .ofNat 64 ((if c.abort then 13 * 2 ^ 32 else 0) + c.replies))

/-- Whether the store of a result to a peer is made: the peer answers (R412), and its frame check passes (R414). -/
def State.resultLands (s : State) (w : Who) (phys : Nat) : Bool :=
  !isPeer w.dev phys || (s.reachable w.dev (phys / 2 ^ 43) && s.frameOk w.dev w.part phys false)

/-- A word of a result stored by the object engine (R382). -/
def State.storeResult (s : State) (w : Who) (phys : Nat) (x : Word) : State := (s.writePhys phys (leBytes x.toNat 8)).hbm w phys 8

/-- One of the two relaxed stores of a result performed ahead of the other (R382): `second` names word 1. Where it cannot be, nothing
happens yet. -/
def State.writeHalf (s : State) (c : Census) (combined : Word) (second : Bool) : State :=
  let ws := c.resultWords combined
  let w := s.engineOf c.ctx
  match s.translate w .store c.result.toNat false with
  | (.at p _, t) =>
    if s.resultLands w p then
      (t.storeResult w (p + if second then 8 else 0) (if second then ws.2 else ws.1)).updCensus c.uid fun c =>
        { c with part := some (second, combined) }
    else s
  | _ => s

/-- A census completes or aborts, and its result is written, or the word of it that is not (R382); `none` while the page of RESULT is
write-blocked (R357). A result that the tables or a peer refuse is a write fault. Its id leaves every list (R377). Without the asker's
handle it is freed, and only a CWAIT already waiting still reads it (R384). -/
def State.completeCensus (s : State) (c : Census) (combined : Word) : Option State :=
  let ws := c.resultWords ((c.part.map (·.2)).getD combined)
  let w := s.engineOf c.ctx
  let (x, s) := s.translate w .store c.result.toNat false
  let finish (s : State) (fault : Bool) : State :=
    let s := s.updCensus c.uid fun c => { c with st := if c.abort then .aborted else .complete, values := [], writeFault := fault }
    let s := { s with tiles := s.tiles.map fun (t : TileEnt) => { t with list := t.list.filter (· != c.uid) } }
    if c.owner then s else s.dropSource kCENSUS c.uid
  match x with
  | .blocked => none
  | .fault _ => some (finish s true)
  | .at p _ =>
    if !s.resultLands w p then some (finish s true)
    else
      let s := if c.part.any (!·.1) then s else s.storeResult w p ws.1
      let s := if c.part.any (·.1) then s else s.storeResult w (p + 8) ws.2
      some (finish s false)

/-! ## The end of a context (R115) -/

/-- Addresses of the entries of a table that are not zero. -/
def tableEntries (m : List Host.Cell) (base n : Nat) : List Nat :=
  ((m.filter fun c => base ≤ c.1 && c.1 < base + 8 * n).map fun c => c.1 / 8 * 8).eraseDups

/-- The stage-1 leaves of a context (R334). -/
def stage1Leaves (s : State) (w : Who) : Nat → Nat → List Leaf
  | 0, table => visit s w 0 table fun _ => []
  | level + 1, table => visit s w (level + 1) table fun next => stage1Leaves s w level next
where
  visit (s : State) (w : Who) (level table : Nat) (down : Nat → List Leaf) : List Leaf :=
    match walk2 s w.dev table 3 w.root2 with
    | .error _ => []
    | .ok t =>
      (tableEntries s.mem (t.phys w.dev) (if level = 4 then 256 else 512)).flatMap fun loc =>
        let e := Memory.readLE s.mem loc 8
        if !bitAt e 0 || badEntry e level true then []
        else if bitAt e 1 then [leafOf e level loc 0]
        else down (bitsOf e 12 39 * 4096)

/-- The frames of the stage-1 tables of a context, from a table at a level down (R334). -/
def stage1Tables (s : State) (w : Who) : Nat → Nat → List Nat
  | 0, table => here s w table
  | level + 1, table => here s w table ++ (below s w (level + 1) table).flatMap fun next => stage1Tables s w level next
where
  here (s : State) (w : Who) (table : Nat) : List Nat :=
    match walk2 s w.dev table 3 w.root2 with
    | .ok t => if t.tgt = 0 then [t.addr / 65536] else []
    | .error _ => []
  below (s : State) (w : Who) (level table : Nat) : List Nat :=
    match walk2 s w.dev table 3 w.root2 with
    | .error _ => []
    | .ok t =>
      (tableEntries s.mem (t.phys w.dev) (if level = 4 then 256 else 512)).filterMap fun loc =>
        let e := Memory.readLE s.mem loc 8
        if !bitAt e 0 || badEntry e level true || bitAt e 1 then none else some (bitsOf e 12 39 * 4096)

/-- The frames of a context's stage-1 tables. -/
def State.tableFrames (s : State) (u : Nat) : List Nat :=
  let w := s.engineOf u
  (stage1Tables s w 4 w.root1).eraseDups

/-- The local pages of 4 KiB that a context maps, but for those it granted away (R115), each by its local address. -/
def State.pagesOf (s : State) (u : Nat) : List Nat :=
  let w := s.engineOf u
  ((stage1Leaves s w 4 w.root1).filter fun l => !l.g).flatMap fun l =>
    (List.range (l.size / 4096)).filterMap fun i =>
      match walk2 s w.dev (l.addr + 4096 * i) 3 w.root2 with
      | .ok t => if t.tgt = 0 && !t.g then some t.addr else none
      | .error _ => none

/-- The local frames of those pages. -/
def State.framesOf (s : State) (u : Nat) : List Nat := ((s.pagesOf u).map (· / 65536)).eraseDups

/-- The local pages of a device that grants have moved: those that are lent, those in receive windows and those in queued messages
(R305, R345, R346). -/
def State.movedPages (s : State) (dev : Nat) : List (Nat × Nat) :=
  let held := s.ports.flatMap fun p => ((p.window.filter fun e => !e.granted).map (·.grant)) ++ p.queue.flatMap (·.grants)
  ((held.filter fun g => g.dev == dev).map fun g => (g.addr, g.size)) ++
    (s.lent.filter fun l => l.dev == dev).map fun l => (l.addr, l.size)

/-- A frame of a partition given up with the pages that a context or a kernel had in it: the frame enters scrubbing, but for one that holds
a page moved by a grant, which stays with its receiver; there the other pages are zeroed in place (R115, R345, log entry 20). A frame that
the partition no longer owns stays as it is (R342). -/
def State.retireFrame (s : State) (dev part f : Nat) (pages : List Nat) : State :=
  let moved := s.movedPages dev
  let meets (a n : Nat) : Bool := moved.any fun m => a < m.1 + m.2 && m.1 < a + n
  if s.frameCode dev f != .ofNat 8 part then s
  else if !meets (f * 65536) 65536 then s.setFrames dev f 1 0xFE
  else ((pages.filter fun a => a / 65536 == f && !meets a 4096).eraseDups).foldl
    (fun (s : State) a => s.zeroBytes (physOf dev a) 4096) s

/-- The pages of a frame. -/
def framePages (f : Nat) : List Nat := (List.range 16).map fun i => f * 65536 + 4096 * i

/-- Frames of a context given up at its end: those it maps or whose kernels hold, that its partition owns and no other context of the
device maps (log entry 20). -/
def State.scrubFrames (s : State) (c : Ctx) : State :=
  let others := ((s.ctxs.filter fun x => x.dev == c.dev && x.uid != c.uid && x.st != .dead).flatMap fun x => s.framesOf x.uid)
  let pages := s.pagesOf c.uid ++ (c.kernels.flatMap (·.frames)).flatMap framePages
  let mine := (pages.map (· / 65536)).eraseDups.filter fun f => !others.contains f
  mine.foldl (fun (s : State) f => s.retireFrame c.dev c.part f pages) s

/-! ## Completion messages (R120, R124) -/

def recKernel (r : List Word) : Nat := bitsOf (r.getD 0 0).toNat 0 8
def recEntry (r : List Word) : Nat := bitsOf (r.getD 0 0).toNat 16 8
def recCompl (r : List Word) : Nat := (r.getD 3 0).toNat % 2 ^ 32

/-- The completion message of a launch. -/
def Launch.message (l : Launch) : List Word :=
  [l.record.getD 4 0, .ofNat 64 (l.status * 2 ^ 32 + recEntry l.record * 256 + recKernel l.record), .ofNat 64 l.started,
   .ofNat 64 l.done, .ofNat 64 l.teams, .ofNat 64 l.killed, 0, 0]

/-- The port that a COMPL handle names when the message is sent (R124). -/
def State.complPort (s : State) (l : Launch) : Option Port :=
  match s.resolve l.ctx (.ofNat 32 (recCompl l.record)) [kPORT] with
  | some (_, u) => (s.port? u).filter fun p => !p.launch && (p.st == .opened || p.st == .bound)
  | none => none

/-- The message of a complete launch sent, dropped, or waiting while the port is full (R124). -/
def State.sendCompletion (s : State) (l : Launch) : State :=
  let sent := s.updLaunch l.uid fun l => { l with sent := true }
  if recCompl l.record = 0 then sent
  else
    match s.complPort l with
    | none => sent
    | some p => if p.freeSlots = 0 then s else sent.enqueue p.uid (.own l.message)

/-- A launch of a context that terminates ends ABORTED, and its message is sent while the ports still stand (R115, R124). -/
def State.abortLaunch (s : State) (l : Launch) : State :=
  let now := s.time l.dev
  let l := { l with complete := true, status := 4, done := now }
  (s.updLaunch l.uid fun _ => l).sendCompletion l

/-- Queued responders of a context's tile entries go with the entries, and each ends its census (R115, R380). -/
def State.dropResponders (s : State) (ctx : Nat) : State :=
  let mine := s.responders.filter fun (m : Match) => !m.ended && !m.spawned && ((s.tile? m.tile).map (·.ctx)) == some ctx
  let s := mine.foldl (fun (s : State) m => s.abortCensus m.census) s
  { s with responders := s.responders.map fun (m : Match) => if mine.contains m then { m with ended := true } else m }

/-- Whether started copies of a context still run (R115, step 3). -/
def State.copiesRun (s : State) (u : Nat) : Bool := s.copies.any fun (c : Copy) => c.ctx == u && c.st == CopyState.started

/-- Once the last context of a function that is torn down has ended, the 100 µs of step 4 begin (R426). -/
def State.stampDrain (s : State) (dev func : Nat) : State :=
  if s.ctxs.any fun (c : Ctx) => c.dev == dev && c.func == func && c.st != .dead then s
  else s.updFunc dev func fun f => if f.draining then { f with drainFrom := s.time dev } else f

/-- Steps 4 to 7 of termination (R115). Its windows give their pages up before the frames that it maps enter scrubbing, so that none of its
own counts as moved. -/
def State.reclaim (s : State) (c : Ctx) : State :=
  let u := c.uid
  let s := (s.censuses.filter fun x => x.ctx == u && x.st == .collecting).foldl (fun (s : State) x =>
    let x := { x with abort := true }
    let s := s.updCensus x.uid fun y => { y with abort := true }
    (s.completeCensus x 0).getD (s.updCensus x.uid fun y => { y with st := .aborted, values := [], writeFault := true })) s
  let s := s.dropResponders u
  let s := { s with tiles := s.tiles.filter fun (t : TileEnt) => t.ctx != u }
  let s := (s.remotes.filter fun (r : Remote) => r.ctx == u && !r.closed).foldl (fun (s : State) r => s.closeRemote r) s
  let mine := s.ports.filter fun (p : Port) => p.ctx == u
  let s := mine.foldl (fun (s : State) p => s.closeNow p.uid) s
  let s := { s with
    launches := s.launches.map fun (l : Launch) => if l.ctx == u then { l with complete := true, sent := true } else l,
    timers := s.timers.filter fun (t : Timer) => t.ctx != u,
    watches := s.watches.filter fun (w : Watch) => w.ctx != u,
    waitSets := s.waitSets.filter fun (w : WaitSet) => w.ctx != u,
    tensors := s.tensors.filter fun (t : Tensor) => t.ctx != u,
    handles := s.handles.filter fun (h : HandleEntry) => h.ctx != u,
    holds := s.holds.filter fun (h : Hold) => h.ctx != u,
    clusters := s.clusters.filter fun (k : Cluster) => k.ctx != u }
  let s := s.dropTlb fun e => e.ctx == u
  let pages := (s.ports.filter fun (p : Port) => p.ctx == u).flatMap fun p => p.window.filter fun e => !e.granted
  let s := pages.foldl (fun (s : State) e => s.dropGrant c.part e.grant) s
  let s := { s with ports := s.ports.filter fun (p : Port) => p.ctx != u }
  ((s.scrubFrames c).updCtx u fun c => { c with st := .dead, kernels := [], meshes := [] }).stampDrain c.dev c.func

/-- Termination goes on once no started copy runs (R115). -/
def State.reclaimIfReady (s : State) (u : Nat) : State :=
  match s.ctx? u with
  | some c => if c.st == .terminating && !s.copiesRun u then s.reclaim c else s
  | none => s

/-- Termination begins (R115, R237): write-combining entries of its waves drain, sends are refused, every wave ends with no
handler run and its launches ABORTED, copies that have not started are cancelled and transfers that wait on a peer fail. -/
def State.terminate (s : State) (u : Nat) : State :=
  match s.ctx? u with
  | none => s
  | some c =>
    if c.st == .terminating || c.st == .dead then s
    else
      let mine := (s.allWaves.filter fun w => w.ctx == u).map (·.uid)
      let s := s.drainWhere fun e => e.bytes.any fun b => mine.contains b.wave
      let s := s.updCtx u fun c => { c with st := .terminating }
      let runs := s.launches.filter fun (l : Launch) => l.ctx == u && !l.complete
      let s := mine.foldl (fun (s : State) w => s.endWave w 1) s
      let s := runs.foldl (fun (s : State) l => ((s.launch? l.uid).map s.abortLaunch).getD s) s
      let s := { s with copies := s.copies.map fun (x : Copy) =>
        if x.ctx == u && x.st == CopyState.started && x.peerWait.isSome then { x with st := .failed } else x }
      s.reclaimIfReady u

end Sys2Proof.Machine
end

