-- ==== Sys2Proof/Machine/ScalarMem.lean ====
section
/-!
DEFINITION. The scalar memory words (R168 to R172).
-/

namespace Sys2Proof.Machine

/-- The address of a scalar memory word: s[a] + SExt(off11) × w, modulo 2^64 (R169). -/
def State.smAddr (s : State) (a : SReg) (off : BitVec 11) (w : Nat) : Word := s.rs a + sext64 off * .ofNat 64 w

/-- The bytes of a size code (R71). -/
def smBytes (size : BitVec 3) : Nat := 2 ^ (size.toNat % 4)

/-- The alignment check of an access (R169). -/
def aligned (a : Word) (w : Nat) : Op Unit := do
  if a.toNat % w ≠ 0 then trap MISALIGN a

/-- SLD (R169). -/
def execSld (d a : SReg) (size : BitVec 3) (off : BitVec 11) (s : State) : Host.Outcome State Fault Refusal :=
  (runOp · s) do
    if size = 7 then trap ILLEGAL_OP
    let w := smBytes size
    let addr := (← get).smAddr a off w
    aligned addr w
    let l ← locate .load addr.toNat w
    let x ← match l with
      | .fifo q => do
        let xs ← fifoPop q 1
        pure ((xs.getD 0 0).toNat)
      | l => do
        if ← rimPoisoned [l] then pure ((Config.undef64 (← draw) 0).toNat % 2 ^ (8 * w)) else loadAt addr.toNat l w
    countLocs [l]
    let v : Word := if 4 ≤ size.toNat then sext64 (BitVec.ofNat (8 * w) x) else .ofNat 64 x
    modify (·.ws d v)

/-- SST (R169): d names the source. -/
def execSst (d a : SReg) (size : BitVec 3) (off : BitVec 11) (s : State) : Host.Outcome State Fault Refusal :=
  (runOp · s) do
    if 4 ≤ size.toNat then trap ILLEGAL_OP
    let w := smBytes size
    let addr := (← get).smAddr a off w
    aligned addr w
    let l ← locate .store addr.toNat w
    let x ← rd d
    match l with
    | .fifo q => fifoPush q [x]
    | l => do
      storeAt addr.toNat l (leBytes x.toNat w)
      countLocs [l]

/-- SPREF (R170): a hint; it changes no visible state. -/
def execSpref (_a : SReg) (size : BitVec 3) (_off : BitVec 11) (s : State) : Host.Outcome State Fault Refusal :=
  if size = 7 then .next (s.takeTrap { cause := ILLEGAL_OP }) else .next s.retire

/-- SLIT (R89, R168): PROTECTION beyond the section, or when either line that holds the bytes is a code line. -/
def execSlit (d : SReg) (imm : BitVec 20) (s : State) : Host.Outcome State Fault Refusal :=
  (runOp · s) do
    let k ← myKernel
    let a := k.sbase + 8 * imm.toNat
    if 4 * k.swords < 8 * imm.toNat + 8 then trap PROTECTION (.ofNat 64 a)
    if !k.dataLine a || !k.dataLine (a + 7) then trap PROTECTION (.ofNat 64 a)
    let l ← locate .load a 8
    let x ← loadAt a l 8
    countLocs [l]
    modify (·.ws d (.ofNat 64 x))

/-- The new value of an integer read-modify-write of `n` bits (R171, R253): operation code, old value, operand and expected
value. A compare-and-swap that fails writes nothing; MIN and MAX are signed unless `uns`. -/
def atomNew (op n : Nat) (uns : Bool) (old x e : Nat) : Option Nat :=
  let sg (y : Nat) : Int := if uns then (y : Int) else (BitVec.ofNat n y).toInt
  match op with
  | 0 => some ((old + x) % 2 ^ n)
  | 1 => some (old &&& x)
  | 2 => some (old ||| x)
  | 3 => some (old ^^^ x)
  | 4 => some (if sg old ≤ sg x then old else x)
  | 5 => some (if sg old ≤ sg x then x else old)
  | 6 => some x
  | _ => if old = e then some x else none

/-- One read-modify-write of `n` bytes at a checked location: the old value. It executes at the home agent, past the
write-combining buffer (R234). -/
def rmwAt (a : Nat) (l : Loc) (n : Nat) (new : Nat → Option Nat) : Op Nat := do
  let old ← loadAt a l n
  match new old with
  | none => pure ()
  | some x =>
    match l with
    | .phys p _ => modify (·.writePhys p (leBytes x n))
    | .scratch t off => modify fun s => s.writeScratch t off s.cw.uid none (leBytes x n)
    | .fifo _ => pure ()
  pure old

/-- SATOM (R171). -/
def execSatom (d a b : SReg) (op : BitVec 3) (wide : Bool) (ord scope : BitVec 2) (s : State) :
    Host.Outcome State Fault Refusal :=
  (runOp · s) do
    let w := if wide then 8 else 4
    noRegion
    let addr ← rd a
    aligned addr w
    if 2 ≤ ord.toNat then releaseWait scope.toNat
    let l ← locate .rmw addr.toNat w
    let x := (← rd b).toNat % 2 ^ (8 * w)
    let e ← if op = 7 then rd d else pure 0
    let e := e.toNat % 2 ^ (8 * w)
    let old ← if ← rimPoisoned [l] then pure ((Config.undef64 (← draw) 0).toNat % 2 ^ (8 * w))
      else rmwAt addr.toNat l w fun old => atomNew op.toNat (8 * w) false old x e
    countLocs [l]
    modify (·.ws d (sext64 (BitVec.ofNat (8 * w) old)))

/-- The wait of FENCE .xfer: every copy and transfer that the wave issued has ended (R172). -/
def copiesEnded : Op Unit := do
  let s ← get
  if s.copies.any fun (c : Copy) => c.wave == s.cw.uid && (c.st == .queued || c.st == .started || c.st == .stopped) then stall

/-- The wait of WEXIT and REPLY, as FENCE.full.sys.xfer's (R153, R380). A trap that is due is taken first, and the word executes again;
at handler level the trap of a stopped copy cannot be taken, and such a copy, which runs no more before the wave ends, is not waited
for (log entry 57). -/
def exitWait (due : Wave → Bool) : Op Unit := do
  releaseWait 3
  let s ← get
  let w := s.cw
  if s.copies.any fun (c : Copy) => c.wave == w.uid && (c.st == .queued || c.st == .started ||
      (c.st == .stopped && (w.level == .ordinary || c.restart))) then stall
  if due w then stall

/-- FENCE (R172): it waits as LWAIT #0; a .full or .rel one of device or system scope drains the wave's write-combining
entries; with .xfer it waits for the wave's transfers. One step performs one word's accesses, so the orders it gives hold
already (log entry 6). -/
def execFence (xfer : Bool) (kind scope : BitVec 2) (s : State) : Host.Outcome State Fault Refusal :=
  (runOp · s) do
    if kind = 3 then trap ILLEGAL_OP
    if kind ≠ 1 then noRegion
    laneWait
    if kind ≠ 1 && 2 ≤ scope.toNat then drainMine
    if kind ≠ 1 && xfer then copiesEnded

end Sys2Proof.Machine
end

