-- ==== Sys2Proof/Machine/Paths.lean ====
section
/-!
DEFINITION. Paths and fragments: how a path divides (R136), where a fragment stands (R137, R141), how paths fuse (R138) and end
(R139). A path that has reached LEND stays listed as `ended` until its results are written; its slot is idle (log entry 12).
-/

namespace Sys2Proof.Machine

/-- The number of lanes of a mask. -/
def lanesIn (m : BitVec 32) : Nat := popN m.toNat 32

/-- Whether a path still runs. -/
def Path.active (p : Path) : Bool := !p.ended

/-- Whether a path holds an entry of its core's split table (R137). -/
def Path.inTable (p : Path) : Bool := p.active && (p.place == .fragment || p.place == .detached || p.place == .reloading)

/-- Whether a path is spilled (R137). -/
def Path.isSpilled (p : Path) : Bool := p.active && p.place == .spilled

/-- The paths of a wave at both levels, the executing one included. -/
def State.pathsOf (s : State) (w : Wave) : List Path :=
  (if w.uid == s.cw.uid && s.cp.live then [s.cp] else []) ++ w.eng.paths ++ w.held.paths

/-- The waves resident on a core. -/
def State.wavesOn (s : State) (dev core : Nat) : List Wave :=
  s.allWaves.filter fun w => w.dev == dev && w.core == core && w.st.onCore

/-- The spilled fragments of a core: each is due an entry that frees before a new fragment is (R137). -/
def State.spilledOn (s : State) (dev core : Nat) : Nat :=
  ((s.wavesOn dev core).map fun w => ((s.pathsOf w).filter (·.isSpilled)).length).sum

/-- The split-table entries of a core in use; there are 64 (R137). -/
def State.splitUsed (s : State) (dev core : Nat) : Nat :=
  ((s.wavesOn dev core).map fun w => ((s.pathsOf w).filter (·.inTable)).length).sum

/-- A path id of 32 bits that no live path of the wave holds, from the counter up (R135). -/
def freePathId (live : List Nat) (n : Nat) : Nat → Nat
  | 0 => n
  | fuel + 1 => if live.contains n then freePathId live ((n + 1) % 2 ^ 32) fuel else n

/-- Whether the other slot of a path in a slot is idle (R136). -/
def State.otherSlot (s : State) : Option Place :=
  let free (p : Place) : Bool := !(s.cw.eng.paths.any fun x => x.active && x.place == p)
  match s.cp.place with
  | .slotA => if free .slotB then some .slotB else none
  | .slotB => if free .slotA then some .slotA else none
  | _ => none

/-- The results that a side of a divided path waits for (R83, R135). -/
def VarPend.limit (m : BitVec 32) (p : VarPend) : Option VarPend :=
  match p.reg with
  | .q _ => some p
  | _ => if p.lanes &&& m = 0 then none else some { p with lanes := p.lanes &&& m }

/-- The record of a spilled fragment, written into the wave's spill area: 64 bytes whose form the manual does not give, so
undefined ones (R137; log entry 2). A handler block's fragments use the second region. Which of the 32 records of its region a fragment
takes is not stated: the model takes the number of the wave's spilled fragments, modulo 32 (DESIGN CHOICE, log entry 12). -/
def State.spillRecord (s : State) (w : Wave) (hand : Bool) (slotBase : Nat) : State :=
  let mine := if w.setAside hand then w.held.paths else w.eng.paths
  let n := (mine.filter (·.isSpilled)).length
  let va := slotBase + (if hand then 2048 else 0) + 64 * (n % 32)
  match s.translate (s.whoOf w) .store va false with
  | (.at p _, s) =>
    let (d, s) := s.draw
    s.writePhys p ((List.range 64).map fun i => Config.undefByte d i)
  | (_, s) => s

/-- The base of the spill area of a wave: its slot of the context's spill region (R450). -/
def State.spillSlot (s : State) (w : Wave) : Nat :=
  match s.ctx? w.ctx with
  | some c => c.spillBase + w.slot * c.slotSize
  | none => 0

/-- A new path put into the idle slot, into the split table, or into the spill area with a handle of kind 0x2; with no entry
left in the slice the LBR does not complete (R136, R137). -/
def placePath (p : Path) (slot : Option Place) : Op Path := do
  match slot with
  | some place => pure { p with place }
  | none =>
    let s ← get
    if s.splitUsed s.cw.dev s.cw.core + s.spilledOn s.cw.dev s.cw.core < 64 then pure { p with place := .fragment }
    else
      if s.sliceFull (← myCtx) then stall
      set (s.spillRecord s.cw (s.cw.level == .handler) (s.spillSlot s.cw))
      let h ← newHandle kFRAG s.cw.uid
      let ord ← fresh
      pure { p with place := .spilled, spill := h.toNat, born := ord }

/-- A divergent LBR of the executing path (R136): `taken` lanes start at `target`, the others at the next word. -/
def diverge (taken : BitVec 32) (target j : Nat) : Op Unit := do
  let s ← get
  let p := s.cp
  let rest := p.mask &&& ~~~taken
  let slot := s.otherSlot
  let takenLeaves := slot.isSome || lanesIn taken ≤ lanesIn rest
  let ids := s.allPaths.map (·.id)
  let id := freePathId ids s.cw.eng.nextId 64
  let out := if takenLeaves then taken else rest
  let stay := if takenLeaves then rest else taken
  let child : Path :=
    { live := true, id, parent := p.id, join := j, lpc := if takenLeaves then target else p.lpc + 1, mask := out,
      place := .detached, ended := false, wait := .none, fixed := [],
      var := (p.var.filter fun x => match x.reg with
        | .q _ => false
        | _ => true).filterMap (·.limit out), spill := 0, born := 0, issued := p.issued }
  let child ← placePath child slot
  let keep := { p with mask := stay, lpc := if takenLeaves then p.lpc + 1 else target, fixed := [],
                       var := p.var.filterMap (·.limit stay) }
  modify fun s =>
    let w := s.cw
    { s with cp := keep, cw := { w with eng := { w.eng with paths := w.eng.paths ++ [child], nextId := (id + 1) % 2 ^ 32 } } }

/-- A path that has ended: its handle, if it was spilled, goes (R103, R139). -/
def State.dropSpill (s : State) (p : Path) : State :=
  if p.place == .spilled || p.place == .reloading then s.freeHandleAt s.cw.ctx (.ofNat 32 p.spill) else s

/-- The paths of the running block written back: the executing one and the others. -/
def State.setPaths (s : State) (ps : List Path) : State :=
  let id := s.cp.id
  let (mine, rest) := if s.cp.live then (ps.find? (·.id == id), ps.filter (·.id != id)) else (none, ps)
  { s with cp := mine.getD .blank, cw := { s.cw with eng := { s.cw.eng with paths := rest } } }

/-- A path that waits at an LJOIN: its join id. -/
def Path.joinAt (p : Path) : Option Nat :=
  match p.wait with
  | .join j _ => if p.active then some j else none
  | _ => none

/-- What a path waiting at an LJOIN does now (R138): fuses into its parent, waits, or passes. -/
inductive JoinMove where
  | fuse (parent : Nat)
  | wait
  | pass
  deriving DecidableEq, Repr, Inhabited

/-- The cases of R138 for a waiting path. -/
def joinMove (ps : List Path) (c : Path) (j : Nat) : JoinMove :=
  match (if c.join == j then ps.find? fun x => x.active && x.id == c.parent && x.id != c.id else none) with
  | some par => if par.joinAt == some j && par.lpc == c.lpc then .fuse par.id else .wait
  | none => if ps.any fun x => x.active && x.parent == c.id && x.join == j && x.id != c.id then .wait else .pass

/-- The first waiting path that can move, with its move. -/
def nextJoin (all : List Path) : List Path → Option (Path × JoinMove)
  | [] => none
  | c :: rest =>
    match c.joinAt with
    | some j =>
      match joinMove all c j with
      | .wait => nextJoin all rest
      | m => some (c, m)
    | none => nextJoin all rest

/-- Fusions and passages at LJOINs until no path can move (R138), in `fuel` moves. -/
def State.settleJoins (s : State) : Nat → State
  | 0 => s
  | fuel + 1 =>
    let ps := s.allPaths
    match nextJoin ps ps with
    | none => s
    | some (c, .fuse par) =>
      let s := s.dropSpill c
      let s := s.setPaths (ps.filterMap fun p =>
        if p.id == par && p.active then some { p with mask := p.mask ||| c.mask, var := p.var ++ c.var }
        else if p.id == c.id && p.active then none else some p)
      s.settleJoins fuel
    | some (c, _) =>
      let s := s.setPaths (ps.map fun p =>
        if p.id == c.id && p.active then { p with lpc := p.lpc + 1, wait := .none, fixed := [] } else p)
      s.settleJoins fuel

/-- Every fusion and passage that is due; a block has at most 32 paths. -/
def State.joins (s : State) : State := s.settleJoins 100

/-- The executing path ends (R139, R210). -/
def State.endPath (s : State) : State :=
  let p := s.cp
  let s := s.dropSpill p
  ({ s with cp := { p with ended := true, wait := .none, fixed := [] } }).joins

end Sys2Proof.Machine
end

