-- ==== Sys2Proof/Machine/Waves.lean ====
section
/-!
DEFINITION. How waves, teams and clusters come to be (R125, R127 to R133, R152, R379, R450): core masks and rectangles, the
resources of a core and of a hoop, run lists, and a wave's entry state.
-/

namespace Sys2Proof.Machine

/-! ## Core masks (R19, R130, R423) -/

/-- The mask of the cores whose numbers are listed. -/
def maskOfCores (cores : List Nat) : Nat := cores.foldl (fun m c => m ||| 2 ^ c) 0

/-- Whether a mask names a core. -/
def maskHas (m c : Nat) : Bool := m / 2 ^ c % 2 == 1

/-- The partition's cores: the eight cores of each hoop it holds (R423). -/
def State.partMask (s : State) (dev part : Nat) : Nat :=
  match s.part? dev part with
  | some p => maskOfCores (p.hoops.flatMap fun h => (List.range 8).map fun c => 8 * h + c)
  | none => 0

/-- The current core mask of a launch (R130, R147, R148): the cores that launches still running took are removed. -/
def State.launchMask (s : State) (l : Launch) : Nat :=
  l.removed.foldl (fun m r => if s.launches.any fun x => x.uid == r.1 && !x.complete then m &&& (m ^^^ r.2) else m) l.mask

/-- The current core mask for work of an owning launch; without one, or once it has completed, the partition's cores (R131). -/
def State.maskFor (s : State) (dev part : Nat) (launch : Option Nat) : Nat :=
  match launch.bind s.launch? with
  | some l => if l.complete then s.partMask dev part else s.launchMask l &&& s.partMask dev part
  | none => s.partMask dev part

/-! ## Rectangles (R127, R128) -/

/-- The core at row i, column j of a rectangle; `none` when it leaves the die (LC0) or the plane of the die pair (LC1). -/
def rectCore (corner : Nat) (lc1 : Bool) (i j : Nat) : Option Nat :=
  let die := corner / 64
  let hoop := corner / 8 % 8 + i
  let col := (if lc1 then 8 * (die % 2) else 0) + corner % 8 + j
  if 8 ≤ hoop || (if lc1 then 16 else 8) ≤ col then none
  else some ((if lc1 then die / 2 * 2 + col / 8 else die) * 64 + 8 * hoop + col % 8)

/-- The cores of a rectangle in the order of TPOS; `none` when it does not lie in the plane. -/
def rectangle (corner rows cols : Nat) (lc1 : Bool) : Option (List Nat) :=
  let cs := (List.range (rows * cols)).map fun p => rectCore corner lc1 (p / cols) (p % cols)
  if cs.all (·.isSome) then some (cs.filterMap id) else none

/-- A shape that R127 allows. -/
def shapeAllowed (rows cols : Nat) : Bool :=
  (rows == 1 && 1 ≤ cols && cols ≤ 8) || (rows == 2 && 1 ≤ cols && cols ≤ 6) || (rows == 3 && cols == 4) ||
    (rows == 4 && cols == 3)

/-! ## Resources (R20, R21, R129) -/

/-- Wave slots of a core that are free. -/
def State.freeSlotsOn (s : State) (dev core : Nat) : Nat := 64 - (s.wavesOn dev core).length

/-- v registers of a core that are free. -/
def State.freeRegsOn (s : State) (dev core : Nat) : Nat := 2048 - ((s.wavesOn dev core).map (·.vregs)).sum

/-- Whether a team stands on a core: it has a wave there. -/
def State.placedTeam (s : State) (t : Team) : Bool :=
  match s.cluster? t.cluster with
  | some c => c.st == .placed
  | none => false

/-- Accumulator tiles of a core that are free. -/
def State.freeTilesOn (s : State) (dev core : Nat) : Nat :=
  96 - ((s.teams.filter fun t => t.dev == dev && t.core == core && s.placedTeam t).map (·.acc)).sum

/-- The banks of a hoop that satisfy a test. -/
def State.banksWhere (s : State) (dev hoop : Nat) (p : Bank → Bool) : List Bank :=
  ((List.range 64).map fun b => s.bank dev hoop b).filter p

/-- A scratchpad bank that no team owns. -/
def Bank.freeScratch (b : Bank) : Bool := b.mode == .scratchpad && b.owner.isNone && b.pending.isNone

/-- A bank that placement may change to scratchpad (R129, R229). -/
def Bank.freeWay (b : Bank) : Bool := b.mode == .cacheWay && b.pending.isNone

/-- Cores held free for a cluster other than this one (R147). -/
def State.heldFor (s : State) (dev : Nat) (cluster : Nat) : List Nat :=
  (s.clusters.filter fun c => c.dev == dev && c.uid != cluster && c.st == .inRunList).flatMap fun c =>
    match c.hold with
    | some corner => (rectangle corner c.rows c.cols c.lc1).getD []
    | none => []

/-- A copy that has not ended. -/
def Copy.inFlight (c : Copy) : Bool := !c.st.ended

/-- Whether a copy counts on a core (R262): the queued copies of an evicted wave leave the count until the wave returns (R273). -/
def State.copyCounts (s : State) (c : Copy) (dev core : Nat) : Bool :=
  c.dev == dev && c.core == core && c.inFlight &&
    (c.st != CopyState.queued || ((s.wave? c.wave).map fun w => w.st.onCore).getD false)

/-- The copies in flight on a core (R262). -/
def State.copiesOn (s : State) (dev core : Nat) : Nat := (s.copies.filter fun (c : Copy) => s.copyCounts c dev core).length

/-- What a team, 0 for one to come, needs of a core and its hoop: slots, v registers for each wave, tiles, banks, split-table entries and
copies in flight. -/
structure Need where
  team : Nat
  waves : Nat
  vregs : Nat
  acc : Nat
  banks : Nat
  split : Nat
  copies : Nat
  deriving DecidableEq, Repr, Inhabited

/-- The need of a team (R126, R129, R141, R262); one that has ended has none. -/
def State.teamNeed (s : State) (team : Nat) : Need :=
  match s.team? team with
  | none => { team, waves := 0, vregs := 0, acc := 0, banks := 0, split := 0, copies := 0 }
  | some t =>
    let mine := s.allWaves.filter fun w => w.team == team && w.st != .exited
    { team, waves := mine.length, vregs := t.vregs, acc := t.acc, banks := t.banks,
      split := (mine.map fun w => ((s.pathsOf w).filter (·.inTable)).length).sum,
      copies := (s.copies.filter fun (c : Copy) => c.team == team && c.inFlight).length }

/-- The needs of a cluster's teams, in the order of TPOS. -/
def State.needOf (s : State) (c : Cluster) : List Need := c.teams.map s.teamNeed

/-- Banks that the teams on a hoop's cores need. -/
def banksOn (h : Nat) (cores : List Nat) (ns : List Need) : Nat :=
  (((cores.zip ns).filter fun x => x.1 / 8 == h).map fun x => x.2.banks).sum

/-- Whether the hoops of a rectangle have banks for its teams: free scratchpad banks, or with `change` cache ways too. -/
def State.banksFit (s : State) (dev : Nat) (cores : List Nat) (ns : List Need) (change : Bool) : Bool :=
  ((cores.map (· / 8)).eraseDups).all fun h =>
    banksOn h cores ns ≤ (s.banksWhere dev h fun b => b.freeScratch || (change && b.freeWay)).length

/-- Whether a started copy of an evicted wave of the core still runs, before its save completes (R113, R147, R273). -/
def State.saving (s : State) (dev core : Nat) : Bool :=
  s.copies.any fun (c : Copy) => c.dev == dev && c.core == core && c.st == CopyState.started &&
    ((s.wave? c.wave).map fun w => w.st == .parked).getD false

/-- Whether a core can take work: its die has joined (R427) and no save of it is in progress. -/
def State.coreUsable (s : State) (dev core : Nat) : Bool :=
  ((s.dev? dev).map fun d => d.dies.contains (core / 64)).getD false && !s.saving dev core

/-- Whether a core has room for a team (R20, R126, R129). The core's own spilled fragments come first for its split-table entries (R137),
and the team's copies that count on the core already are not counted again (R262). -/
def State.coreFits (s : State) (dev core : Nat) (n : Need) : Bool :=
  let others := s.copies.filter fun (c : Copy) => c.team != n.team && s.copyCounts c dev core
  n.waves ≤ s.freeSlotsOn dev core && n.waves * n.vregs ≤ s.freeRegsOn dev core && n.acc ≤ s.freeTilesOn dev core &&
    (n.split == 0 || s.splitUsed dev core + s.spilledOn dev core + n.split ≤ 64) && others.length + n.copies ≤ 128

/-- Whether a rectangle has a cluster's resources free (R129, R130). -/
def State.fits (s : State) (dev cluster mask : Nat) (ns : List Need) (cores : List Nat) : Bool :=
  let held := s.heldFor dev cluster
  cores.all (fun c => maskHas mask c && s.coreUsable dev c && !held.contains c) &&
    (cores.zip ns).all (fun x => s.coreFits dev x.1 x.2) && s.banksFit dev cores ns true

/-- The corners of the rectangles on which a cluster may be placed (R130). -/
def State.cornersFor (s : State) (c : Cluster) (mask : Nat) : List Nat :=
  (List.range 512).filter fun corner =>
    match rectangle corner c.rows c.cols c.lc1 with
    | some cores => s.fits c.dev c.uid mask (s.needOf c) cores
    | none => false

/-! ## Run lists (R132, R133) -/

/-- Waves of a cluster changed. -/
def State.mapCluster (s : State) (c : Cluster) (f : Wave → Wave) : State :=
  s.mapWaves (fun w => c.teams.contains w.team && w.st != .exited) f

/-- The entries of a hoop's run list. -/
def State.runListUsed (s : State) (dev home : Nat) : Nat :=
  (s.clusters.filter fun x => x.dev == dev && x.home == home && x.st == .inRunList).length

/-- Whether no cluster of its hoop and level came to the object table before a cluster (R132). -/
def State.firstInTable (s : State) (c : Cluster) : Bool :=
  s.clusters.all fun x => !(x.uid != c.uid && x.dev == c.dev && x.home == c.home && x.st == .inTable && x.prio == c.prio &&
    x.arrival < c.arrival)

/-- A cluster that waits in the object table goes into its hoop's run list once that has an entry free and none came before it; its
waves become ready (R132, R133). -/
def State.admitted (s : State) (u : Nat) : State :=
  match s.cluster? u with
  | none => s
  | some c =>
    if c.st != .inTable || 2048 ≤ s.runListUsed c.dev c.home || !s.firstInTable c then s
    else
      let s := s.updCluster u fun c => { c with st := .inRunList }
      (s.mapCluster c fun w => { w with st := .ready }).settleCtx c.ctx

/-- A cluster's entry arrives for its hoop's run list, behind those that wait in the object table (R132). -/
def State.enlist (s : State) (u : Nat) : State :=
  let (n, s) := s.fresh
  (s.updCluster u fun c => { c with st := .inTable, arrival := n }).admitted u

/-- The hoops that can hold team TPOS 0 of a cluster of a shape within a mask. -/
def hoopsFor (mask rows cols : Nat) (lc1 : Bool) : List Nat :=
  (((List.range 512).filter fun corner => ((rectangle corner rows cols lc1).map fun cs => cs.all (maskHas mask)).getD false).map
    (· / 8)).eraseDups

/-- The hoop whose run list takes an entry: any hoop that can hold team TPOS 0 (R132). -/
def State.someHoop (s : State) (mask rows cols : Nat) (lc1 : Bool) : Nat × State :=
  let hs := hoopsFor mask rows cols lc1
  let (n, s) := s.draw
  (hs.getD (Config.pick n % hs.length) 0, s)

/-- The mask that a cluster may be placed in. -/
def State.clusterMask (s : State) (c : Cluster) : Nat :=
  s.maskFor c.dev (((s.ctx? c.ctx).map (·.part)).getD 0) c.launch

/-- An entry whose hoop can no longer hold team TPOS 0 goes to another of its owning launch's mask (R131, R147). -/
def State.rehome (s : State) (c : Cluster) : State :=
  if (hoopsFor (s.clusterMask c) c.rows c.cols c.lc1).contains c.home then s
  else
    let (h, s) := s.someHoop (s.clusterMask c) c.rows c.cols c.lc1
    s.updCluster c.uid fun c => { c with home := h }

/-- Whether copies of a cluster's waves still run before its save completes (R273). -/
def State.clusterSaving (s : State) (c : Cluster) : Bool :=
  s.copies.any fun (x : Copy) => c.teams.contains x.team && x.st == CopyState.started

/-- An evicted cluster whose save is complete returns to a run list (R133, R147). -/
def State.reenter (s : State) (c : Cluster) : State :=
  if c.st == .parked && !s.clusterSaving c then (s.rehome c).enlist c.uid else s

/-! ## Teams -/

/-- A new team, its tiles undefined, its scratchpad zero, its barriers idle and its rendezvous slots empty (R221, R230, R280,
R325). -/
def State.newTeam (s : State) (t : Team) : Nat × State :=
  let (u, s) := s.fresh
  let (n, s) := s.draw
  let t := { t with
    uid := u, scratch := [], tiles := .replicate t.acc { undef := some n, cells := [] },
    slots := .replicate 8 { full := false, mask := 0, vals := .replicate 32 0 }, bar := .idle, named := .replicate 16 .idle, unfenced := [] }
  (u, { s with teams := s.teams ++ [t] })

/-- A team with nothing in it. -/
def Team.blank : Team :=
  { uid := 0, dev := 0, core := 0, ctx := 0, kernel := 0, cluster := 0, tpos := 0, acc := 0, banks := 0, vregs := 16, scratch := [],
    tiles := [], slots := [], bar := .idle, named := [], unfenced := [] }

/-! ## The birth of a wave -/

/-- The lowest number not listed, from `n` up. -/
def lowestFree (used : List Nat) (n : Nat) : Nat → Nat
  | 0 => n
  | fuel + 1 => if used.contains n then lowestFree used (n + 1) fuel else n

/-- Whether a context has a spill slot and a slice entry for `n` more waves (R104, R450). -/
def State.roomForWaves (s : State) (c : Ctx) (n : Nat) : Bool :=
  s.handlesUsed c.uid + n ≤ c.slice && c.slotsUsed.length + n ≤ c.slotCount

/-- What distinguishes the waves of a launch (R125), of WSPAWN (R152) and of a census (R379). -/
structure Birth where
  ctx : Nat
  team : Nat
  kernel : Nat
  entry : Nat
  index : Nat
  tpos : Nat
  teamIndex : Nat
  clusterIndex : Nat
  gridpos : Word
  regs : List (Nat × Word)
  prio : BitVec 3
  ceiling : BitVec 3
  launch : Option Nat
  ofLaunch : Bool
  responder : Option Nat
  joinable : Bool
  dev : Nat
  core : Nat
  st : WaveState
  deriving DecidableEq, Repr, Inhabited

/-- A wave created in its entry state, with its handle and the lowest free spill slot (R125, R450). -/
def State.birth (s : State) (b : Birth) : BitVec 32 × Nat × State :=
  let (u, s) := s.fresh
  let (h, s) := s.newHandle b.ctx kWAVE u
  let (n, s) := s.draw
  let c := (s.ctx? b.ctx).getD default
  let k := (c.kernel? b.kernel).getD default
  let slot := lowestFree c.slotsUsed 0 c.slotsUsed.length
  let regs := b.regs ++ [(61, .ofNat 64 (c.spillBase + slot * c.slotSize + k.spill))]
  let pc : Word := .ofNat 64 (k.sbase + 4 * b.entry)
  let w : Wave := { Wave.blank n with
    uid := u, dev := b.dev, core := b.core, ctx := b.ctx, team := b.team, kernel := b.kernel, handle := h, launch := b.launch,
    ofLaunch := b.ofLaunch, responder := b.responder, ceiling := b.ceiling, joinable := b.joinable, index := b.index,
    tpos := b.tpos, teamIndex := .ofNat 32 b.teamIndex, clusterIndex := .ofNat 32 b.clusterIndex, gridpos := b.gridpos,
    s := Vector.ofFn fun i => ((regs.find? fun r => r.1 == i.val && i.val != 0).map (·.2)).getD 0,
    vregs := k.vregs, pc, prev := pc, st := b.st, prio := b.prio, slot }
  (h, u, { s.updCtx b.ctx fun c => { c with slotsUsed := slot :: c.slotsUsed } with waves := s.waves ++ [w] })

/-! ## Effective priority (R142) -/

/-- EFF of work that waits unplaced since a time: BASE and a step for every 10 ms (R142). -/
def State.effSince (s : State) (dev base since : Nat) : Nat := min 7 (base + (s.time dev - since) / 10000000)

/-- EFF of an unplaced cluster. -/
def State.effOf (s : State) (c : Cluster) : Nat := s.effSince c.dev c.prio.toNat c.since

end Sys2Proof.Machine
end

