-- ==== Sys2Proof/Machine/Barrier.lean ====
section
/-!
DEFINITION. The barriers (R325 to R333): BARW, BARC, BARN and BARINIT.
-/

namespace Sys2Proof.Machine

/-- The barrier that an instruction arrives at: 0 the team's, 1 the cluster's, 2 + n named barrier n. A BARC in a cluster of one
team acts as BARW (R331). -/
def State.barId (s : State) (n : Nat) : Nat :=
  if n = 1 then
    match (s.team? s.cw.team).bind fun t => s.cluster? t.cluster with
    | some c => if c.teams.length = 1 then 0 else 1
    | none => 0
  else n

/-- A barrier of the executing wave. -/
def State.barAt (s : State) (n : Nat) : Bar :=
  match s.team? s.cw.team with
  | none => .idle
  | some t =>
    if n = 0 then t.bar
    else if n = 1 then ((s.cluster? t.cluster).map (·.bar)).getD .idle
    else t.named.getD (n - 2) .idle

/-- A barrier of the executing wave changed. -/
def State.updBar (s : State) (n : Nat) (f : Bar → Bar) : State :=
  match s.team? s.cw.team with
  | none => s
  | some t =>
    if n = 0 then s.updTeam t.uid fun t => { t with bar := f t.bar }
    else if n = 1 then s.updCluster t.cluster fun c => { c with bar := f c.bar }
    else s.updTeam t.uid fun t =>
      { t with named := t.named.zipIdx.map fun b => if b.2 == n - 2 then f b.1 else b.1 }

/-- The members that a first arrival fixes (R327). -/
def State.barMembers (s : State) (n : Nat) (mask : BitVec 16) : List Nat :=
  let mine := s.liveIn (· == s.cw.team)
  if n = 0 then mine.map (·.uid)
  else if n = 1 then
    match (s.team? s.cw.team).bind fun t => s.cluster? t.cluster with
    | some c => (s.liveIn c.teams.contains).map (·.uid)
    | none => []
  else (mine.filter fun w => mask.getLsbD w.index).map (·.uid)

/-- An arrival (R326, R327): the phase it is for, and the barrier after it. -/
def Bar.arrive (b : Bar) (u : Nat) (mask : BitVec 16) (members : List Nat) : BitVec 32 × Bar :=
  if !b.collecting then
    (b.phase, { b with collecting := true, mask := if b.pinned then b.mask else mask, members, arrived := [u] })
  else if b.members.contains u then (b.phase, { b with arrived := b.arrived ++ [u] })
  else (b.phase + 1, { b with next := b.next ++ [u], nextMask := if b.next.isEmpty then mask else b.nextMask })

/-- Whether phase `p` of a barrier has completed. -/
def Bar.past (b : Bar) (p : BitVec 32) : Bool := let n := (b.phase - p).toNat; decide (1 ≤ n ∧ n < 2 ^ 31)

/-- The barrier of a wait that the executing wave's trap abandoned, or of the word that trapped (R331, R332). -/
def State.passedBar (s : State) : Option Nat :=
  let w := s.cw
  match w.abandoned with
  | some r => if r.kind == .barrier then some r.obj else none
  | none =>
    match decodeScalar w.trapWord with
    | .ok (.barw _) => some 0
    | .ok (.barc _) => some (s.barId 1)
    | .ok (.barn _ a _) => some (2 + (w.rs a).toNat)
    | _ => none

/-- The recorded arrival of the executing wave at a barrier (R331, R332). -/
def Wave.arrivalAt (w : Wave) (n : Nat) : Option Arrival := w.arrivals.find? fun a => a.bar == n

/-- What orders panel writes at the team's barrier (R247): those that are ordered for an arriving wave are so for every wave that returns from
that phase. -/
def State.barPanels (s : State) (n : Nat) (p : BitVec 32) : State :=
  if n ≠ 0 then s
  else
    s.updTeam s.cw.team fun t =>
      { t with unfenced := t.unfenced.map fun (u : Unfenced) =>
          if u.elig.contains s.cw.uid && u.barred.isNone then { u with barred := some p } else u }

/-- The panel writes that a return from phase `p` of a barrier orders for the executing wave (R247). -/
def State.passPanels (s : State) (n : Nat) (p : BitVec 32) : State :=
  if n ≠ 0 then s else s.observe fun u => (u.barred.map fun q => decide ((p - q).toNat < 2 ^ 31)).getD false

/-- The end of an arrival: its phase, if it has completed, goes to s[d] (R331). -/
def awaitPhase (d : SReg) (n : Nat) (p : BitVec 32) : Op Unit := do
  let s ← get
  if (s.barAt n).past p then
    set ({ s with cw := { s.cw with arrivals := s.cw.arrivals.filter fun a => a.bar != n } }.passPanels n p)
    result d (zext64 p)
  else block .barrier n d

/-- Arriving at a barrier and waiting for its phase (R331). -/
def arriveAt (d : SReg) (n : Nat) (mask : BitVec 16) (check : Bar → Op Unit) : Op Unit := do
  match (← get).cw.arrivalAt n with
  | some a => awaitPhase d n a.phase
  | none => do
    laneWait
    let s ← get
    check (s.barAt n)
    let (p, b) := (s.barAt n).arrive s.cw.uid mask (s.barMembers n mask)
    let s := s.updBar n fun _ => b
    let s := { s with cw := { s.cw with arrivals := s.cw.arrivals ++ [Arrival.mk n p] } }
    set ((s.barPanels n p).settleBars s.cw.team)
    awaitPhase d n p

/-- BARW (R331). -/
def execBarw (d : SReg) (s : State) : Host.Outcome State Fault Refusal :=
  (runOp · s) do
    noRegion
    arriveAt d 0 0 fun _ => pure ()

/-- BARC (R331). -/
def execBarc (d : SReg) (s : State) : Host.Outcome State Fault Refusal :=
  (runOp · s) do
    noRegion
    arriveAt d ((← get).barId 1) 0 fun _ => pure ()

/-- BARN (R331). -/
def execBarn (d a b : SReg) (s : State) : Host.Outcome State Fault Refusal :=
  (runOp · s) do
    noRegion
    let id ← rd a
    let mk ← rd b
    if 15 < id.toNat then trap BARRIER_MISMATCH 0 4
    if mk.toNat / 2 ^ 16 ≠ 0 then trap BARRIER_MISMATCH 0 3
    if !bitAt mk.toNat (← get).cw.index then trap BARRIER_MISMATCH 0 2
    let mask : BitVec 16 := mk.setWidth 16
    arriveAt d (2 + id.toNat) mask fun x => do
      if (x.collecting || x.pinned) && mask ≠ x.mask then trap BARRIER_MISMATCH 0 1

/-- BARINIT (R333). -/
def execBarinit (d a b : SReg) (s : State) : Host.Outcome State Fault Refusal :=
  (runOp · s) do
    noRegion
    let id ← rd a
    let mk ← rd b
    if 15 < id.toNat || mk.toNat / 2 ^ 16 ≠ 0 then status d 9
    let n := 2 + id.toNat
    if ((← get).barAt n).collecting then status d 1
    modify (·.updBar n fun x => { x with mask := mk.setWidth 16, pinned := mk != 0 })
    result d 0

end Sys2Proof.Machine
end

