-- ==== Sys2Proof/Machine/Float.lean ====
section
/-!
DEFINITION. The number formats, exact values, rounding, saturation and flags of chapter 02 (R32 to R43, R50 to R57). A finite
value is an exact dyadic number; every operation forms its exact result and rounds it once.
-/

namespace Sys2Proof.Machine

/-- The kinds of special encodings of R33. -/
inductive FKind where
  | ieee | e4m3 | e2m1 | e3m5
  deriving DecidableEq, Repr, Inhabited

/-- A floating-point format (R32): width, fraction width, bias and kind. -/
structure Fmt where
  bits : Nat
  fb : Nat
  bias : Nat
  kind : FKind
  deriving DecidableEq, Repr, Inhabited

def fp64 : Fmt := { bits := 64, fb := 52, bias := 1023, kind := .ieee }
def fp32 : Fmt := { bits := 32, fb := 23, bias := 127, kind := .ieee }
def fp16 : Fmt := { bits := 16, fb := 10, bias := 15, kind := .ieee }
def bf16 : Fmt := { bits := 16, fb := 7, bias := 127, kind := .ieee }
def e5m2 : Fmt := { bits := 8, fb := 2, bias := 15, kind := .ieee }
def e4m3 : Fmt := { bits := 8, fb := 3, bias := 7, kind := .e4m3 }
def e2m1 : Fmt := { bits := 4, fb := 1, bias := 1, kind := .e2m1 }
def e3m5 : Fmt := { bits := 8, fb := 5, bias := 3, kind := .e3m5 }

/-- The bits of the magnitude: all but the sign; E3M5 has no sign (R32). -/
def Fmt.magBits (f : Fmt) : Nat := if f.kind = .e3m5 then f.bits else f.bits - 1

/-- The code of the largest finite magnitude (R32, R33). -/
def Fmt.maxCode (f : Fmt) : Nat :=
  match f.kind with
  | .ieee => 2 ^ f.magBits - 2 ^ f.fb - 1
  | .e4m3 => 0x7E
  | .e2m1 => 7
  | .e3m5 => 0xFE

/-- The code of +∞, where there is one. -/
def Fmt.infCode (f : Fmt) : Nat := 2 ^ f.magBits - 2 ^ f.fb

/-- The canonical NaN (R33); E2M1 has none and converts a NaN to +0 (R55). -/
def Fmt.nanCode (f : Fmt) : Nat :=
  match f.kind with
  | .ieee => f.infCode + 2 ^ (f.fb - 1)
  | .e4m3 => 0x7F
  | .e2m1 => 0
  | .e3m5 => 0xFF

/-- Whether FTZ acts on the format (R40). -/
def Fmt.flushes (f : Fmt) : Bool := f.bits == 64 || f.bits == 32 || f.bits == 16

/-- A value: a NaN, an infinity, or (−1)^neg × m × 2^e exactly. -/
inductive FNum where
  | nan (signalling : Bool)
  | inf (neg : Bool)
  | fin (neg : Bool) (m : Nat) (e : Int)
  deriving DecidableEq, Repr, Inhabited

/-- The value of a code (R33, R34). -/
def unpack (f : Fmt) (x : Nat) : FNum :=
  let mag := x % 2 ^ f.magBits
  let neg := f.kind != .e3m5 && bitAt x (f.bits - 1)
  let ex := mag / 2 ^ f.fb
  let fr := mag % 2 ^ f.fb
  let special : Option FNum :=
    match f.kind with
    | .ieee =>
      if mag < f.infCode then none
      else if mag = f.infCode then some (.inf neg)
      else some (.nan (8 < f.bits && !bitAt fr (f.fb - 1)))
    | .e4m3 => if mag = 0x7F then some (.nan false) else none
    | .e2m1 => none
    | .e3m5 => if mag = 0xFF then some (.nan false) else none
  match special with
  | some n => n
  | none =>
    if ex = 0 then .fin neg fr (1 - (f.bias : Int) - f.fb) else .fin neg (2 ^ f.fb + fr) ((ex : Int) - f.bias - f.fb)

/-- A subnormal input read as a zero under FTZ (R40). -/
def flushIn (f : Fmt) (ftz : Bool) (x : FNum) : FNum :=
  match x with
  | .fin neg m e => if ftz && f.flushes && m < 2 ^ f.fb then .fin neg 0 e else x
  | x => x

/-- The flags of FSTAT (R44). -/
def IV : Nat := 16
def DZ : Nat := 8
def OF : Nat := 4
def UF : Nat := 2
def IX : Nat := 1

/-- A result and the flags it raises. -/
structure FRes where
  code : Nat
  flags : Nat
  deriving DecidableEq, Repr, Inhabited

/-- How a result is rounded: mode code of R38, saturation, FTZ, and the Bayer entry of R41. -/
structure Env where
  mode : Nat
  sat : Bool
  ftz : Bool
  entry : Nat
  deriving DecidableEq, Repr, Inhabited

/-- Round to nearest even, nothing else. -/
def Env.rn : Env := { mode := 0, sat := false, ftz := false, entry := 0 }

/-- The table of R41. -/
def bayerRow (row : Nat) : List Nat :=
  match row with
  | 0 => [0, 32, 8, 40, 2, 34, 10, 42]
  | 1 => [48, 16, 56, 24, 50, 18, 58, 26]
  | 2 => [12, 44, 4, 36, 14, 46, 6, 38]
  | 3 => [60, 28, 52, 20, 62, 30, 54, 22]
  | 4 => [3, 35, 11, 43, 1, 33, 9, 41]
  | 5 => [51, 19, 59, 27, 49, 17, 57, 25]
  | 6 => [15, 47, 7, 39, 13, 45, 5, 37]
  | _ => [63, 31, 55, 23, 61, 29, 53, 21]

/-- The entry of R41 for a position and a dither phase. -/
def bayer (row col phase : Nat) : Nat := (bayerRow ((row + phase) % 8)).getD (col % 8) 0

/-- Whether a discarded part `rem / 2^sh` (and a little more when `sticky`) rounds the magnitude up (R38, R41). -/
def roundsUp (env : Env) (neg odd : Bool) (rem sh : Nat) (sticky : Bool) : Bool :=
  let half := 2 ^ sh
  match env.mode with
  | 0 => half < 2 * rem || (2 * rem = half && (sticky || odd))
  | 1 => false
  | 2 => !neg && (rem != 0 || sticky)
  | 3 => neg && (rem != 0 || sticky)
  | 4 => half ≤ 2 * rem
  | _ => env.entry * half < rem * 64 || (rem * 64 = env.entry * half && sticky)

/-- The length of a number in bits. -/
def bitLen (m : Nat) : Nat := if m = 0 then 0 else m.log2 + 1

/-- The sign bit of a format. -/
def Fmt.signed (f : Fmt) (neg : Bool) (mag : Nat) : Nat := if neg then mag + 2 ^ (f.bits - 1) else mag

/-- A result that overflows (R39, R43). -/
def overflow (f : Fmt) (env : Env) (neg : Bool) : FRes :=
  let up := match env.mode with
    | 1 => false
    | 2 => !neg
    | 3 => neg
    | _ => true
  let mag := match f.kind with
    | .ieee => if env.sat || !up then f.maxCode else f.infCode
    | .e4m3 => if env.sat then f.maxCode else 0x7F
    | _ => f.maxCode
  let nan := f.kind == .e4m3 && !env.sat
  { code := if nan then 0x7F else f.signed neg mag, flags := OF ||| IX }

/-- A non-zero magnitude m × 2^e (and a little more when `sticky`) rounded to a format (R38 to R43). -/
def roundMag (f : Fmt) (env : Env) (neg : Bool) (m : Nat) (e : Int) (sticky : Bool) : FRes :=
  let qmin : Int := 1 - (f.bias : Int) - f.fb
  let q := max qmin (e + (bitLen m : Int) - 1 - f.fb)
  let sh := (q - e).toNat
  let scaled := if q ≤ e then m * 2 ^ (e - q).toNat else m / 2 ^ sh
  let rem := if q ≤ e then 0 else m % 2 ^ sh
  let inexact := rem != 0 || sticky
  let r := if roundsUp env neg (scaled % 2 == 1) rem sh sticky then scaled + 1 else scaled
  let code := (q - qmin).toNat * 2 ^ f.fb + r
  if f.maxCode < code then overflow f env neg
  else if code < 2 ^ f.fb then
    if env.ftz && f.flushes then { code := f.signed neg 0, flags := UF ||| IX }
    else { code := f.signed neg code, flags := if inexact then UF ||| IX else 0 }
  else { code := f.signed neg code, flags := if inexact then IX else 0 }

/-- A NaN result, with IV when `iv` (R34). -/
def nanRes (f : Fmt) (iv : Bool) : FRes :=
  { code := f.nanCode, flags := if iv || f.kind == .e2m1 then IV else 0 }

/-- An exact infinity as a result (R43, R55). -/
def infRes (f : Fmt) (env : Env) (neg : Bool) : FRes :=
  match f.kind with
  | .ieee => if env.sat then { code := f.signed neg f.maxCode, flags := OF } else { code := f.signed neg f.infCode, flags := 0 }
  | .e4m3 => { code := if env.sat then f.signed neg f.maxCode else 0x7F, flags := OF }
  | .e2m1 => { code := f.signed neg f.maxCode, flags := OF }
  | .e3m5 => if neg then { code := 0, flags := IV } else { code := 0xFE, flags := OF }

/-- A value rounded to a format (R38 to R43, R55). E3M5 has no negative values. -/
def pack (f : Fmt) (env : Env) (x : FNum) : FRes :=
  match x with
  | .nan s => nanRes f s
  | .inf neg => infRes f env neg
  | .fin neg m e =>
    if f.kind = .e3m5 && neg then { code := 0, flags := if m = 0 then 0 else IV }
    else if m = 0 then { code := f.signed neg 0, flags := 0 }
    else roundMag f env neg m e false

/-! ## Exact arithmetic -/

/-- Whether a value is a NaN, a signalling one. -/
def FNum.isNan : FNum → Bool
  | .nan _ => true
  | _ => false

def FNum.isSnan : FNum → Bool
  | .nan s => s
  | _ => false

def FNum.isInf : FNum → Bool
  | .inf _ => true
  | _ => false

def FNum.isZero : FNum → Bool
  | .fin _ m _ => m == 0
  | _ => false

def FNum.neg? : FNum → Bool
  | .nan _ => false
  | .inf n => n
  | .fin n _ _ => n

/-- The sign inverted. -/
def FNum.negate : FNum → FNum
  | .nan s => .nan s
  | .inf n => .inf !n
  | .fin n m e => .fin (!n) m e

/-- A signed dyadic m × 2^e with an integer m, at a lower exponent. -/
def alignTo (m : Int) (e to' : Int) : Int := m * 2 ^ (e - to').toNat

/-- The signed mantissa of a finite value. -/
def FNum.mant : FNum → Int
  | .fin n m _ => if n then -(m : Int) else m
  | _ => 0

def FNum.exp : FNum → Int
  | .fin _ _ e => e
  | _ => 0

/-- A signed dyadic as a value; a zero has the sign given. -/
def ofDyadic (m e : Int) (zeroNeg : Bool) : FNum := if m = 0 then .fin zeroNeg 0 e else .fin (m < 0) m.natAbs e

/-- The exact sum of two finite values. An exact zero of opposite signs is +0, or −0 under RD; −0 + −0 is −0 (R193). -/
def addFin (x y : FNum) (rd : Bool) : FNum :=
  let e := min x.exp y.exp
  let m := alignTo x.mant x.exp e + alignTo y.mant y.exp e
  let zeroNeg := if x.isZero && y.isZero && x.neg? == y.neg? then x.neg? else rd
  ofDyadic m e zeroNeg

/-- The exact product; 0 × ∞ is invalid: the flag tells (R50). -/
def mulX (x y : FNum) : FNum × Bool :=
  let neg := x.neg? != y.neg?
  match x, y with
  | .inf _, .inf _ => (.inf neg, false)
  | .inf _, .fin _ m _ => if m = 0 then (.nan false, true) else (.inf neg, false)
  | .fin _ m _, .inf _ => if m = 0 then (.nan false, true) else (.inf neg, false)
  | .fin _ m e, .fin _ m' e' => (.fin neg (m * m') (e + e'), false)
  | _, _ => (.nan false, false)

/-- The exact sum; infinities of opposite sign are invalid (R50). -/
def addX (x y : FNum) (rd : Bool) : FNum × Bool :=
  match x, y with
  | .nan _, _ | _, .nan _ => (.nan false, false)
  | .inf a, .inf b => if a == b then (.inf a, false) else (.nan false, true)
  | .inf a, _ => (.inf a, false)
  | _, .inf b => (.inf b, false)
  | x, y => (addFin x y rd, false)

/-- A value rounded, NaN operands and an invalid operation taken into account (R34, R50). -/
def packArith (f : Fmt) (env : Env) (x : FNum) (invalid : Bool) (ops : List FNum) : FRes :=
  let iv := invalid || ops.any (·.isSnan)
  if iv || ops.any (·.isNan) then nanRes f iv else pack f env x

/-- Round(a + b) (R193). -/
def fadd (f : Fmt) (env : Env) (a b : FNum) : FRes :=
  let (s, iv) := addX a b (env.mode == 3)
  packArith f env s iv [a, b]

/-- Round(a × b) (R193). -/
def fmul (f : Fmt) (env : Env) (a b : FNum) : FRes :=
  let (p, iv) := mulX a b
  packArith f env p iv [a, b]

/-- Round(a × b + c), one rounding (R52, R193). -/
def ffma (f : Fmt) (env : Env) (a b c : FNum) : FRes :=
  let (p, iv) := mulX a b
  let (s, iv') := if p.isNan || c.isNan then (.nan false, false) else addX p c (env.mode == 3)
  packArith f env s (iv || iv') [a, b, c]

/-- Round(c + a0 × b0 + a1 × b1), one rounding (R197). Infinities of opposite sign among the terms are invalid. -/
def fdot2 (f : Fmt) (env : Env) (a0 b0 a1 b1 c : FNum) : FRes :=
  let (p, i0) := mulX a0 b0
  let (q, i1) := mulX a1 b1
  let ts := [c, p, q]
  let clash := ts.any (· == .inf true) && ts.any (· == .inf false)
  let rd := env.mode == 3
  let s : FNum :=
    match ts.find? (·.isInf) with
    | some i => i
    | none =>
      let t := addFin p q rd
      let e := min c.exp t.exp
      let m := alignTo c.mant c.exp e + alignTo t.mant t.exp e
      ofDyadic m e (if ts.all fun x => x.isZero && x.neg? then true else if ts.all fun x => x.isZero && !x.neg? then false else rd)
  packArith f env s (i0 || i1 || clash) [a0, b0, a1, b1, c]

/-- The quotient of two finite non-zero magnitudes: a mantissa with at least `n` bits, its exponent, and what is left. -/
def divMant (m : Nat) (e : Int) (m' : Nat) (e' : Int) (n : Nat) : Nat × Int × Bool :=
  let k := n + bitLen m'
  (m * 2 ^ k / m', e - e' - k, m * 2 ^ k % m' != 0)

/-- Round(a / b), correctly rounded (R53). -/
def fdiv (f : Fmt) (env : Env) (a b : FNum) : FRes :=
  let neg := a.neg? != b.neg?
  if a.isNan || b.isNan then nanRes f (a.isSnan || b.isSnan)
  else
    match a, b with
    | .inf _, .inf _ => nanRes f true
    | .inf _, _ => infRes f env neg
    | .fin _ _ _, .inf _ => { code := f.signed neg 0, flags := 0 }
    | .fin _ m e, .fin _ m' e' =>
      if m' = 0 then
        if m = 0 then nanRes f true
        else
          let r := infRes f env neg
          { r with flags := r.flags ||| DZ }
      else if m = 0 then { code := f.signed neg 0, flags := 0 }
      else
        let (q, e, s) := divMant m e m' e' (f.fb + 4)
        roundMag f env neg q e s
    | _, _ => nanRes f false

/-- The integer square root, bit by bit from bit `n` down: `r` is the root so far. -/
def isqrtFrom (x r : Nat) : Nat → Nat
  | 0 => if (r + 1) * (r + 1) ≤ x then r + 1 else r
  | n + 1 =>
    let t := r + 2 ^ (n + 1)
    isqrtFrom x (if t * t ≤ x then t else r) n

/-- ⌊√x⌋. -/
def isqrt (x : Nat) : Nat := isqrtFrom x 0 (bitLen x / 2 + 1)

/-- The square root of a magnitude: a mantissa of at least `n` bits, its exponent, and what is left. -/
def sqrtMant (m : Nat) (e : Int) (n : Nat) : Nat × Int × Bool :=
  let k := 2 * n + (if (e - 2 * n) % 2 = 0 then 0 else 1)
  let x := m * 2 ^ k
  let r := isqrt x
  (r, (e - k) / 2, r * r != x)

/-- Round(√a), correctly rounded (R53). -/
def fsqrt (f : Fmt) (env : Env) (a : FNum) : FRes :=
  match a with
  | .nan s => nanRes f s
  | .inf neg => if neg then nanRes f true else infRes f env false
  | .fin neg m e =>
    if m = 0 then { code := f.signed neg 0, flags := 0 }
    else if neg then nanRes f true
    else
      let (r, e, s) := sqrtMant m e (f.fb + 4)
      roundMag f env false r e s

/-! ## Comparison -/

/-- Whether a < b as numbers; −0 and +0 are equal. -/
def FNum.lt (a b : FNum) : Bool :=
  match a, b with
  | .nan _, _ | _, .nan _ => false
  | .inf n, .inf n' => n && !n'
  | .inf n, _ => n
  | _, .inf n => !n
  | a, b =>
    let e := min a.exp b.exp
    alignTo a.mant a.exp e < alignTo b.mant b.exp e

/-- Whether a = b as numbers. -/
def FNum.eq (a b : FNum) : Bool := !a.isNan && !b.isNan && !a.lt b && !b.lt a

/-- The lesser or greater value, with −0 below +0 (R52): whether the first operand is taken. -/
def takesFirst (max : Bool) (a b : FNum) : Bool :=
  if b.isNan then true
  else if a.isNan then false
  else
    let less := a.lt b || (a.eq b && a.neg? && !b.neg?)
    let more := b.lt a || (a.eq b && !a.neg? && b.neg?)
    if max then more || !less else less || !more

/-! ## Conversions -/

/-- An integer type of R78: width and signedness. -/
structure ITy where
  bits : Nat
  sgn : Bool
  deriving DecidableEq, Repr, Inhabited

/-- The value of a code of an integer type. -/
def ITy.val (t : ITy) (x : Nat) : Int := if t.sgn then (BitVec.ofNat t.bits x).toInt else ((x % 2 ^ t.bits : Nat) : Int)

def ITy.max (t : ITy) : Int := if t.sgn then 2 ^ (t.bits - 1) - 1 else 2 ^ t.bits - 1
def ITy.min (t : ITy) : Int := if t.sgn then -(2 ^ (t.bits - 1)) else 0

/-- An exact integer wrapped to a type (R54). -/
def ITy.wrap (t : ITy) (x : Int) : Nat := (x % 2 ^ t.bits).toNat

/-- An exact integer clamped to a type (R43). -/
def ITy.clamp (t : ITy) (x : Int) : Nat := t.wrap (if t.max < x then t.max else if x < t.min then t.min else x)

/-- A floating-point value converted to an integer type (R55): out of range saturates with IV. -/
def toInteger (t : ITy) (env : Env) (x : FNum) : FRes :=
  match x with
  | .nan _ => { code := 0, flags := IV }
  | .inf neg => { code := t.wrap (if neg then t.min else t.max), flags := IV }
  | .fin neg m e =>
    let sh := (-e).toNat
    let big := if e < 0 then m / 2 ^ sh else m * 2 ^ e.toNat
    let rem := if e < 0 then m % 2 ^ sh else 0
    let r := if roundsUp env neg (big % 2 == 1) rem sh false then big + 1 else big
    let v : Int := if neg then -(r : Int) else r
    if t.max < v then { code := t.wrap t.max, flags := IV }
    else if v < t.min then { code := t.wrap t.min, flags := IV }
    else { code := t.wrap v, flags := if rem = 0 then 0 else IX }

/-- An integer as an exact value. -/
def ofInteger (x : Int) : FNum := ofDyadic x 0 false

/-! ## Types of lane operands (R78) -/

/-- A lane type: its sub-element width, and what a sub-element is. -/
inductive SubTy where
  | int (t : ITy)
  | flt (f : Fmt)
  deriving DecidableEq, Repr, Inhabited

def SubTy.width : SubTy → Nat
  | .int t => t.bits
  | .flt f => f.bits

/-- The type codes of R78. -/
def subTy (code : Nat) : Option SubTy :=
  match code with
  | 0x0 => some (.int { bits := 64, sgn := true })
  | 0x1 => some (.int { bits := 32, sgn := true })
  | 0x2 => some (.int { bits := 16, sgn := true })
  | 0x3 => some (.int { bits := 8, sgn := true })
  | 0x4 => some (.int { bits := 32, sgn := false })
  | 0x5 => some (.int { bits := 16, sgn := false })
  | 0x6 => some (.int { bits := 8, sgn := false })
  | 0x7 => some (.flt fp32)
  | 0x8 => some (.flt fp16)
  | 0x9 => some (.flt bf16)
  | 0xA => some (.flt e4m3)
  | 0xB => some (.flt e5m2)
  | 0xC => some (.flt e2m1)
  | 0xD => some (.flt fp64)
  | 0xE => some (.int { bits := 64, sgn := false })
  | _ => none

/-- The sub-elements of a 64-bit register at a width, lowest first (R36). -/
def subs (w : Nat) (x : Word) : List Nat := (List.range (64 / w)).map fun e => bitsOf x.toNat (w * e) w

/-- Sub-elements put together (R36). -/
def ofSubs (w : Nat) (xs : List Nat) : Word := .ofNat 64 (xs.foldr (fun x n => x % 2 ^ w + 2 ^ w * n) 0)

/-- Whether every value of a source type is a value of the destination (R55): exact, so DR is illegal (R38). -/
def exactCvt (st dt : SubTy) : Bool :=
  match st, dt with
  | .int _, .int _ => true
  | .flt _, .int _ => false
  | .int t, .flt f => f.kind == .ieee && (if t.sgn then t.bits - 1 else t.bits) ≤ f.fb + 1 && t.bits ≤ f.bias
  | .flt s, .flt d =>
    (d.kind == .e4m3 && s.kind == .e2m1) ||
      (d.kind == .ieee && s.fb ≤ d.fb && s.bias ≤ d.bias && (d.bits == 64 || d.bits == 32 || s.bits < d.bits))

/-- Cvt(x, st, dt, mode) (R201). -/
def cvt (st dt : SubTy) (env : Env) (x : Nat) : FRes :=
  match st, dt with
  | .flt s, .flt d => pack d env (flushIn s env.ftz (unpack s x))
  | .flt s, .int t => toInteger t env (flushIn s env.ftz (unpack s x))
  | .int t, .flt d => pack d env (ofInteger (t.val x))
  | .int s, .int t =>
    { code := if env.sat then t.clamp (s.val x) else t.wrap (s.val x), flags := 0 }

/-! ## The pairwise tree (R57) -/

/-- One level of the tree: elements two by two; an absent partner passes the other through. -/
def treeLevel {α : Type} (op : α → α → α) : List (Option α) → List (Option α)
  | some x :: some y :: rest => some (op x y) :: treeLevel op rest
  | none :: y :: rest => y :: treeLevel op rest
  | some x :: none :: rest => some x :: treeLevel op rest
  | [x] => [x]
  | [] => []

/-- The whole tree, in `fuel` levels. -/
def tree {α : Type} (op : α → α → α) (xs : List (Option α)) : Nat → Option α
  | 0 => (xs.head?).join
  | fuel + 1 => match xs with
    | [] => none
    | [x] => x
    | xs => tree op (treeLevel op xs) fuel

end Sys2Proof.Machine
end

