-- ==== Sys2Proof/Machine/LaneCore.lean ====
section
/-!
DEFINITION. What every lane word shares: the legality of its fields (R74 to R81, R183 to R185, R207, R215, R249, R282), the
scoreboard and short words (R82 to R85), its operands (R77, R182), its results and flags (R48, R49), and the way it traps or
waits.
-/

namespace Sys2Proof.Machine

/-! ## Fields -/

/-- The X bits of R76 as one number, X1 lowest. -/
def LaneX (o : LaneOp) : Nat := bitsOf o.md.toNat 5 5
def LaneUB (o : LaneOp) : Bool := bitAt o.md.toNat 12
def LaneUC (o : LaneOp) : Bool := bitAt o.md.toNat 11
def LaneIMMB (o : LaneOp) : Bool := bitAt o.md.toNat 10
def LaneSat (o : LaneOp) : Bool := bitAt o.md.toNat 4
def LaneRX (o : LaneOp) : Bool := bitAt o.md.toNat 3
def LaneRM (o : LaneOp) : Nat := bitsOf o.md.toNat 0 3

/-- How an entry uses d: nothing, a v register that it writes, writes after reading, or reads, a k or q register, a tile. -/
inductive DUse where
  | none | v | vRead | vSource | k | q | acc
  deriving DecidableEq, Repr, Inhabited

/-- How an entry uses a. -/
inductive AUse where
  | none | v | k | acc
  deriving DecidableEq, Repr, Inhabited

/-- How an entry uses b: a source with or without the immediate form, a lane number or count, a rendezvous slot, a join id, a
uniform operand alone, or a uniform offset that may be absent. -/
inductive BUse where
  | none | v (imm : Bool) | lane | slot | join | uniform | offset
  deriving DecidableEq, Repr, Inhabited

/-- How an entry uses c: a source, a code of its own, or a uniform operand alone. -/
inductive CUse where
  | none | v | code | uniform
  deriving DecidableEq, Repr, Inhabited

/-- Which rounding modes an entry takes. -/
inductive RUse where
  | none | round | dither
  deriving DecidableEq, Repr, Inhabited

/-- What an entry says of its fields. `types` is empty when the type field is reserved; `extra` is what else it asks for. -/
structure Shape where
  types : List Nat := []
  d : DUse := .none
  a : AUse := .none
  b : BUse := .none
  c : CUse := .none
  rm : RUse := .none
  sat : Bool := false
  xs : Nat := 0
  imm : Bool := false
  pred : Bool := true
  extra : Bool := true
  deriving DecidableEq, Repr, Inhabited

/-- The sets of R183. -/
def tINT : List Nat := [0x0, 0x1, 0x2, 0x3, 0x4, 0x5, 0x6, 0xE]
def tSINT : List Nat := [0x0, 0x1, 0x2, 0x3]
def tFLT : List Nat := [0x7, 0x8, 0x9, 0xA, 0xB, 0xD]
def tFLTS : List Nat := 0xC :: tFLT
def tHALF : List Nat := [0x8, 0x9]
def tANY : List Nat := List.range 15
def tTRANS : List Nat := [0x7, 0x8, 0x9]

/-- The sub-element width and count of a type code (R78). -/
def tyWidth (ty : Nat) : Nat := ((subTy ty).map (·.width)).getD 64
def tyCount (ty : Nat) : Nat := 64 / tyWidth ty

/-- Whether a type code is a floating-point one. -/
def tyFloat (ty : Nat) : Bool :=
  match subTy ty with
  | some (.flt _) => true
  | _ => false

/-- The ratio of sub-element counts of a conversion (R200). -/
def cvtRatio (dt st : Nat) : Nat := if tyCount st < tyCount dt then tyCount dt / tyCount st else tyCount st / tyCount dt

/-- Whether a conversion may round by DR (R38). -/
def cvtMayDither (dt st : Nat) : Bool :=
  match subTy st, subTy dt with
  | some (.int _), some (.int _) => false
  | some s, some d => !exactCvt s d
  | _, _ => false

/-- The further conditions of VCVT and VPACK: the source type, and DR only where a conversion can be inexact (R38, R200). -/
def cvtExtra (o : LaneOp) : Bool :=
  let dt := o.ty.toNat
  let st := o.c.toNat
  st < 0xF && st != dt && !(LaneRX o && LaneRM o == 5 && !cvtMayDither dt st)

/-- The fields of VBFX and VBFI (R189). -/
def bfOk (o : LaneOp) : Bool :=
  let i := o.imm.toNat
  bitsOf i 14 18 == 0 && bitsOf i 6 2 == 0 && bitsOf i 8 6 + bitsOf i 0 6 + 1 ≤ tyWidth o.ty.toNat

/-- The access bytes of a size code of R249. -/
def vmBytes (o : LaneOp) : Nat := 8 / 2 ^ (LaneX o % 4)

/-- The position, order and scope of VLD and VST (R249); `ord` is the one order other than relaxed. -/
def vmCodeOk (o : LaneOp) (ord : Nat) : Bool :=
  let c := o.c.toNat
  (bitsOf c 3 2 == 0 && bitsOf c 5 2 == 0 || bitsOf c 3 2 == ord) && (bitsOf c 0 3 + 1) * vmBytes o ≤ 8

/-- The type, size and operation of VATOM (R253). -/
def vatomOk (o : LaneOp) : Bool :=
  let size := LaneX o % 4
  let op := LaneX o / 4
  let ty := o.ty.toNat
  ((size == 0 && (ty == 0x0 || ty == 0xE || ty == 0xD)) || (size == 1 && (ty == 0x1 || ty == 0x4 || ty == 0x7))) &&
    bitsOf o.c.toNat 0 3 == 0 && !(tyFloat ty && 1 ≤ op && op ≤ 3)

/-- The fields of every lane operation. -/
def laneShape (c : LaneCode) (o : LaneOp) (vregs : Nat) : Shape :=
  let ty := o.ty.toNat
  let x := LaneX o
  let narrow := ty == 0x8 || ty == 0x9
  match c with
  | .vadd | .vsub | .vmul => { types := tINT, d := .v, a := .v, b := .v true, sat := true }
  | .vmulh | .vmin | .vmax | .vavg => { types := tINT, d := .v, a := .v, b := .v true }
  | .vmad => { types := tINT, d := .v, a := .v, b := .v true, c := .v, sat := true }
  | .vabs | .vneg => { types := tSINT, d := .v, a := .v, sat := true }
  | .vsad => { types := [0x2, 0x3, 0x5, 0x6], d := .v, a := .v, b := .v true, c := .v }
  | .vdot4 => { types := [0x3, 0x6], d := .v, a := .v, b := .v true, c := .v, sat := true }
  | .vand | .vor | .vxor | .vandn | .vshl | .vshr | .vsra | .vrol => { types := tINT, d := .v, a := .v, b := .v true }
  | .vnot | .vclz | .vpopc => { types := tINT, d := .v, a := .v }
  | .vbfx => { types := tINT, d := .v, a := .v, imm := true, extra := bfOk o }
  | .vbfi => { types := tINT, d := .vRead, a := .v, imm := true, extra := bfOk o }
  | .vsel => { types := tANY, d := .v, a := .v, b := .v true, c := .v }
  | .vmov => { types := tANY, d := .v, a := .v }
  | .vmovi => { types := tANY, d := .v, imm := true }
  | .vlaneid => { types := tINT, d := .v }
  | .vcmp => { types := tINT, d := .v, a := .v, b := .v true, xs := 7, extra := x % 8 ≤ 5 }
  | .vcmpk => { types := tINT, d := .k, a := .v, b := .v true, xs := 15, extra := x % 8 ≤ 5 }
  | .vfadd | .vfsub | .vfmul => { types := tFLT, d := .v, a := .v, b := .v true, rm := .round, sat := true }
  | .vfma => { types := tFLT, d := .v, a := .v, b := .v true, c := .v, rm := .round, sat := true }
  | .vfmin | .vfmax | .vfcpsgn => { types := tFLTS, d := .v, a := .v, b := .v true }
  | .vfabs | .vfneg | .vfclass => { types := tFLTS, d := .v, a := .v }
  | .vfcmp => { types := tFLTS, d := .v, a := .v, b := .v true, xs := 7 }
  | .vfcmpk => { types := tFLTS, d := .k, a := .v, b := .v true, xs := 15 }
  | .vfdot2 => { types := tHALF, d := .v, a := .v, b := .v true, c := .v, rm := .round, sat := true }
  | .vfsumh => { types := tTRANS, d := .v, a := .v, rm := .round, sat := true }
  | .vfrcp | .vfrsq | .vfexp2 | .vflog2 | .vfsin | .vfcos | .vftanh => { types := tTRANS, d := .v, a := .v, sat := true }
  | .vfsqrt => { types := 0xD :: tTRANS, d := .v, a := .v, rm := .round, sat := true }
  | .vfdiv => { types := 0xD :: tTRANS, d := .v, a := .v, b := .v true, rm := .round, sat := true }
  | .vcvt =>
    { types := tANY, d := if tyCount (o.c.toNat) ≤ tyCount ty then .vRead else .v, a := .v, c := .code, rm := .dither,
      sat := true, xs := 15, extra := cvtExtra o && x % 16 < cvtRatio ty o.c.toNat }
  | .vpack =>
    { types := tANY, d := .v, a := .v, b := .v false, c := .code, rm := .dither, sat := true,
      extra := cvtExtra o && tyCount ty == 2 * tyCount o.c.toNat }
  | .vunpk =>
    { types := [0x1, 0x2, 0x3, 0x4, 0x5, 0x6, 0x7, 0x8, 0x9, 0xA, 0xB, 0xC], d := .v, a := .v, xs := 3,
      extra := x / 2 % 2 == 0 || (0xA ≤ ty && ty ≤ 0xC) }
  | .vbscale => { types := tHALF, d := .vRead, a := .v, b := .v false, xs := 7 }
  | .vbquant => { types := tHALF, d := .vRead, a := .v, b := .v false, c := .v, rm := .dither, xs := 15 }
  | .vswz => { types := tANY, d := .v, a := .v, b := .v false }
  | .vperm => { types := tANY.filter (· != 0xC), d := .v, a := .v, b := .v true, xs := 1 }
  | .vbcast => { d := .v, a := .v, b := .lane }
  | .vshfl => { d := .v, a := .v, b := .lane, xs := 3, extra := x % 4 != 3 }
  | .vrfal | .vballot => { d := .q, a := .v }
  | .vred =>
    { types := tINT ++ tFLT, d := .q, a := .v, xs := 7, rm := if x % 8 == 0 && tyFloat ty then .round else .none,
      sat := x % 8 == 0, extra := x % 8 ≤ (if tyFloat ty then 2 else 5) }
  | .vscan =>
    { types := tINT ++ tFLT, d := .v, a := .v, xs := 15, rm := if x % 8 == 0 && tyFloat ty then .round else .none,
      sat := x % 8 == 0,
      extra := x % 8 ≤ (if tyFloat ty then 2 else 5) && !(8 ≤ x && (x % 8 == 1 || x % 8 == 2)) }
  | .vld => { types := tANY, d := .v, a := .v, b := .offset, c := .code, xs := 3, imm := true, extra := vmCodeOk o 1 }
  | .vst => { types := tANY, d := .vSource, a := .v, b := .offset, c := .code, xs := 3, imm := true, extra := vmCodeOk o 2 }
  | .vatom =>
    { types := [0x0, 0x1, 0x4, 0x7, 0xD, 0xE], d := .vRead, a := .v, b := .v false, c := .code, xs := 31, imm := true,
      extra := vatomOk o }
  | .vpref => { a := .v, b := .offset, xs := 1, imm := true }
  | .lbr => { a := .k, b := .join, xs := 1, imm := true, pred := false }
  | .ljoin => { b := .join, pred := false }
  | .lend | .lnop => { pred := false }
  | .lkill => {}
  | .lelect => { d := .k }
  | .ljmp => { imm := true, pred := false }
  | .mj =>
    { types := [0x3, 0x9, 0xA, 0xB, 0xC], d := .acc, a := .v, b := .uniform, c := if ty == 0xC then .uniform else .none,
      xs := if ty == 0xA || ty == 0xB then 1 else 0, imm := true, pred := false,
      extra := o.imm.toNat < 16 && o.a.toNat + (if ty == 0xC then 4 else 3) < vregs }
  | .mfence => { pred := false }
  | .mwait => { xs := 1, imm := true, pred := false, extra := o.imm.toNat < (if x % 2 == 1 then 1 else 16) }
  | .amovr =>
    { types := [0x1, 0x7, 0x8, 0x9], d := .v, a := .acc, rm := if narrow then .dither else .none, sat := narrow, imm := true,
      extra := o.imm.toNat < (if narrow then 16 else 32) }
  | .amovw => { types := [0x1, 0x7], d := .acc, a := .v, imm := true, extra := o.imm.toNat < 32 }
  | .azero => { d := .acc, pred := false }
  | .astore =>
    { types := [0x1, 0x7, 0x8, 0x9], a := .acc, b := .uniform, rm := if narrow then .dither else .none, sat := narrow,
      imm := true, pred := false }
  | .vpass => { a := .v, b := .slot }
  | .vtake => { d := .v, b := .slot }

/-- Whether the modifiers of R76 are as the entry says. -/
def Shape.modsOk (s : Shape) (o : LaneOp) : Bool :=
  let rm := LaneRM o
  let rmOk := match s.rm with
    | .none => !LaneRX o && rm == 0
    | .round => if LaneRX o then rm ≤ 4 else rm == 0
    | .dither => if LaneRX o then rm ≤ 5 else rm == 0
  rmOk && (s.sat || !LaneSat o) && (LaneX o ||| s.xs) == s.xs

/-- Whether the operand b is as the entry says, UB and IMMB included (R76, R77, R207, R215, R249, R282). -/
def Shape.bOk (s : Shape) (o : LaneOp) (vregs : Nat) : Bool :=
  let b := o.b.toNat
  let uniform := LaneUB o && b < 16
  let plain := !LaneUB o && !LaneIMMB o
  match s.b with
  | .none => plain && b == 0
  | .v imm =>
    if LaneIMMB o then imm && !LaneUB o && b == 0 else if LaneUB o then b < 16 else b < vregs
  | .lane => !LaneIMMB o && (uniform || (!LaneUB o && b < 32))
  | .slot => plain && b < 8
  | .join => plain && b != 0
  | .uniform => !LaneIMMB o && uniform
  | .offset => !LaneIMMB o && (uniform || (!LaneUB o && b == 0))

/-- Whether the operand c is as the entry says. -/
def Shape.cOk (s : Shape) (o : LaneOp) (vregs : Nat) : Bool :=
  let c := o.c.toNat
  match s.c with
  | .none => !LaneUC o && c == 0
  | .v => if LaneUC o then c < 16 else c < vregs
  | .code => !LaneUC o
  | .uniform => LaneUC o && c < 16

/-- Whether the operands d and a are as the entry says: register ranges of R77 and the tiles of R280. -/
def Shape.daOk (s : Shape) (o : LaneOp) (vregs acc : Nat) : Bool :=
  let d := o.d.toNat
  let a := o.a.toNat
  (match s.d with
    | .none => d == 0
    | .v | .vRead | .vSource => d < vregs
    | .k | .q => d < 8
    | .acc => d < acc && d < 96) &&
  (match s.a with
    | .none => a == 0
    | .v => a < vregs
    | .k => a < 8
    | .acc => a < acc && a < 96)

/-- Check 1 of R80 for one operation: types, reserved fields, registers, modifiers. -/
def laneLegal (c : LaneCode) (o : LaneOp) (vregs acc : Nat) : Bool :=
  let s := laneShape c o vregs
  (if s.types.isEmpty then o.ty == 0 else s.types.contains o.ty.toNat) && s.daOk o vregs acc && s.bOk o vregs && s.cOk o vregs &&
    s.modsOk o && (s.imm || LaneIMMB o || o.imm == 0) && (s.pred || o.k == 0) && s.extra

/-- The classes of R79. -/
inductive LaneClass where
  | A | F | T | X | M | C | J
  deriving DecidableEq, Repr, Inhabited

/-- The class of an operation (R79). -/
def laneClass (c : LaneCode) : LaneClass :=
  let n := c.op9
  if n < 0x040 then .A
  else if n < 0x080 then .F
  else if n < 0x0A0 then .T
  else if n < 0x0C0 then .A
  else if n < 0x0E0 then .X
  else if n < 0x0F0 then .M
  else if n < 0x100 then .C
  else if n < 0x120 then .J
  else .X

/-- The latency of a fixed-latency operation (R83); `none` for one that the scoreboard tracks. -/
def laneLatency (c : LaneCode) (o : LaneOp) : Option Nat :=
  match laneClass c with
  | .A => some (if c.op9 < 0x0A0 then 4 else 6)
  | .F => some (if o.ty == 0xD then 12 else 6)
  | .X => if c.op9 < 0x120 then some 8 else none
  | _ => none

/-! ## What an operation reads and writes -/

/-- The B registers of MJ (R277). -/
def mjRegs (o : LaneOp) : List Nat := (List.range (if o.ty == 0xC then 5 else 4)).map (o.a.toNat + ·)

/-- The source v registers, a destination that is read among them (R80). -/
def laneVReads (c : LaneCode) (o : LaneOp) : List Nat :=
  let s := laneShape c o 128
  (if c = .mj then mjRegs o else if s.a = .v then [o.a.toNat] else []) ++
  (match s.b with
    | .v _ => if LaneUB o || LaneIMMB o then [] else [o.b.toNat]
    | _ => []) ++
  (if s.c = .v && !LaneUC o then [o.c.toNat] else []) ++
  (if s.d = .vRead || s.d = .vSource then [o.d.toNat] else [])

/-- The k registers read: the predicate, or the condition of LBR. -/
def laneKReads (c : LaneCode) (o : LaneOp) : List Nat :=
  (if o.k = 0 then [] else [o.k.toNat]) ++ (if (laneShape c o 128).a = .k then [o.a.toNat % 8] else [])

/-- The registers written. -/
def laneWrites (c : LaneCode) (o : LaneOp) : List RegRef :=
  match (laneShape c o 128).d with
  | .v | .vRead => [.v o.d.toNat]
  | .k => [.k (o.d.toNat % 8)]
  | .q => [.q (o.d.toNat % 8)]
  | _ => []

/-- Every register that an operation reads. -/
def laneReads (c : LaneCode) (o : LaneOp) : List RegRef := (laneVReads c o).map .v ++ (laneKReads c o).map .k

/-- The pairing checks of R80, from check 2 on. -/
def pairLegal (cx : LaneCode) (x : LaneOp) (cy : LaneCode) (y : LaneOp) : Bool :=
  let kx := laneClass cx
  let ky := laneClass cy
  let reads := (laneVReads cx x ++ laneVReads cy y).eraseDups
  let wx := laneWrites cx x
  let wy := laneWrites cy y
  let clash := wx.any fun a => wy.any fun b => match a, b with
    | .v m, .v n => m % 4 == n % 4
    | .k m, .k n => m == n
    | .q m, .q n => m == n
    | _, _ => false
  (kx == .A || kx == .F || kx == .X) && (ky == .A || ky == .F || ky == .T || ky == .M || ky == .C) &&
    !(cx == .lbr || cx == .ljmp || cy == .lbr || cy == .ljmp) &&
    ([0, 1, 2, 3].all fun bank => (reads.filter fun r => r % 4 == bank).length ≤ 2) && reads.length ≤ 6 && !clash &&
    !((laneReads cx x).any fun r => wy.contains r) && !((laneReads cy y).any fun r => wx.contains r)

/-! ## Operands -/

/-- What an operation sees: its mask, the path's mask, and its operands by lane. -/
structure LaneIn where
  m : BitVec 32
  path : BitVec 32
  a : List Word
  b : List Word
  c : List Word
  d : List Word
  deriving Repr, Inhabited

/-- The 32 lanes. -/
def laneList : List Nat := List.range 32

/-- An operand of one lane. -/
def laneOf (xs : List Word) (i : Nat) : Word := xs.getD i 0

/-- The operand that IMMB forms (R77). An F64 operand of an imm32 that is an FP32 NaN is the canonical quiet NaN, and forming it raises no
flag (DESIGN CHOICE, log entry 53). -/
def immOperand (ty : Nat) (imm : BitVec 32) : Word :=
  match ty with
  | 0x0 => sext64 imm
  | 0xE => zext64 imm
  | 0xD => .ofNat 64 (pack fp64 Env.rn (unpack fp32 imm.toNat)).code
  | _ => ofSubs (tyWidth ty) (List.replicate (tyCount ty) imm.toNat)

/-- A uniform operand: s48 + n of the snapshot taken at LRUN (R77, R174). -/
def State.snapshot (s : State) (n : Nat) : Word := ((s.cw.eng.queue.head?).map fun b => b.uniform.getD (n % 16) 0).getD 0

/-- The lanes of a register in which a fixed-latency result is not old enough (R84). -/
def State.shortLanes (s : State) (r : RegRef) : BitVec 32 :=
  (s.cp.fixed.filter fun x => x.reg == r && 0 < x.left).foldl (fun m x => m ||| x.lanes) 0

/-- The lanes of a v register; a short one reads undefined values (R84). -/
def readV (r : Nat) : Op (List Word) := do
  let s ← get
  let v := if h : r < 128 then s.cw.v[r].toList else []
  let short := s.shortLanes (.v r)
  if short = 0 then pure v
  else
    let n ← draw
    pure (laneList.map fun i => if short.getLsbD i then Config.undef64 n i else laneOf v i)

/-- A k register; a short one reads undefined bits (R84). -/
def readK (r : KReg) : Op (BitVec 32) := do
  let s ← get
  let x := s.cw.rk r
  let short := s.shortLanes (.k r.toNat)
  if short = 0 then pure x
  else
    let n ← draw
    pure ((x &&& ~~~short) ||| ((Config.undef64 n 0).setWidth 32 &&& short))

/-- The mask of an operation: the path's lanes, and with k not 0 those of k[k] (R77, R182). -/
def laneMask (o : LaneOp) : Op (BitVec 32) := do
  let p := (← get).cp.mask
  if o.k = 0 then pure p else pure (p &&& (← readK o.k))

/-- The operands of an operation (R182). -/
def laneInputs (c : LaneCode) (o : LaneOp) : Op LaneIn := do
  let s ← get
  let sh := laneShape c o 128
  let m ← if sh.pred then laneMask o else pure s.cp.mask
  let a ← if sh.a = .v then readV o.a.toNat else pure []
  let b ← if LaneIMMB o then pure (List.replicate 32 (immOperand o.ty.toNat o.imm))
    else if LaneUB o then pure (List.replicate 32 (s.snapshot o.b.toNat))
    else match sh.b with
      | .v _ => readV o.b.toNat
      | _ => pure []
  let c ← if LaneUC o then pure (List.replicate 32 (s.snapshot o.c.toNat))
    else if sh.c = .v then readV o.c.toNat else pure []
  let d ← if sh.d = .vRead || sh.d = .vSource then readV o.d.toNat else pure []
  pure { m, path := s.cp.mask, a, b, c, d }

/-! ## Results -/

/-- What a control operation does to its path once the word is done (R81). -/
inductive PathNext where
  | step
  | goto (target : Nat)
  | branch (taken : BitVec 32) (target join : Nat)
  | join (j : Nat)
  | finish
  | kill (lanes : BitVec 32)
  | stay (wait : PathWait)
  deriving DecidableEq, Repr, Inhabited

/-- What an operation gives: the registers it writes, the flags of each lane, whether they can trap, and where its path goes. -/
structure LaneOut where
  writes : List VarPend := []
  flags : List Nat := []
  quiet : Bool := false
  next : PathNext := .step
  deriving Repr, Inhabited

/-- The effect of an operation on its operands. -/
abbrev LaneFx := LaneOp → LaneIn → Op LaneOut

/-- A whole v register written in the lanes of a mask. -/
def outV (d : BitVec 7) (m : BitVec 32) (vals : List Word) (keep : Word := 0) : VarPend :=
  { reg := .v d.toNat, lanes := m, keep, vals }

/-- A k register written in the lanes of a mask. -/
def outK (d : BitVec 7) (m bits : BitVec 32) : VarPend :=
  { reg := .k (d.toNat % 8), lanes := m, keep := 0, vals := [zext64 bits] }

/-- A q register written. -/
def outQ (d : BitVec 7) (x : Word) : VarPend := { reg := .q (d.toNat % 8), lanes := 0, keep := 0, vals := [x] }

/-- The mask of the lanes that a test selects. -/
def maskOf (f : Nat → Bool) : BitVec 32 := BitVec.ofNat 32 (laneList.foldl (fun n i => if f i then n + 2 ^ i else n) 0)

/-! ## The checks before an operation -/

/-- One operation of a word: its code, its fields in long form, its effect. -/
structure LaneSlot where
  code : LaneCode
  op : LaneOp
  fx : LaneFx

/-- A trap of a lane word (R90). -/
def laneTrap {α : Type} (cause : Nat) (lanes : BitVec 32) (addr : Word := 0) (info : Word := 0) : Op α :=
  throw (.trap { cause, addr, info, lanes, lane := true })

/-- Whether a pending result of the path stands at a register (R83). -/
def State.pendingAt (s : State) (r : RegRef) : Bool := s.cp.var.any fun x => x.reg == r

/-- The lanes of a mask that read a poisoned element of a register (R399). -/
def State.poisonLanes (s : State) (m : BitVec 32) (r : RegRef) : BitVec 32 :=
  let hit (u : ErrUnit) : Bool × Nat := match u, r with
    | .vReg w n l, .v k => (w == s.cw.uid && n == k && m.getLsbD l, l)
    | _, _ => (false, 0)
  match r with
  | .v _ => maskOf fun i => s.poison.any fun u => hit u == (true, i)
  | .k n => if s.poison.contains (.kReg s.cw.uid (.ofNat 3 n)) then m else 0
  | .q _ => 0

/-- The registers that an operation reads in the lanes of its mask: the exchange instructions read a in other lanes (R214), and MJ its B
registers in all of them (R279); their own entries check those. -/
def laneOwnReads (c : LaneCode) (o : LaneOp) : List RegRef :=
  match c with
  | .vperm => (if LaneUB o || LaneIMMB o then [] else [.v o.b.toNat]) ++ (laneKReads c o).map .k
  | .vbcast | .vshfl | .mj => (laneKReads c o).map .k
  | _ => laneReads c o

/-- The poisoned registers that an operation reads, with the lanes that read poison: a k register in the path's lanes, a v register in
the lanes of m, those of k[k] (R182, R399). -/
def State.slotPoison (s : State) (x : LaneSlot) : List (RegRef × BitVec 32) :=
  let m := if (laneShape x.code x.op 128).pred && x.op.k != 0 then s.cp.mask &&& s.cw.rk x.op.k else s.cp.mask
  (laneOwnReads x.code x.op).filterMap fun r =>
    let lanes := match r with
      | .k _ => s.poisonLanes s.cp.mask r
      | _ => s.poisonLanes m r
    if lanes = 0 then none else some (r, lanes)

/-- The poison check of a word that reads registers (R399); the store is 4 for v registers and 6 for others, by the first poisoned
register read. -/
def poisonCheck (slots : List LaneSlot) : Op Unit := do
  let s ← get
  match if s.poison.isEmpty then [] else slots.flatMap s.slotPoison with
  | [] => pure ()
  | (r, lanes) :: rest => laneTrap SOFT_ERROR_UNCORRECTED (rest.foldl (fun m x => m ||| x.2) lanes) 0 (match r with
    | .v _ => 4
    | _ => 6)

/-- The poison check of a word that reads register v[a] in lanes of its own choice, `src l` for lane l of the mask (R214, R399): HLANES holds the
lanes that read poison. -/
def exchangePoison (a : BitVec 7) (m : BitVec 32) (src : Nat → List Nat) : Op Unit := do
  let s ← get
  if s.poison.isEmpty then pure ()
  else
    let bad := s.poisonLanes (BitVec.allOnes 32) (.v a.toNat)
    let hit := maskOf fun l => m.getLsbD l && (src l).any fun x => bad.getLsbD x
    if hit ≠ 0 then laneTrap SOFT_ERROR_UNCORRECTED hit 0 4

/-- The CHK value of the running block (R85). -/
def State.blockChk (s : State) : Word := ((s.cw.eng.queue.head?).map (·.chk)).getD s.cw.chk

/-- STALL_SHORT of a word that reads registers (R84). -/
def shortCheck (reads : List RegRef) : Op Unit := do
  let s ← get
  if bitAt s.blockChk.toNat 0 && reads.any fun r => s.shortLanes r != 0 then laneTrap STALL_SHORT s.cp.mask

/-- The checks of a lane word before it executes: decode (R80, R90), the scoreboard (R83), STALL_SHORT, a decode cause of every word (R84,
R90), and poison. VPREF never traps after decoding (R254), so its own reads raise no poison. -/
def laneChecks (slots : List LaneSlot) : Op Unit := do
  let s ← get
  let w := s.cw
  let acc := ((s.team? w.team).map (·.acc)).getD 0
  if !(slots.all fun x => laneLegal x.code x.op w.vregs acc) then laneTrap ILLEGAL_OP s.cp.mask
  match slots with
  | [x, y] => if !pairLegal x.code x.op y.code y.op then laneTrap ILLEGAL_PAIR s.cp.mask
  | _ => pure ()
  let reads := slots.flatMap fun x => laneReads x.code x.op
  let writes := slots.flatMap fun x => laneWrites x.code x.op
  if (reads ++ writes).any s.pendingAt then stall
  shortCheck reads
  poisonCheck (slots.filter fun x => x.code != .vpref)

/-- Each operation of a word in turn, on operands read before any result is written (R81). -/
def laneEffects (slots : List LaneSlot) : Op (List (LaneSlot × LaneOut)) := do
  laneChecks slots
  let ins ← slots.mapM fun x => laneInputs x.code x.op
  (slots.zip ins).mapM fun p => do
    let out ← p.1.fx p.1.op p.2
    pure (p.1, out)

/-! ## What a word leaves behind -/

/-- A register element that a write replaces whole is no longer poisoned (R398). -/
def VarPend.cures (p : VarPend) (wave : Nat) : ErrUnit → Bool
  | .vReg w n l => w == wave && p.reg == .v n && p.lanes.getLsbD l && p.keep == 0
  | .kReg w n => w == wave && p.reg == .k n.toNat && p.lanes == BitVec.allOnes 32
  | .qReg w n => w == wave && p.reg == .q n.toNat
  | _ => false

/-- The fixed-latency results of a path once a later one replaces some lanes of a register (R83, R84). -/
def Path.replaced (p : Path) (r : RegRef) (lanes : BitVec 32) : List FixedPend :=
  (p.fixed.map fun x => if x.reg == r then { x with lanes := x.lanes &&& ~~~lanes } else x).filter fun x => x.lanes != 0

/-- A v register written with no MFENCE since (R247). -/
def Wave.loosen (w : Wave) (r : RegRef) : Wave :=
  match r with
  | .v n => if w.loose.contains n then w else { w with loose := n :: w.loose }
  | _ => w

/-- One result put into its register now, or held until its write (R83). -/
def State.putResult (s : State) (lat : Option Nat) (p : VarPend) : State :=
  let s := s.cure (p.cures s.cw.uid)
  let s := { s with cw := s.cw.loosen p.reg }
  let older := s.cp.replaced p.reg p.lanes
  match lat with
  | some n =>
    let s := s.dirtyReg s.cw.uid p.reg
    { s with cw := s.cw.writePend p, cp := { s.cp with fixed := { reg := p.reg, lanes := p.lanes, left := n } :: older } }
  | none => { s with cp := { s.cp with var := s.cp.var ++ [p], fixed := older } }

/-- STALL + 1 cycles of encoded distance pass (R84); 0 left is old enough. -/
def Path.age (p : Path) (n : Nat) : Path :=
  { p with fixed := (p.fixed.map fun x => { x with left := x.left - n }).filter fun x => 0 < x.left }

/-- Lanes removed from the paths that are set aside while a handler's block runs (R180, R212): a path without lanes ends, and the
fusions that are then due are made (R138, R139). -/
def State.killHeld (s : State) (lanes : BitVec 32) : State :=
  if s.cw.held.paths.isEmpty then s
  else
    let cut := fun (p : Path) =>
      let m := p.mask &&& ~~~lanes
      { p with mask := m, ended := p.ended || m = 0, wait := if m = 0 then .none else p.wait }
    let own := s.cp
    let held := { s.cw.held with paths := s.cw.held.paths.map cut }
    let t := { s with cp := .blank, cw := { s.cw with eng := held, held := .empty } }.joins
    { t with cp := own, cw := { t.cw with eng := s.cw.eng, held := t.cw.eng } }

/-- The lanes removed by LKILL (R212); a path without lanes ends (R139). A lane stays dead for the wave's life, so those that a handler's
block removes leave the held paths too. -/
def State.killLanes (s : State) (lanes : BitVec 32) : State :=
  let s := s.killHeld lanes
  let s := { s with cw := { s.cw with live := s.cw.live &&& ~~~lanes },
                    cp := { s.cp with mask := s.cp.mask &&& ~~~lanes, lpc := s.cp.lpc + 1, wait := .none } }
  if s.cp.mask = 0 then s.endPath else s

/-- A path goes on as its word says (R207 to R212). -/
def State.pathGoes (s : State) (n : PathNext) : State :=
  match n with
  | .step => { s with cp := { s.cp with lpc := s.cp.lpc + 1, wait := .none } }
  | .goto t => { s with cp := { s.cp with lpc := t, wait := .none, fixed := [] } }
  | .branch _ _ _ => s
  | .join j =>
    let (ord, s) := s.fresh
    ({ s with cp := { s.cp with wait := .join j ord } }).joins
  | .finish => s.endPath
  | .kill lanes => s.killLanes lanes
  | .stay wait => { s with cp := { s.cp with wait } }

/-- The flags of a word: all of them, and the lanes in which an enabled one was raised (R48, R49). -/
def flagsOf (outs : List LaneOut) : Nat := (outs.flatMap (·.flags)).foldl (· ||| ·) 0

def flagLanes (outs : List LaneOut) (enabled : Nat) : BitVec 32 :=
  maskOf fun i => outs.any fun o => !o.quiet && o.flags.getD i 0 &&& enabled != 0

/-- The control operation of a word, if it has one; a plain word steps. -/
def wordNext (outs : List LaneOut) : PathNext := ((outs.map (·.next)).find? (· != .step)).getD .step

/-- A rendezvous move is over: the wave waits no longer, unless its scalar stream or another path does (R133). -/
def State.slotLeft (s : State) : State :=
  if s.cw.st = .waiting && s.cw.wait.isNone && !s.cw.atSlot then { s with cw := { s.cw with st := .resident } } else s

/-- Whether a path goes on to a next word; one that stays at its word takes its STALL when it leaves it. -/
def PathNext.leaves : PathNext → Bool
  | .stay _ => false
  | _ => true

/-- A lane word performed: results X before Y, flags, FP_TRAP (R49), then its path goes on (R81). -/
def State.laneDone (s : State) (stall : Nat) (outs : List (LaneSlot × LaneOut)) : State :=
  let s := outs.foldl (fun (s : State) o =>
    o.2.writes.foldl (fun (s : State) p => s.putResult (laneLatency o.1.code o.1.op) p) s) s
  let outs := outs.map (·.2)
  let flags := flagsOf outs
  let enabled := if s.cw.level == .handler then 0 else bitsOf s.cw.fmode.toNat 8 5
  let lanes := flagLanes outs enabled
  let s := { s with cw := { s.cw with fstat := s.cw.fstat ||| BitVec.ofNat 64 flags, lwords := s.cw.lwords + 1 } }
  let s := if lanes = 0 then s else
    s.pendLane s.cw.uid s.cp.id (s.cw.level == .handler) s.word { cause := FP_TRAP, info := .ofNat 64 flags, lanes }
  let next := wordNext outs
  let s := if next.leaves then { s with cp := s.cp.age (stall + 1) } else s
  (s.pathGoes next).slotLeft

/-- A lane word that traps is not performed (R8, R90); a page fault of REASON 0 in an open region aborts it (R353). -/
def State.laneTrapped (s : State) (t : Trap) : State :=
  match s.cw.region with
  | some r =>
    if t.missing then s.abortRegion r t
    else s.pendLane s.cw.uid s.cp.id (s.cw.level == .handler) s.word t
  | none => s.pendLane s.cw.uid s.cp.id (s.cw.level == .handler) s.word t

/-- The released joint operations that the executing wave takes part in under a tag, 16 for every tag (R288). -/
def State.openProducts (s : State) (tag : Nat) : List Nat :=
  (s.jointOps.filter fun j => j.members.any fun a => a.wave == s.cw.uid && (tag == 16 || a.tag == tag)).map (·.uid)

/-- A lane word that waits issues again; a rendezvous or FIFO wait keeps its place and its count (R222, R232), an MWAIT the operations
that it found (R288). -/
def State.laneWaits (s : State) (kind : WaitKind) (obj : Nat) : State :=
  match kind, s.cp.wait with
  | .slot, .slot _ _ _ _ | .fifo, .fifo _ _ => s
  | .slot, _ =>
    let (ord, s) := s.fresh
    { s with cp := { s.cp with wait := .slot obj (s.time s.cw.dev) ord s.word },
             cw := { s.cw with st := if s.cw.st = .resident then .waiting else s.cw.st } }
  | .fifo, _ =>
    let (ord, s) := s.fresh
    { s with cp := { s.cp with wait := .fifo obj ord } }
  | .batch, .product _ => s
  | .batch, _ => { s with cp := { s.cp with wait := .product (s.openProducts obj) } }
  | _, _ => s

/-- The meaning of a lane word of one or two operations. -/
def runLane (stall : Nat) (slots : List LaneSlot) (s : State) : Host.Outcome State Fault Refusal :=
  match (laneEffects slots).run s with
  | .ok outs s' => .next (s'.laneDone stall outs)
  | .error .finished s' => .next s'
  | .error (.trap t) _ => .next (s.laneTrapped { t with lanes := if t.lane then t.lanes else s.cp.mask })
  | .error (.wait kind obj _ _) s' => .next ({ s with rimReqs := s'.rimReqs, nextUid := s'.nextUid }.laneWaits kind obj)

/-- The meaning of a lone operation. -/
def runOne (c : LaneCode) (fx : LaneFx) (o : LaneOp) (s : State) : Host.Outcome State Fault Refusal :=
  runLane o.stall.toNat [{ code := c, op := o, fx }] s

end Sys2Proof.Machine
end

