-- ==== Sys2Proof/Machine/Trans.lean ====
section
/-!
DEFINITION. The transcendental operations of R53 and R199. The manual bounds their error and does not fix the result: a high
precision reference value gives the results inside the bound, and `Config.approxPick` takes one of them (log entry 8).
-/

namespace Sys2Proof.Machine

/-! ## Reference values -/

/-- A reference magnitude m × 2^e with its sign; `exact` when it is the value itself, else it lies strictly between two
candidates' neighbours. -/
structure Ref where
  neg : Bool
  m : Nat
  e : Int
  exact : Bool
  deriving DecidableEq, Repr, Inhabited

/-- The fractional bits of the fixed-point values. -/
def refBits : Nat := 320

/-- π with 320 fractional bits. -/
def refPi : Nat := 0x3243f6a8885a308d313198a2e03707344a4093822299f31d0082efa98ec4e6c89452821e638d01377

/-- ln 2 with 320 fractional bits. -/
def refLn2 : Nat := 0xb17217f7d1cf79abc9e3b39803f2f6af40f343267298b62d8a0d175b8baafa2be7b876206debac98

/-- The product of two fixed-point values. -/
def fxMul (x y : Nat) : Nat := x * y / 2 ^ refBits

/-- The terms of the exponential series from term `n` on. -/
def expSeries (x term n : Nat) : Nat → Nat
  | 0 => 0
  | fuel + 1 => term + expSeries x (fxMul term x / (n + 1)) (n + 1) fuel

/-- e^x for a fixed-point x below 1. -/
def refExp (x : Nat) : Nat := expSeries x (2 ^ refBits) 0 70

/-- x as a signed fixed-point value; bits below the fixed point are dropped. -/
def toFixed (m : Nat) (e : Int) : Nat :=
  if 0 ≤ e + refBits then m * 2 ^ (e + refBits).toNat else m / 2 ^ (-(e + refBits)).toNat

/-- 2^x. -/
def refExp2 (neg : Bool) (m : Nat) (e : Int) : Ref :=
  let x : Int := if neg then -(toFixed m e : Int) else toFixed m e
  let i := x / 2 ^ refBits
  let f := (x % 2 ^ refBits).toNat
  { neg := false, m := refExp (fxMul f refLn2), e := i - refBits, exact := f == 0 }

/-- `n` fractional bits of the binary logarithm of a fixed-point value in [1, 2), by squaring. -/
def log2Bits (y acc : Nat) : Nat → Nat
  | 0 => acc
  | n + 1 =>
    let y2 := fxMul y y
    if 2 ^ (refBits + 1) ≤ y2 then log2Bits (y2 / 2) (2 * acc + 1) n else log2Bits y2 (2 * acc) n

/-- The binary logarithm of a positive value. -/
def refLog2 (m : Nat) (e : Int) : Ref :=
  let l := bitLen m - 1
  let frac := log2Bits (m * 2 ^ (refBits - l)) 0 160
  let v : Int := (e + l) * 2 ^ 160 + frac
  { neg := v < 0, m := v.natAbs, e := -160, exact := m == 2 ^ l }

/-- The alternating series of the sine (from `term` = x, `n` = 1) or the cosine (from `term` = 1, `n` = 0). -/
def trigSeries (x2 term n : Nat) : Nat → Int
  | 0 => 0
  | fuel + 1 => (term : Int) - trigSeries x2 (fxMul term x2 / ((n + 1) * (n + 2))) (n + 2) fuel

/-- The sine of |x|, or its cosine, with the sign of the quadrant. The value given lies just below the series, which no sine or
cosine of a non-zero binary number equals. -/
def refSin (cosine neg : Bool) (m : Nat) (e : Int) : Ref :=
  let x := toFixed m e
  let half := refPi / 2
  let quad := x / half + (if cosine then 1 else 0)
  let r := x % half
  let v := if quad % 2 = 1 then trigSeries (fxMul r r) (2 ^ refBits) 0 60 else trigSeries (fxMul r r) r 1 60
  { neg := (2 ≤ quad % 4) != (neg && !cosine), m := 2 * v.natAbs - 1, e := -(refBits + 1 : Int), exact := false }

/-- The hyperbolic tangent: (1 − t) / (1 + t) with t = e^(−2x), and 1 beyond the reach of the fixed point. -/
def refTanh (neg : Bool) (m : Nat) (e : Int) : Ref :=
  let x := toFixed m e
  let one := 2 ^ refBits
  let y := fxMul (2 * x) (one * one / refLn2)
  let t := if 300 < y / one then 0 else (refExp (fxMul (one - y % one) refLn2) / 2) / 2 ^ (y / one)
  let num := if x < 2 ^ (refBits - 100) then x * 2 else one - t
  let den := if x < 2 ^ (refBits - 100) then 2 * one else one + t
  { neg, m := 2 * (num * one / den) - 1, e := -(refBits + 1 : Int), exact := false }

/-- 1 / x. -/
def refRcp (neg : Bool) (m : Nat) (e : Int) : Ref :=
  let (q, e', s) := divMant 1 0 m e 100
  { neg, m := 2 * q + (if s then 1 else 0), e := e' - 1, exact := !s }

/-- 1 / √x. -/
def refRsq (m : Nat) (e : Int) : Ref :=
  let (q, e', s) := divMant 1 0 m e 200
  let (r, e'', t) := sqrtMant q e' 100
  { neg := false, m := 2 * r + (if s || t then 1 else 0), e := e'' - 1, exact := !(s || t) }

/-! ## A result inside the bound -/

/-- The FP32 codes within `k` units in the last place of a reference magnitude: `c` is the code just below or at it. Across a power of two a
unit is that of the code on its side, so that neighbouring codes are counted: R53 does not define the unit there (DESIGN CHOICE, log entry
8). -/
def withinUlps (c k : Nat) (exact : Bool) : List Nat :=
  (List.range (2 * k + 1)).filterMap fun i =>
    let x := c + i
    if i = 0 && !exact then none else if k ≤ x && x - k ≤ fp32.maxCode then some (x - k) else none

/-- A result of operation `op` for the operand `x`, within `k` units in the last place of a reference value. -/
def refRound (op x k : Nat) (env : Env) (r : Ref) : FRes :=
  let near := roundMag fp32 { env with mode := 0, sat := env.sat, ftz := false } r.neg r.m r.e false
  if near.flags &&& OF != 0 then near
  else
    let c := (roundMag fp32 { Env.rn with mode := 1 } r.neg r.m r.e false).code % 2 ^ 31
    let codes := withinUlps c k r.exact
    let code := codes.getD (Config.approxPick op (.ofNat 32 x) % codes.length) c
    let inexact := !r.exact || code != c
    if code < 2 ^ 23 && env.ftz && code != 0 then { code := fp32.signed r.neg 0, flags := UF ||| IX }
    else { code := fp32.signed r.neg code, flags := if inexact then (if code < 2 ^ 23 then UF ||| IX else IX) else 0 }

/-- The operations of R199 that the table of R53 bounds. -/
inductive TOp where
  | rcp | rsq | exp2 | log2 | sin | cos | tanh
  deriving DecidableEq, Repr, Inhabited

/-- Their numbers in `Config.approxPick`. -/
def TOp.num : TOp → Nat
  | .rcp => 0
  | .rsq => 1
  | .exp2 => 2
  | .log2 => 3
  | .sin => 4
  | .cos => 5
  | .tanh => 6

/-- A sine or cosine beyond the domain: an unspecified value confined to [−1, 1] (R53). -/
def beyondTrig (op : TOp) (x : Nat) (env : Env) : FRes :=
  let y := (Config.trigBeyond op.num (.ofNat 32 x)).toNat
  let mag := min (y % 2 ^ 31) 0x3F800000
  let tiny := mag < 2 ^ 23
  { code := fp32.signed (bitAt y 31) (if tiny && env.ftz then 0 else mag), flags := if tiny then UF ||| IX else IX }

/-- An exact result. -/
def exactRes (code : Nat) : FRes := { code, flags := 0 }

/-- A result within the bound where the exact value is 1: the table of R53 lists no exact case there (log entry 8). -/
def nearOne (op : TOp) (env : Env) (x : Nat) : FRes := refRound op.num x 2 env { neg := false, m := 1, e := 0, exact := true }

/-- A result within the bound where the exact value is 0: a zero of either sign, or a value 1 or 2 units in the last place from it (log
entry 8). -/
def nearZero (op : TOp) (env : Env) (x : Nat) : FRes :=
  let i := Config.approxPick op.num (.ofNat 32 x) % 6
  let neg := i % 2 == 1
  if i / 2 = 0 then exactRes (fp32.signed neg 0) else { code := fp32.signed neg (if env.ftz then 0 else i / 2), flags := UF ||| IX }

/-- One FP32 operation: the special results of R53, then the bounded result. -/
def trans32 (op : TOp) (env : Env) (x : Nat) : FRes :=
  let one := 0x3F800000
  let dz (neg : Bool) : FRes :=
    let r := infRes fp32 env neg
    { r with flags := r.flags ||| DZ }
  match flushIn fp32 env.ftz (unpack fp32 x) with
  | .nan s => nanRes fp32 s
  | .inf neg =>
    match op with
    | .rcp => exactRes (fp32.signed neg 0)
    | .rsq => if neg then nanRes fp32 true else exactRes 0
    | .exp2 =>
      if neg then exactRes 0
      else
        let r := infRes fp32 env false
        { r with flags := r.flags ||| OF }
    | .log2 => if neg then nanRes fp32 true else infRes fp32 env false
    | .sin | .cos => nanRes fp32 true
    | .tanh => exactRes (fp32.signed neg one)
  | .fin neg m e =>
    if m = 0 then
      match op with
      | .rcp | .rsq => dz neg
      | .exp2 | .cos => nearOne op env x
      | .log2 => dz true
      | .sin | .tanh => nearZero op env x
    else
      let big := 13 < e + bitLen m || (e + bitLen m == 13 && m != 2 ^ (bitLen m - 1))
      match op with
      | .rcp => refRound op.num x 1 env (refRcp neg m e)
      | .rsq => if neg then nanRes fp32 true else refRound op.num x 1 env (refRsq m e)
      | .exp2 =>
        if !neg && 7 < e + bitLen m then overflow fp32 env false
        else if neg && 8 < e + bitLen m then refRound op.num x 2 env { neg := false, m := 1, e := -200, exact := false }
        else refRound op.num x 2 env (refExp2 neg m e)
      | .log2 =>
        if neg then nanRes fp32 true
        else if e + bitLen m == 1 && m == 2 ^ (bitLen m - 1) then nearZero op env x
        else refRound op.num x 2 env (refLog2 m e)
      | .sin => if big then beyondTrig op x env else refRound op.num x 2 env (refSin false neg m e)
      | .cos => if big then beyondTrig op x env else refRound op.num x 2 env (refSin true neg m e)
      | .tanh => refRound op.num x 2 env (refTanh neg m e)

/-- The operation in a format: FP32, or FP32 and then RN to FP16 or BF16, with the flags of both (R53). FTZ flushes the FP32 result too before
it is rounded to the narrow type: the manual does not say (DESIGN CHOICE, log entry 8). -/
def trans (f : Fmt) (op : TOp) (env : Env) (x : Nat) : FRes :=
  if f.bits = 32 then trans32 op env x
  else
    let wide := pack fp32 Env.rn (flushIn f env.ftz (unpack f x))
    let r := trans32 op { env with sat := false } wide.code
    let n := pack f { env with mode := 0 } (unpack fp32 r.code)
    { code := n.code, flags := wide.flags ||| r.flags ||| n.flags }

end Sys2Proof.Machine
end

