-- ==== Sys2Proof/Machine/LaneArith.lean ====
section
/-!
DEFINITION. The lane instructions of classes A, F and T and the conversions (R182 to R206). Each has its effect `fx…` and its
meaning `exec…`.
-/

namespace Sys2Proof.Machine

/-! ## Lifting an operation over lanes and sub-elements -/

/-- An effect that gives every lane of the mask a 64-bit value and flags. -/
def fxLanes (f : Wave → LaneOp → Nat → Word → Word → Word → Word → Word × Nat) : LaneFx := fun o i => do
  let w := (← get).cw
  let rs := laneList.map fun l =>
    if i.m.getLsbD l then f w o l (laneOf i.a l) (laneOf i.b l) (laneOf i.c l) (laneOf i.d l) else (0, 0)
  pure { writes := [outV o.d i.m (rs.map (·.1))], flags := rs.map (·.2) }

/-- An effect that gives every lane of the mask a bit of a k register, and flags. -/
def fxBits (f : Wave → LaneOp → Word → Word → Bool × Nat) : LaneFx := fun o i => do
  let w := (← get).cw
  let rs := laneList.map fun l => if i.m.getLsbD l then f w o (laneOf i.a l) (laneOf i.b l) else (false, 0)
  pure { writes := [outK o.d i.m (maskOf fun l => (rs.getD l (false, 0)).1)], flags := rs.map (·.2) }

/-- Results of sub-elements put together, with their flags. -/
def packSubs (w : Nat) (rs : List FRes) : Word × Nat := (ofSubs w (rs.map (·.code)), (rs.map (·.flags)).foldl (· ||| ·) 0)

/-- The integer type of an operation. -/
def laneInt (o : LaneOp) : ITy :=
  match subTy o.ty.toNat with
  | some (.int t) => t
  | _ => { bits := tyWidth o.ty.toNat, sgn := false }

/-- The floating-point format of an operation. -/
def laneFmt (o : LaneOp) : Fmt :=
  match subTy o.ty.toNat with
  | some (.flt f) => f
  | _ => fp64

/-- A result of an integer operation, wrapped or clamped (R43, R54). -/
def ITy.fit (t : ITy) (sat : Bool) (x : Int) : Nat := if sat then t.clamp x else t.wrap x

/-- A one-source integer operation on the values of sub-elements. -/
def fxInt1 (f : ITy → Bool → Int → Nat) : LaneFx := fxLanes fun _ o _ a _ _ _ =>
  let t := laneInt o
  (ofSubs t.bits ((subs t.bits a).map fun x => f t (LaneSat o) (t.val x)), 0)

/-- A two-source integer operation on the values of sub-elements. -/
def fxInt2 (f : ITy → Bool → Int → Int → Nat) : LaneFx := fxLanes fun _ o _ a b _ _ =>
  let t := laneInt o
  (ofSubs t.bits (List.zipWith (fun x y => f t (LaneSat o) (t.val x) (t.val y)) (subs t.bits a) (subs t.bits b)), 0)

/-- A two-source operation on the bits of sub-elements: width, A, B. -/
def fxBit2 (f : Nat → Nat → Nat → Nat) : LaneFx := fxLanes fun _ o _ a b _ _ =>
  let w := tyWidth o.ty.toNat
  (ofSubs w (List.zipWith (f w) (subs w a) (subs w b)), 0)

/-- A one-source operation on the bits of sub-elements. -/
def fxBit1 (f : Nat → Nat → Nat) : LaneFx := fxLanes fun _ o _ a _ _ _ =>
  let w := tyWidth o.ty.toNat
  (ofSubs w ((subs w a).map (f w)), 0)

/-! ## Integer arithmetic (R186, R187) -/

/-- VADD (R186). -/
def fxVadd : LaneFx := fxInt2 fun t sat x y => t.fit sat (x + y)
def execVadd (o : LaneOp) (s : State) : Host.Outcome State Fault Refusal := runOne .vadd fxVadd o s

/-- VSUB (R186). -/
def fxVsub : LaneFx := fxInt2 fun t sat x y => t.fit sat (x - y)
def execVsub (o : LaneOp) (s : State) : Host.Outcome State Fault Refusal := runOne .vsub fxVsub o s

/-- VMUL (R186). -/
def fxVmul : LaneFx := fxInt2 fun t sat x y => t.fit sat (x * y)
def execVmul (o : LaneOp) (s : State) : Host.Outcome State Fault Refusal := runOne .vmul fxVmul o s

/-- VMULH (R186): bits [2w − 1 : w] of the exact product. -/
def fxVmulh : LaneFx := fxInt2 fun t _ x y => t.wrap (x * y / 2 ^ t.bits)
def execVmulh (o : LaneOp) (s : State) : Host.Outcome State Fault Refusal := runOne .vmulh fxVmulh o s

/-- VMAD (R186): formed exactly, then wrapped or clamped once. -/
def fxVmad : LaneFx := fxLanes fun _ o _ a b c _ =>
  let t := laneInt o
  let ab := List.zipWith (fun x y => t.val x * t.val y) (subs t.bits a) (subs t.bits b)
  (ofSubs t.bits (List.zipWith (fun p z => t.fit (LaneSat o) (p + t.val z)) ab (subs t.bits c)), 0)
def execVmad (o : LaneOp) (s : State) : Host.Outcome State Fault Refusal := runOne .vmad fxVmad o s

/-- VABS (R186): the minimum gives itself, or the maximum under .sat. -/
def fxVabs : LaneFx := fxInt1 fun t sat x => t.fit sat (if x < 0 then -x else x)
def execVabs (o : LaneOp) (s : State) : Host.Outcome State Fault Refusal := runOne .vabs fxVabs o s

/-- VNEG (R186). -/
def fxVneg : LaneFx := fxInt1 fun t sat x => t.fit sat (-x)
def execVneg (o : LaneOp) (s : State) : Host.Outcome State Fault Refusal := runOne .vneg fxVneg o s

/-- VMIN (R186). -/
def fxVmin : LaneFx := fxInt2 fun t _ x y => t.wrap (if x ≤ y then x else y)
def execVmin (o : LaneOp) (s : State) : Host.Outcome State Fault Refusal := runOne .vmin fxVmin o s

/-- VMAX (R186). -/
def fxVmax : LaneFx := fxInt2 fun t _ x y => t.wrap (if x ≤ y then y else x)
def execVmax (o : LaneOp) (s : State) : Host.Outcome State Fault Refusal := runOne .vmax fxVmax o s

/-- VAVG (R186): the floor of half the sum and one, formed exactly. -/
def fxVavg : LaneFx := fxInt2 fun t _ x y => t.wrap ((x + y + 1) / 2)
def execVavg (o : LaneOp) (s : State) : Host.Outcome State Fault Refusal := runOne .vavg fxVavg o s

/-- VSAD (R187): C and the sum of absolute differences, modulo 2^64. -/
def fxVsad : LaneFx := fxLanes fun _ o _ a b c _ =>
  let t := laneInt o
  let ds := List.zipWith (fun x y => (t.val x - t.val y).natAbs) (subs t.bits a) (subs t.bits b)
  (.ofNat 64 (c.toNat + ds.sum), 0)
def execVsad (o : LaneOp) (s : State) : Host.Outcome State Fault Refusal := runOne .vsad fxVsad o s

/-- VDOT4 (R187): two dot products of four, each added to a 32-bit half of C. -/
def fxVdot4 : LaneFx := fxLanes fun _ o _ a b c _ =>
  let t := laneInt o
  let r : ITy := { bits := 32, sgn := t.sgn }
  let ps := List.zipWith (fun x y => t.val x * t.val y) (subs 8 a) (subs 8 b)
  let half (h : Nat) : Nat := r.fit (LaneSat o) (r.val (bitsOf c.toNat (32 * h) 32) + ((ps.drop (4 * h)).take 4).foldl (· + ·) 0)
  (ofSubs 32 [half 0, half 1], 0)
def execVdot4 (o : LaneOp) (s : State) : Host.Outcome State Fault Refusal := runOne .vdot4 fxVdot4 o s

/-! ## Logic, shifts, bit fields (R188, R189) -/

/-- VAND (R188). -/
def fxVand : LaneFx := fxLanes fun _ _ _ a b _ _ => (a &&& b, 0)
def execVand (o : LaneOp) (s : State) : Host.Outcome State Fault Refusal := runOne .vand fxVand o s

/-- VOR (R188). -/
def fxVor : LaneFx := fxLanes fun _ _ _ a b _ _ => (a ||| b, 0)
def execVor (o : LaneOp) (s : State) : Host.Outcome State Fault Refusal := runOne .vor fxVor o s

/-- VXOR (R188). -/
def fxVxor : LaneFx := fxLanes fun _ _ _ a b _ _ => (a ^^^ b, 0)
def execVxor (o : LaneOp) (s : State) : Host.Outcome State Fault Refusal := runOne .vxor fxVxor o s

/-- VANDN (R188). -/
def fxVandn : LaneFx := fxLanes fun _ _ _ a b _ _ => (a &&& ~~~b, 0)
def execVandn (o : LaneOp) (s : State) : Host.Outcome State Fault Refusal := runOne .vandn fxVandn o s

/-- VNOT (R188). -/
def fxVnot : LaneFx := fxLanes fun _ _ _ a _ _ _ => (~~~a, 0)
def execVnot (o : LaneOp) (s : State) : Host.Outcome State Fault Refusal := runOne .vnot fxVnot o s

/-- VSHL (R188): the amount is masked to w − 1 (R54). -/
def fxVshl : LaneFx := fxBit2 fun w x y => x * 2 ^ (y % w)
def execVshl (o : LaneOp) (s : State) : Host.Outcome State Fault Refusal := runOne .vshl fxVshl o s

/-- VSHR (R188). -/
def fxVshr : LaneFx := fxBit2 fun w x y => x / 2 ^ (y % w)
def execVshr (o : LaneOp) (s : State) : Host.Outcome State Fault Refusal := runOne .vshr fxVshr o s

/-- VSRA (R188): copies of bit w − 1 shift in, for I and U types alike. -/
def fxVsra : LaneFx := fxBit2 fun w x y =>
  let t : ITy := { bits := w, sgn := true }
  t.wrap (t.val x / 2 ^ (y % w))
def execVsra (o : LaneOp) (s : State) : Host.Outcome State Fault Refusal := runOne .vsra fxVsra o s

/-- VROL (R188). -/
def fxVrol : LaneFx := fxBit2 fun w x y => x * 2 ^ (y % w) + x / 2 ^ (w - y % w)
def execVrol (o : LaneOp) (s : State) : Host.Outcome State Fault Refusal := runOne .vrol fxVrol o s

/-- VCLZ (R188). -/
def fxVclz : LaneFx := fxBit1 fun w x => clzN x w
def execVclz (o : LaneOp) (s : State) : Host.Outcome State Fault Refusal := runOne .vclz fxVclz o s

/-- VPOPC (R188). -/
def fxVpopc : LaneFx := fxBit1 fun w x => popN x w
def execVpopc (o : LaneOp) (s : State) : Host.Outcome State Fault Refusal := runOne .vpopc fxVpopc o s

/-- Position and length of the field of VBFX and VBFI (R189). -/
def bfPos (o : LaneOp) : Nat := bitsOf o.imm.toNat 8 6
def bfLen (o : LaneOp) : Nat := bitsOf o.imm.toNat 0 6 + 1

/-- VBFX (R189). -/
def fxVbfx : LaneFx := fxLanes fun _ o _ a _ _ _ =>
  let t := laneInt o
  let f : ITy := { bits := bfLen o, sgn := t.sgn }
  (ofSubs t.bits ((subs t.bits a).map fun x => t.wrap (f.val (bitsOf x (bfPos o) (bfLen o)))), 0)
def execVbfx (o : LaneOp) (s : State) : Host.Outcome State Fault Refusal := runOne .vbfx fxVbfx o s

/-- VBFI (R189): D with its field replaced by the low bits of A. -/
def fxVbfi : LaneFx := fxLanes fun _ o _ a _ _ d =>
  let w := tyWidth o.ty.toNat
  let ins (x y : Nat) : Nat := y - bitsOf y (bfPos o) (bfLen o) * 2 ^ bfPos o + x % 2 ^ bfLen o * 2 ^ bfPos o
  (ofSubs w (List.zipWith ins (subs w a) (subs w d)), 0)
def execVbfi (o : LaneOp) (s : State) : Host.Outcome State Fault Refusal := runOne .vbfi fxVbfi o s

/-! ## Moves, selects, comparisons (R190, R191) -/

/-- VSEL (R190). -/
def fxVsel : LaneFx := fxLanes fun _ _ _ a b c _ => ((a &&& c) ||| (b &&& ~~~c), 0)
def execVsel (o : LaneOp) (s : State) : Host.Outcome State Fault Refusal := runOne .vsel fxVsel o s

/-- VMOV (R190). -/
def fxVmov : LaneFx := fxLanes fun _ _ _ a _ _ _ => (a, 0)
def execVmov (o : LaneOp) (s : State) : Host.Outcome State Fault Refusal := runOne .vmov fxVmov o s

/-- VMOVI (R190): the operand that R77 forms from imm32. -/
def fxVmovi : LaneFx := fxLanes fun _ o _ _ _ _ _ => (immOperand o.ty.toNat o.imm, 0)
def execVmovi (o : LaneOp) (s : State) : Host.Outcome State Fault Refusal := runOne .vmovi fxVmovi o s

/-- VLANEID (R190). -/
def fxVlaneid : LaneFx := fxLanes fun _ o l _ _ _ _ =>
  let n := tyCount o.ty.toNat
  (ofSubs (tyWidth o.ty.toNat) ((List.range n).map fun e => l * n + e), 0)
def execVlaneid (o : LaneOp) (s : State) : Host.Outcome State Fault Refusal := runOne .vlaneid fxVlaneid o s

/-- The conditions of R191. -/
def intCond (c : Nat) (x y : Int) : Bool :=
  match c with
  | 0 => x == y
  | 1 => x != y
  | 2 => x < y
  | 3 => x ≤ y
  | 4 => y < x
  | _ => y ≤ x

/-- The condition of every sub-element of two integer operands. -/
def intCmp (o : LaneOp) (a b : Word) : List Bool :=
  let t := laneInt o
  List.zipWith (fun x y => intCond (LaneX o % 8) (t.val x) (t.val y)) (subs t.bits a) (subs t.bits b)

/-- All ones or zero in each sub-element. -/
def maskSubs (w : Nat) (bs : List Bool) : Word := ofSubs w (bs.map fun b => if b then 2 ^ w - 1 else 0)

/-- The bit of VCMPK and VFCMPK: every sub-element, or at least one with .any (R191). -/
def laneBit (o : LaneOp) (bs : List Bool) : Bool := if 8 ≤ LaneX o % 16 then bs.any id else bs.all id

/-- VCMP (R191). -/
def fxVcmp : LaneFx := fxLanes fun _ o _ a b _ _ => (maskSubs (tyWidth o.ty.toNat) (intCmp o a b), 0)
def execVcmp (o : LaneOp) (s : State) : Host.Outcome State Fault Refusal := runOne .vcmp fxVcmp o s

/-- VCMPK (R191). -/
def fxVcmpk : LaneFx := fxBits fun _ o a b => (laneBit o (intCmp o a b), 0)
def execVcmpk (o : LaneOp) (s : State) : Host.Outcome State Fault Refusal := runOne .vcmpk fxVcmpk o s

/-! ## Floating-point arithmetic (R192 to R198) -/

/-- FMODE.FTZ and FMODE.SAT (R45). -/
def Wave.ftz (w : Wave) : Bool := bitAt w.fmode.toNat 3
def Wave.fsat (w : Wave) : Bool := bitAt w.fmode.toNat 4

/-- How an operation rounds: its mode or FMODE.RND, where DR gives RN unless the operation may dither (R38, R76), and the
saturation of R43. -/
def laneEnv (w : Wave) (o : LaneOp) (dither : Bool) : Env :=
  let m := if LaneRX o then LaneRM o else bitsOf w.fmode.toNat 0 3
  { mode := if m == 5 && !dither then 0 else m, sat := LaneSat o || w.fsat, ftz := w.ftz, entry := 0 }

/-- The Bayer entry of a lane and a destination sub-element (R41). -/
def Env.at (env : Env) (w : Wave) (lane e : Nat) : Env := { env with entry := bayer (lane % 8) (e % 8) w.dphase.toNat }

/-- A sub-element as a value, subnormals flushed under FTZ (R40). -/
def fin (f : Fmt) (ftz : Bool) (x : Nat) : FNum := flushIn f ftz (unpack f x)

/-- A two-source floating-point operation. -/
def fxFlt2 (g : Fmt → Env → FNum → FNum → FRes) : LaneFx := fxLanes fun w o _ a b _ _ =>
  let f := laneFmt o
  let env := laneEnv w o false
  packSubs f.bits (List.zipWith (fun x y => g f env (fin f env.ftz x) (fin f env.ftz y)) (subs f.bits a) (subs f.bits b))

/-- A one-source floating-point operation. -/
def fxFlt1 (g : Fmt → Env → FNum → FRes) : LaneFx := fxLanes fun w o _ a _ _ _ =>
  let f := laneFmt o
  let env := laneEnv w o false
  packSubs f.bits ((subs f.bits a).map fun x => g f env (fin f env.ftz x))

/-- VFADD (R193). -/
def fxVfadd : LaneFx := fxFlt2 fadd
def execVfadd (o : LaneOp) (s : State) : Host.Outcome State Fault Refusal := runOne .vfadd fxVfadd o s

/-- VFSUB (R193). -/
def fxVfsub : LaneFx := fxFlt2 fun f env x y => fadd f env x y.negate
def execVfsub (o : LaneOp) (s : State) : Host.Outcome State Fault Refusal := runOne .vfsub fxVfsub o s

/-- VFMUL (R193). -/
def fxVfmul : LaneFx := fxFlt2 fmul
def execVfmul (o : LaneOp) (s : State) : Host.Outcome State Fault Refusal := runOne .vfmul fxVfmul o s

/-- VFMA (R52, R193). -/
def fxVfma : LaneFx := fxLanes fun w o _ a b c _ =>
  let f := laneFmt o
  let env := laneEnv w o false
  let ab := List.zip (subs f.bits a) (subs f.bits b)
  packSubs f.bits (List.zipWith (fun p z => ffma f env (fin f env.ftz p.1) (fin f env.ftz p.2) (fin f env.ftz z)) ab
    (subs f.bits c))
def execVfma (o : LaneOp) (s : State) : Host.Outcome State Fault Refusal := runOne .vfma fxVfma o s

/-- A code read under FTZ: a subnormal gives the zero of its sign (R40). -/
def flushCode (f : Fmt) (ftz : Bool) (x : Nat) : Nat :=
  if ftz && f.flushes && x % 2 ^ f.magBits < 2 ^ f.fb then x / 2 ^ f.magBits * 2 ^ f.magBits else x

/-- VFMIN and VFMAX of two codes (R52, R194). -/
def minMax (max : Bool) (f : Fmt) (ftz : Bool) (x y : Nat) : FRes :=
  let a := fin f ftz x
  let b := fin f ftz y
  let iv := if a.isSnan || b.isSnan then IV else 0
  if a.isNan && b.isNan then { code := f.nanCode, flags := iv }
  else { code := flushCode f ftz (if takesFirst max a b then x else y), flags := iv }

/-- VFMIN (R194). -/
def fxVfmin : LaneFx := fxLanes fun w o _ a b _ _ =>
  let f := laneFmt o
  packSubs f.bits (List.zipWith (minMax false f w.ftz) (subs f.bits a) (subs f.bits b))
def execVfmin (o : LaneOp) (s : State) : Host.Outcome State Fault Refusal := runOne .vfmin fxVfmin o s

/-- VFMAX (R194). -/
def fxVfmax : LaneFx := fxLanes fun w o _ a b _ _ =>
  let f := laneFmt o
  packSubs f.bits (List.zipWith (minMax true f w.ftz) (subs f.bits a) (subs f.bits b))
def execVfmax (o : LaneOp) (s : State) : Host.Outcome State Fault Refusal := runOne .vfmax fxVfmax o s

/-- A code with another sign bit; a NaN gives the canonical NaN (R194). -/
def withSign (f : Fmt) (ftz : Bool) (sign : Nat → Bool) (x : Nat) : FRes :=
  match unpack f x with
  | .nan s => { code := f.nanCode, flags := if s then IV else 0 }
  | _ => { code := f.signed (sign x) (flushCode f ftz x % 2 ^ f.magBits), flags := 0 }

/-- VFABS (R194). -/
def fxVfabs : LaneFx := fxLanes fun w o _ a _ _ _ =>
  let f := laneFmt o
  packSubs f.bits ((subs f.bits a).map (withSign f w.ftz fun _ => false))
def execVfabs (o : LaneOp) (s : State) : Host.Outcome State Fault Refusal := runOne .vfabs fxVfabs o s

/-- VFNEG (R194). -/
def fxVfneg : LaneFx := fxLanes fun w o _ a _ _ _ =>
  let f := laneFmt o
  packSubs f.bits ((subs f.bits a).map (withSign f w.ftz fun x => !bitAt x (f.bits - 1)))
def execVfneg (o : LaneOp) (s : State) : Host.Outcome State Fault Refusal := runOne .vfneg fxVfneg o s

/-- VFCPSGN (R194): only the sign bit of B is read. -/
def fxVfcpsgn : LaneFx := fxLanes fun w o _ a b _ _ =>
  let f := laneFmt o
  packSubs f.bits (List.zipWith (fun x y => withSign f w.ftz (fun _ => bitAt y (f.bits - 1)) x) (subs f.bits a) (subs f.bits b))
def execVfcpsgn (o : LaneOp) (s : State) : Host.Outcome State Fault Refusal := runOne .vfcpsgn fxVfcpsgn o s

/-- A condition of R195, with the flag it raises. -/
def fltCond (c : Nat) (x y : FNum) : Bool × Nat :=
  let un := x.isNan || y.isNan
  let quiet := if x.isSnan || y.isSnan then IV else 0
  let loud := if un then IV else 0
  match c with
  | 0 => (x.eq y, quiet)
  | 1 => (!x.eq y, quiet)
  | 2 => (x.lt y, loud)
  | 3 => (x.lt y || x.eq y, loud)
  | 4 => (y.lt x, loud)
  | 5 => (y.lt x || x.eq y, loud)
  | 6 => (un, quiet)
  | _ => (!un, quiet)

/-- The conditions of every sub-element, and the flags. -/
def fltCmp (w : Wave) (o : LaneOp) (a b : Word) : List Bool × Nat :=
  let f := laneFmt o
  let rs := List.zipWith (fun x y => fltCond (LaneX o % 8) (fin f w.ftz x) (fin f w.ftz y)) (subs f.bits a) (subs f.bits b)
  (rs.map (·.1), (rs.map (·.2)).foldl (· ||| ·) 0)

/-- VFCMP (R195). -/
def fxVfcmp : LaneFx := fxLanes fun w o _ a b _ _ =>
  let r := fltCmp w o a b
  (maskSubs (tyWidth o.ty.toNat) r.1, r.2)
def execVfcmp (o : LaneOp) (s : State) : Host.Outcome State Fault Refusal := runOne .vfcmp fxVfcmp o s

/-- VFCMPK (R195). -/
def fxVfcmpk : LaneFx := fxBits fun w o a b =>
  let r := fltCmp w o a b
  (laneBit o r.1, r.2)
def execVfcmpk (o : LaneOp) (s : State) : Host.Outcome State Fault Refusal := runOne .vfcmpk fxVfcmpk o s

/-- The class code of R196. -/
def classOf (f : Fmt) (x : Nat) : Nat :=
  match unpack f x with
  | .nan s => if s then 8 else 9
  | .inf neg => if neg then 0 else 7
  | .fin neg m _ =>
    if m = 0 then (if neg then 3 else 4)
    else if x % 2 ^ f.magBits < 2 ^ f.fb then (if neg then 2 else 5)
    else if neg then 1 else 6

/-- VFCLASS (R196). -/
def fxVfclass : LaneFx := fxLanes fun _ o _ a _ _ _ =>
  let f := laneFmt o
  (ofSubs f.bits ((subs f.bits a).map (classOf f)), 0)
def execVfclass (o : LaneOp) (s : State) : Host.Outcome State Fault Refusal := runOne .vfclass fxVfclass o s

/-- VFDOT2 (R197): two FP32 results, each rounded once. -/
def fxVfdot2 : LaneFx := fxLanes fun w o _ a b c _ =>
  let f := laneFmt o
  let env := laneEnv w o false
  let xs := (subs f.bits a).map (fin f env.ftz)
  let ys := (subs f.bits b).map (fin f env.ftz)
  let half (h : Nat) : FRes :=
    fdot2 fp32 env (xs.getD (2 * h) default) (ys.getD (2 * h) default) (xs.getD (2 * h + 1) default)
      (ys.getD (2 * h + 1) default) (fin fp32 env.ftz (bitsOf c.toNat (32 * h) 32))
  packSubs 32 [half 0, half 1]
def execVfdot2 (o : LaneOp) (s : State) : Host.Outcome State Fault Refusal := runOne .vfdot2 fxVfdot2 o s

/-- VFSUMH (R198): the tree of R57 over the sub-elements. -/
def fxVfsumh : LaneFx := fxLanes fun w o _ a _ _ _ =>
  let f := laneFmt o
  let env := laneEnv w o false
  let add (x y : FRes) : FRes :=
    let r := fadd f env (fin f env.ftz x.code) (fin f env.ftz y.code)
    { r with flags := r.flags ||| x.flags ||| y.flags }
  match tree add ((subs f.bits a).map fun x => some { code := x, flags := 0 }) 6 with
  | some r => (.ofNat 64 r.code, r.flags)
  | none => (0, 0)
def execVfsumh (o : LaneOp) (s : State) : Host.Outcome State Fault Refusal := runOne .vfsumh fxVfsumh o s

/-! ## Transcendental operations (R53, R199) -/

/-- An operation of R53 that ignores the rounding mode. -/
def fxTrans (op : TOp) : LaneFx := fxLanes fun w o _ a _ _ _ =>
  let f := laneFmt o
  let env : Env := { laneEnv w o false with mode := 0 }
  packSubs f.bits ((subs f.bits a).map (trans f op env))

/-- VFRCP (R199). -/
def fxVfrcp : LaneFx := fxTrans .rcp
def execVfrcp (o : LaneOp) (s : State) : Host.Outcome State Fault Refusal := runOne .vfrcp fxVfrcp o s

/-- VFRSQ (R199). -/
def fxVfrsq : LaneFx := fxTrans .rsq
def execVfrsq (o : LaneOp) (s : State) : Host.Outcome State Fault Refusal := runOne .vfrsq fxVfrsq o s

/-- VFSQRT (R199): correctly rounded. -/
def fxVfsqrt : LaneFx := fxFlt1 fsqrt
def execVfsqrt (o : LaneOp) (s : State) : Host.Outcome State Fault Refusal := runOne .vfsqrt fxVfsqrt o s

/-- VFEXP2 (R199). -/
def fxVfexp2 : LaneFx := fxTrans .exp2
def execVfexp2 (o : LaneOp) (s : State) : Host.Outcome State Fault Refusal := runOne .vfexp2 fxVfexp2 o s

/-- VFLOG2 (R199). -/
def fxVflog2 : LaneFx := fxTrans .log2
def execVflog2 (o : LaneOp) (s : State) : Host.Outcome State Fault Refusal := runOne .vflog2 fxVflog2 o s

/-- VFSIN (R199). -/
def fxVfsin : LaneFx := fxTrans .sin
def execVfsin (o : LaneOp) (s : State) : Host.Outcome State Fault Refusal := runOne .vfsin fxVfsin o s

/-- VFCOS (R199). -/
def fxVfcos : LaneFx := fxTrans .cos
def execVfcos (o : LaneOp) (s : State) : Host.Outcome State Fault Refusal := runOne .vfcos fxVfcos o s

/-- VFTANH (R199). -/
def fxVftanh : LaneFx := fxTrans .tanh
def execVftanh (o : LaneOp) (s : State) : Host.Outcome State Fault Refusal := runOne .vftanh fxVftanh o s

/-- VFDIV (R199): correctly rounded. -/
def fxVfdiv : LaneFx := fxFlt2 fdiv
def execVfdiv (o : LaneOp) (s : State) : Host.Outcome State Fault Refusal := runOne .vfdiv fxVfdiv o s

/-! ## Conversion and packing (R200 to R206) -/

/-- One conversion of a lane's sub-element to destination index `e` (R201): integer results clamp only under .sat. -/
def laneCvt (w : Wave) (o : LaneOp) (lane e x : Nat) : FRes :=
  let dt := o.ty.toNat
  let st := o.c.toNat
  let env := (laneEnv w o (cvtMayDither dt st)).at w lane e
  let env := if tyFloat dt then env else { env with sat := LaneSat o }
  match subTy st, subTy dt with
  | some s, some d => cvt s d env x
  | _, _ => { code := 0, flags := 0 }

/-- VCVT (R200). -/
def fxVcvt : LaneFx := fxLanes fun w o l a _ _ d =>
  let dt := o.ty.toNat
  let st := o.c.toNat
  let nd := tyCount dt
  let ns := tyCount st
  let q := LaneX o % 16
  if ns ≤ nd then
    let new (e : Nat) : FRes :=
      if q * ns ≤ e && e < q * ns + ns then laneCvt w o l e (bitsOf a.toNat (tyWidth st * (e - q * ns)) (tyWidth st))
      else { code := bitsOf d.toNat (tyWidth dt * e) (tyWidth dt), flags := 0 }
    packSubs (tyWidth dt) ((List.range nd).map new)
  else
    packSubs (tyWidth dt) ((List.range nd).map fun e =>
      laneCvt w o l e (bitsOf a.toNat (tyWidth st * (q * nd + e)) (tyWidth st)))
def execVcvt (o : LaneOp) (s : State) : Host.Outcome State Fault Refusal := runOne .vcvt fxVcvt o s

/-- VPACK (R202). -/
def fxVpack : LaneFx := fxLanes fun w o l a b _ _ =>
  let st := o.c.toNat
  let xs := subs (tyWidth st) a ++ subs (tyWidth st) b
  packSubs (tyWidth o.ty.toNat) (xs.zipIdx.map fun p => laneCvt w o l p.2 p.1)
def execVpack (o : LaneOp) (s : State) : Host.Outcome State Fault Refusal := runOne .vpack fxVpack o s

/-- The destination type of VUNPK (R203). -/
def unpackTy (st : Nat) (alt : Bool) : Nat :=
  match st with
  | 0x3 => 0x2
  | 0x6 => 0x5
  | 0x2 => 0x1
  | 0x5 => 0x4
  | 0x1 => 0x0
  | 0x4 => 0xE
  | 0x8 | 0x9 => 0x7
  | 0xA | 0xB => if alt then 0x9 else 0x8
  | 0xC => if alt then 0xB else 0xA
  | _ => 0xD

/-- VUNPK (R203): exact, and FTZ does not apply. -/
def fxVunpk : LaneFx := fxLanes fun _ o _ a _ _ _ =>
  let st := o.ty.toNat
  let x := LaneX o
  let dt := unpackTy st (x / 2 % 2 == 1)
  let nd := tyCount dt
  let one (e : Nat) : FRes :=
    match subTy st, subTy dt with
    | some s, some d => cvt s d Env.rn (bitsOf a.toNat (tyWidth st * (x % 2 * nd + e)) (tyWidth st))
    | _, _ => { code := 0, flags := 0 }
  packSubs (tyWidth dt) ((List.range nd).map one)
def execVunpk (o : LaneOp) (s : State) : Host.Outcome State Fault Refusal := runOne .vunpk fxVunpk o s

/-- The eight values of a block (R204). -/
def blockOf (w : Wave) (o : LaneOp) (a b : Word) : List FNum :=
  let f := laneFmt o
  (subs 16 a ++ subs 16 b).map (fin f w.ftz)

/-- The greater of two magnitudes. -/
def maxMag (x y : FNum) : FNum := if (FNum.fin false x.mant.natAbs x.exp).lt (.fin false y.mant.natAbs y.exp) then y else x

/-- The block scale of eight values (R204). -/
def blockScale (xs : List FNum) : FRes :=
  if xs.any (·.isNan) then { code := 0xFF, flags := if xs.any (·.isSnan) then IV else 0 }
  else if xs.any (·.isInf) then { code := 0xFE, flags := OF }
  else
    match xs.foldl maxMag (.fin false 0 0) with
    | .fin _ m e =>
      if m = 0 then { code := 0, flags := 0 }
      else
        let (q, e, s) := divMant m e 6 0 12
        roundMag e3m5 { Env.rn with mode := 2 } false q e s
    | _ => { code := 0, flags := 0 }

/-- A byte of a word replaced. -/
def setByte (x : Word) (j v : Nat) : Word :=
  .ofNat 64 (x.toNat - bitsOf x.toNat (8 * j) 8 * 2 ^ (8 * j) + v % 256 * 2 ^ (8 * j))

/-- VBSCALE (R204). -/
def fxVbscale : LaneFx := fxLanes fun w o _ a b _ d =>
  let r := blockScale (blockOf w o a b)
  (setByte d (LaneX o % 8) r.code, r.flags)
def execVbscale (o : LaneOp) (s : State) : Host.Outcome State Fault Refusal := runOne .vbscale fxVbscale o s

/-- The E2M1 code of a value under a block scale (R205). -/
def quant (env : Env) (scale : Nat) (x : FNum) : FRes :=
  if x.isNan || scale == 0xFF then { code := 0, flags := IV }
  else if scale = 0 then { code := if x.neg? then 8 else 0, flags := 0 }
  else
    match x, unpack e3m5 scale with
    | .fin neg m e, .fin _ m' e' =>
      if m = 0 then { code := if neg then 8 else 0, flags := 0 }
      else
        let (q, e, s) := divMant m e m' e' 12
        let above : Bool := if 0 ≤ e then 6 < q * 2 ^ e.toNat || (q * 2 ^ e.toNat == 6 && s)
          else 6 * 2 ^ (-e).toNat < q || (q == 6 * 2 ^ (-e).toNat && s)
        if above then { code := e2m1.signed neg e2m1.maxCode, flags := OF ||| IX } else roundMag e2m1 env neg q e s
    | x, _ => infRes e2m1 env x.neg?

/-- VBQUANT (R205). -/
def fxVbquant : LaneFx := fxLanes fun w o l a b c d =>
  let x := LaneX o
  let h := x % 2
  let scale := bitsOf c.toNat (8 * (x / 2 % 8)) 8
  let env := laneEnv w o true
  let rs := (blockOf w o a b).zipIdx.map fun p => quant (env.at w l (8 * h + p.2)) scale p.1
  let keep := (subs 4 d).map fun y => ({ code := y, flags := 0 } : FRes)
  packSubs 4 (if h = 0 then rs ++ keep.drop 8 else keep.take 8 ++ rs)
def execVbquant (o : LaneOp) (s : State) : Host.Outcome State Fault Refusal := runOne .vbquant fxVbquant o s

/-- VSWZ (R206). -/
def fxVswz : LaneFx := fxLanes fun _ o _ a b _ _ =>
  let w := tyWidth o.ty.toNat
  let n := tyCount o.ty.toNat
  (ofSubs w ((List.range n).map fun e => (subs w a).getD (bitsOf b.toNat (4 * e) 4 % n) 0), 0)
def execVswz (o : LaneOp) (s : State) : Host.Outcome State Fault Refusal := runOne .vswz fxVswz o s

end Sys2Proof.Machine
end

