-- ==== Sys2Proof/Machine/LaneFlow.lean ====
section
/-!
DEFINITION. Lane control (R207 to R213), reading other lanes (R214), the exchange instructions (R215 to R220), the team
rendezvous (R221 to R225), pairs (R80, R81) and reserved lane words (R79).
-/

namespace Sys2Proof.Machine

/-! ## Control words -/

/-- The lane word that a branch names: the index of its own word and the signed offset (R207). -/
def laneTarget (lpc : Nat) (imm : BitVec 32) : Int := (lpc : Int) + imm.toInt

/-- A target checked against the lane section, when some lane goes to it (R207): PROTECTION with its byte address. -/
def laneGoto (o : LaneOp) (lanes : BitVec 32) : Op Nat := do
  let s ← get
  let k ← myKernel
  let t := laneTarget s.cp.lpc o.imm
  if t < 0 || k.lwords ≤ t.toNat then laneTrap PROTECTION lanes (.ofInt 64 ((k.lbase : Int) + 12 * t))
  pure t.toNat

/-- LBR (R136, R208). -/
def fxLbr : LaneFx := fun o i => do
  let s ← get
  let k ← readK (.ofNat 3 o.a.toNat)
  let t := i.path &&& (if LaneX o % 2 = 1 then ~~~k else k)
  if t = 0 then pure { next := .goto (s.cp.lpc + 1) }
  else
    let target ← laneGoto o t
    if t = i.path then pure { next := .goto target }
    else
      diverge t target o.b.toNat
      pure { next := .branch t target o.b.toNat }
def execLbr (o : LaneOp) (s : State) : Host.Outcome State Fault Refusal := runOne .lbr fxLbr o s

/-- LJOIN (R138, R209). -/
def fxLjoin : LaneFx := fun o _ => pure { next := .join o.b.toNat }
def execLjoin (o : LaneOp) (s : State) : Host.Outcome State Fault Refusal := runOne .ljoin fxLjoin o s

/-- LEND (R139, R210). -/
def fxLend : LaneFx := fun _ _ => pure { next := .finish }
def execLend (o : LaneOp) (s : State) : Host.Outcome State Fault Refusal := runOne .lend fxLend o s

/-- LNOP (R211). -/
def fxLnop : LaneFx := fun _ _ => pure {}
def execLnop (o : LaneOp) (s : State) : Host.Outcome State Fault Refusal := runOne .lnop fxLnop o s

/-- LKILL (R212). -/
def fxLkill : LaneFx := fun _ i => pure { next := .kill i.m }
def execLkill (o : LaneOp) (s : State) : Host.Outcome State Fault Refusal := runOne .lkill fxLkill o s

/-- LELECT (R213): the lowest lane of m. -/
def fxLelect : LaneFx := fun o i => pure { writes := [outK o.d i.m (i.m &&& (0 - i.m))] }
def execLelect (o : LaneOp) (s : State) : Host.Outcome State Fault Refusal := runOne .lelect fxLelect o s

/-- LJMP (R211). -/
def fxLjmp : LaneFx := fun o i => do pure { next := .goto (← laneGoto o i.path) }
def execLjmp (o : LaneOp) (s : State) : Host.Outcome State Fault Refusal := runOne .ljmp fxLjmp o s

/-! ## Reading other lanes -/

/-- The lanes of the other paths of the block that still run (R214). -/
def State.otherPathLanes (s : State) : BitVec 32 :=
  (s.cw.eng.paths.filter (·.active)).foldl (fun m p => m ||| p.mask) 0

/-- The values that a word reads in every lane of a register (R214): its own lanes as they are, undefined ones in the lanes of
another path, the last value elsewhere; with .z, 0 outside m. -/
def exchange (m : BitVec 32) (vals : List Word) (z : Bool) : Op (List Word) := do
  let other := (← get).otherPathLanes
  if z then pure (laneList.map fun l => if m.getLsbD l then laneOf vals l else 0)
  else if other &&& ~~~m = 0 then pure vals
  else
    let n ← draw
    pure (laneList.map fun l => if other.getLsbD l && !m.getLsbD l then Config.undef64 n l else laneOf vals l)

/-- The value of every lane of the mask. -/
def outLanes (o : LaneOp) (m : BitVec 32) (f : Nat → Word) : LaneOut := { writes := [outV o.d m (laneList.map f)] }

/-- VPERM (R216). -/
def fxVperm : LaneFx := fun o i => do
  let vals ← exchange i.m i.a (LaneX o % 2 == 1)
  let w := tyWidth o.ty.toNat
  let n := tyCount o.ty.toNat
  exchangePoison o.a i.m fun l =>
    ((subs w (laneOf i.b l)).map fun x => x % (32 * n) / n).filter fun x => LaneX o % 2 == 0 || i.m.getLsbD x
  pure (outLanes o i.m fun l =>
    ofSubs w ((subs w (laneOf i.b l)).map fun x => bitsOf (laneOf vals (x % (32 * n) / n)).toNat (w * (x % n)) w))
def execVperm (o : LaneOp) (s : State) : Host.Outcome State Fault Refusal := runOne .vperm fxVperm o s

/-- The lane or count of VBCAST and VSHFL: b[4:0], or bits [4:0] of the snapshot value (R215). -/
def laneCount (o : LaneOp) (i : LaneIn) : Nat := if LaneUB o then (laneOf i.b 0).toNat % 32 else o.b.toNat % 32

/-- VBCAST (R217). -/
def fxVbcast : LaneFx := fun o i => do
  let vals ← exchange i.m i.a false
  exchangePoison o.a i.m fun _ => [laneCount o i]
  pure (outLanes o i.m fun _ => laneOf vals (laneCount o i))
def execVbcast (o : LaneOp) (s : State) : Host.Outcome State Fault Refusal := runOne .vbcast fxVbcast o s

/-- The lane from which VSHFL takes its value (R217). -/
def shflFrom (mode l n : Nat) : Nat :=
  match mode with
  | 0 => if l < n then l else l - n
  | 1 => if 31 < l + n then l else l + n
  | _ => l ^^^ n

/-- VSHFL (R217). -/
def fxVshfl : LaneFx := fun o i => do
  let vals ← exchange i.m i.a false
  exchangePoison o.a i.m fun l => [shflFrom (LaneX o % 4) l (laneCount o i)]
  pure (outLanes o i.m fun l => laneOf vals (shflFrom (LaneX o % 4) l (laneCount o i)))
def execVshfl (o : LaneOp) (s : State) : Host.Outcome State Fault Refusal := runOne .vshfl fxVshfl o s

/-- VRFAL (R218): the lowest lane of m, 0 for an empty m. -/
def fxVrfal : LaneFx := fun o i =>
  pure { writes := [outQ o.d (if i.m = 0 then 0 else laneOf i.a (ctzN i.m.toNat 0 32))] }
def execVrfal (o : LaneOp) (s : State) : Host.Outcome State Fault Refusal := runOne .vrfal fxVrfal o s

/-- VBALLOT (R218): the lanes whose value is not 0, and m. -/
def fxVballot : LaneFx := fun o i =>
  let hit := maskOf fun l => i.m.getLsbD l && laneOf i.a l != 0
  pure { writes := [outQ o.d (.ofNat 64 (hit.toNat + i.m.toNat * 2 ^ 32))] }
def execVballot (o : LaneOp) (s : State) : Host.Outcome State Fault Refusal := runOne .vballot fxVballot o s

/-! ## Reductions (R57, R219, R220) -/

/-- One combine of R219 on two sub-elements. -/
def combine (w : Wave) (o : LaneOp) (x y : Nat) : FRes :=
  let op := LaneX o % 8
  let t := laneInt o
  let f := laneFmt o
  if tyFloat o.ty.toNat then
    let env := laneEnv w o false
    match op with
    | 0 => fadd f env (fin f env.ftz x) (fin f env.ftz y)
    | 1 => minMax false f env.ftz x y
    | _ => minMax true f env.ftz x y
  else
    let code := match op with
      | 0 => t.fit (LaneSat o) (t.val x + t.val y)
      | 1 => if t.val x ≤ t.val y then x else y
      | 2 => if t.val x ≤ t.val y then y else x
      | 3 => x ||| y
      | 4 => x &&& y
      | _ => x ^^^ y
    { code, flags := 0 }

/-- A partial result: its value, the lanes in it, and the flags of the combines with the lanes that entered them. -/
structure Partial where
  code : Nat
  lanes : BitVec 32
  events : List (Nat × BitVec 32)
  deriving DecidableEq, Repr, Inhabited

/-- Two partial results combined (R57). -/
def Partial.join (w : Wave) (o : LaneOp) (x y : Partial) : Partial :=
  let r := combine w o x.code y.code
  { code := r.code, lanes := x.lanes ||| y.lanes, events := x.events ++ y.events ++ [(r.flags, x.lanes ||| y.lanes)] }

/-- The flags of every lane from the flags of combines. -/
def eventFlags (ev : List (Nat × BitVec 32)) : List Nat :=
  laneList.map fun l => ev.foldl (fun n e => if e.2.getLsbD l then n ||| e.1 else n) 0

/-- A lane's value as a combine or a pass-through reads it: FTZ reads a subnormal as a zero (R40; log entry 53). -/
def leafCode (w : Wave) (o : LaneOp) (x : Nat) : Nat :=
  if tyFloat o.ty.toNat then flushCode (laneFmt o) (laneEnv w o false).ftz x else x

/-- A result of a reduction or a scan: no NaN payload and no NaN sign passes to it (R34), from a value that no combine has met either. -/
def redResult (o : LaneOp) (x : Nat) : Nat :=
  if tyFloat o.ty.toNat && (unpack (laneFmt o) x).isNan then (laneFmt o).nanCode else x

/-- VRED (R219). Under .sat, an infinity that is the one value of a position stays infinite and raises no OF, since no combine is performed
(DESIGN CHOICE, log entry 53). -/
def fxVred : LaneFx := fun o i => do
  let wv := (← get).cw
  let w := tyWidth o.ty.toNat
  let one (e : Nat) : Option Partial :=
    tree (Partial.join wv o) (laneList.map fun l =>
      if i.m.getLsbD l then
        some { code := leafCode wv o (bitsOf (laneOf i.a l).toNat (w * e) w), lanes := maskOf (· == l), events := [] }
      else none) 6
  let rs := (List.range (tyCount o.ty.toNat)).map one
  let code (r : Option Partial) : Nat := (r.map (·.code)).getD 0
  let ev := rs.flatMap fun r => (r.map (·.events)).getD []
  pure { writes := [outQ o.d (ofSubs w (rs.map fun r => redResult o (code r)))], flags := eventFlags ev }
def execVred (o : LaneOp) (s : State) : Host.Outcome State Fault Refusal := runOne .vred fxVred o s

/-- The running values of one sub-element position in ascending lane order: what each lane receives, and the flags (R220). -/
def scanFrom (w : Wave) (o : LaneOp) (ex : Bool) (val : Nat → Nat) (acc : Option Nat) : List Nat → List (Nat × Nat × Nat)
  | [] => []
  | l :: rest =>
    match acc with
    | none => (l, if ex then 0 else val l, 0) :: scanFrom w o ex val (some (val l)) rest
    | some x =>
      let r := combine w o x (val l)
      (l, if ex then x else r.code, r.flags) :: scanFrom w o ex val (some r.code) rest

/-- VSCAN (R220). Under .sat, an infinity of the first lane stays infinite there, as in VRED (log entry 53). -/
def fxVscan : LaneFx := fun o i => do
  let wv := (← get).cw
  let w := tyWidth o.ty.toNat
  let ex := 8 ≤ LaneX o % 16
  let lanes := laneList.filter fun l => i.m.getLsbD l
  let cols := (List.range (tyCount o.ty.toNat)).map fun e =>
    scanFrom wv o ex (fun l => leafCode wv o (bitsOf (laneOf i.a l).toNat (w * e) w)) none lanes
  let at' (l : Nat) (col : List (Nat × Nat × Nat)) : Nat × Nat := ((col.find? fun x => x.1 == l).map (·.2)).getD (0, 0)
  let vals := laneList.map fun l => ofSubs w (cols.map fun c => redResult o (at' l c).1)
  let flags := laneList.map fun l => (cols.map fun c => (at' l c).2).foldl (· ||| ·) 0
  pure { writes := [outV o.d i.m vals], flags }
def execVscan (o : LaneOp) (s : State) : Host.Outcome State Fault Refusal := runOne .vscan fxVscan o s

/-! ## Team rendezvous (R221 to R225) -/

/-- The place of a path in the order of a rendezvous slot; VTAKEs have numbers from 8. -/
def Path.slotOrd (p : Path) (q : Nat) : Option Nat :=
  match p.wait with
  | .slot r _ ord _ => if r == q then some ord else none
  | _ => none

/-- Waiting words of one kind at a slot are served in arrival order (R222, R223): whether no earlier one of the team waits. -/
def State.slotTurn (s : State) (q : Nat) : Bool :=
  let others := (s.allWaves.filter fun w => w.team == s.cw.team).flatMap fun w => (w.eng.paths ++ w.held.paths).filterMap (·.slotOrd q)
  match s.cp.slotOrd q with
  | some mine => others.all (mine ≤ ·)
  | none => others.isEmpty

/-- A rendezvous slot of the executing team. -/
def mySlot (r : Nat) : Op RvSlot := do
  let t ← myTeam
  pure (t.slots.getD r { full := false, mask := 0, vals := .replicate 32 0 })

/-- A rendezvous slot written. -/
def setSlot (r : Nat) (x : RvSlot) : Op Unit := modify fun s => s.updTeam s.cw.team fun t => { t with slots := t.slots.set r x }

/-- VPASS (R222): it waits for the slot to be empty and fills it. -/
def fxVpass : LaneFx := fun o i => do
  let r := o.b.toNat
  let x ← mySlot r
  if x.full || !(← get).slotTurn r then throw (.wait .slot r 0 false)
  let vals := Vector.ofFn fun l : Fin 32 => if i.m.getLsbD l.val then laneOf i.a l.val else 0
  setSlot r { full := true, mask := i.m, vals }
  pure {}
def execVpass (o : LaneOp) (s : State) : Host.Outcome State Fault Refusal := runOne .vpass fxVpass o s

/-- VTAKE (R223): it waits for the slot to be full and empties it. -/
def fxVtake : LaneFx := fun o i => do
  let r := o.b.toNat
  let x ← mySlot r
  if !x.full || !(← get).slotTurn (r + 8) then throw (.wait .slot (r + 8) 0 false)
  setSlot r { x with full := false }
  pure { writes := [outV o.d (i.m &&& x.mask) x.vals.toList] }
def execVtake (o : LaneOp) (s : State) : Host.Outcome State Fault Refusal := runOne .vtake fxVtake o s

/-- A lane word whose FORM, op10[9] or op9 is reserved (R73, R74, R79). -/
def execReservedLaneOpcode (_w : BitVec 96) (s : State) : Host.Outcome State Fault Refusal :=
  .next (s.laneTrapped { cause := ILLEGAL_OP, lanes := s.cp.mask, lane := true })

end Sys2Proof.Machine
end

