-- ==== Sys2Proof/Machine/LaneMem.lean ====
section
/-!
DEFINITION. The lane memory instructions (R249 to R255), FIFO accesses by lanes among them (R232).
-/

namespace Sys2Proof.Machine

/-! ## Orders that the manual leaves open -/

/-- A lane put into a list in the order of its key. -/
def insertKey (key : Nat → Nat) (x : Nat) : List Nat → List Nat
  | [] => [x]
  | y :: rest => if key x ≤ key y then x :: y :: rest else y :: insertKey key x rest

/-- Items in an unspecified order (R7, R12). -/
def freeOrder (n : Nat) (xs : List Nat) : List Nat := xs.foldr (insertKey fun i => (Config.undef64 n i).toNat) []

/-- Where a checked location lies: in memory, in a team's scratchpad or in a FIFO bank. Two generic addresses may name one location
(R227, R335). -/
def Loc.spot : Loc → Nat × Nat
  | .phys a _ => (0, a)
  | .scratch t off => (2 * t + 1, off)
  | .fifo q => (2 * q + 2, 0)

/-- Whether two of a list of locations of `w` bytes overlap. -/
def overlaps (w : Nat) : List (Nat × Nat) → Bool
  | [] => false
  | a :: rest => (rest.any fun b => a.1 == b.1 && a.2 < b.2 + w && b.2 < a.2 + w) || overlaps w rest

/-- Lanes in ascending order where their locations are apart, else in an unspecified one (R241, R253). -/
def storeOrder (w : Nat) (ls : List (Nat × Loc)) : Op (List Nat) := do
  if overlaps w (ls.map fun x => x.2.spot) then
    let n ← draw
    pure (freeOrder n (ls.map (·.1)))
  else pure (ls.map (·.1))

/-! ## Addresses -/

/-- The active lanes of a mask, ascending. -/
def lanesOf (m : BitVec 32) : List Nat := laneList.filter fun l => m.getLsbD l

/-- The address of a lane (R250): every lane memory word adds the uniform value with UB, VATOM too (log entry 13). -/
def laneAddr (o : LaneOp) (i : LaneIn) (l : Nat) : Word :=
  laneOf i.a l + (if LaneUB o then laneOf i.b l else 0) + sext64 o.imm

/-- Every address of a list checked, in order (R250). -/
def State.locateAll (s : State) (acc : Acc) (addr : Nat → Word) (w : Nat) : List Nat → List (Nat × Resolved) × State
  | [] => ([], s)
  | l :: rest =>
    let (r, s) := s.locate s.cw acc (addr l).toNat w
    let (rs, s) := s.locateAll acc addr w rest
    ((l, r) :: rs, s)

/-- The checks of R250: MISALIGN first, then the first cause in lane order with every lane that has it; nothing is performed
when a lane fails. -/
def laneLocate (acc : Acc) (addr : Nat → Word) (w : Nat) (m : BitVec 32) : Op (List (Nat × Loc)) := do
  let lanes := lanesOf m
  let bad := lanes.filter fun l => (addr l).toNat % w != 0
  match bad with
  | l :: _ => laneTrap MISALIGN (maskOf bad.contains) (addr l)
  | [] => pure ()
  let (rs, s) := (← get).locateAll acc addr w lanes
  set s
  match rs.findSome? fun r => match r.2 with
    | .bad t => some t
    | _ => none with
  | some t =>
    let same := rs.filterMap fun r => match r.2 with
      | .bad u => if u.cause == t.cause then some r.1 else none
      | _ => none
    laneTrap t.cause (maskOf same.contains) t.addr t.info
  | none => pure ()
  if rs.any fun r => r.2 == .blocked then stall
  pure (rs.filterMap fun r => match r.2 with
    | .ok l => some (r.1, l)
    | _ => none)

/-- Lanes that load poisoned data (R399). -/
def lanePoison (ls : List (Nat × Loc)) (addr : Nat → Word) (w : Nat) : Op Unit := do
  let s ← get
  let bad := ls.filterMap fun x => (s.loadPoison (addr x.1).toNat x.2 w).map fun store => (x.1, store)
  match bad with
  | x :: _ => laneTrap SOFT_ERROR_UNCORRECTED (maskOf (bad.map (·.1)).contains) (addr x.1) (.ofNat 64 x.2)
  | [] => pure ()

/-- The FIFO bank of a location. -/
def Loc.bank? : Loc → Option Nat
  | .fifo q => some q
  | _ => none

/-- The lanes that access a FIFO bank, ascending. -/
def fifoLanes (ls : List (Nat × Loc)) (q : Nat) : List Nat := ls.filterMap fun x => if x.2.bank? == some q then some x.1 else none

/-- One entry popped for every lane at a FIFO bank that has them. -/
def fifoPopLanes (ls : List (Nat × Loc)) : List Nat → Op (List (Nat × Word))
  | [] => pure []
  | q :: rest => do
    let lanes := fifoLanes ls q
    let xs ← fifoTake q lanes.length
    let more ← fifoPopLanes ls rest
    pure (lanes.zip xs ++ more)

/-- The banks that a word accesses. -/
def fifoBanks (ls : List (Nat × Loc)) : List Nat := (ls.filterMap fun x => x.2.bank?).eraseDups

/-- The wait of a word's lanes for FIFO banks, as one unit (R232). -/
def fifoWaitLanes (push : Bool) (ls : List (Nat × Loc)) : Op Unit :=
  fifoWait push ((fifoBanks ls).map fun q => (q, (fifoLanes ls q).length))

/-- Undefined values for every lane of a list, of `w` bytes. -/
def undefLanes (w : Nat) (ls : List (Nat × Loc)) : Op (List (Nat × Nat)) := do
  let n ← draw
  pure (ls.map fun x => (x.1, (Config.undef64 n x.1).toNat % 2 ^ (8 * w)))

/-- Loads of lanes, one by one. -/
def loadLanes (addr : Nat → Word) (w : Nat) : List (Nat × Loc) → Op (List (Nat × Nat))
  | [] => pure []
  | (l, loc) :: rest => do
    let x ← loadAt (addr l).toNat loc w
    let more ← loadLanes addr w rest
    pure ((l, x) :: more)

/-! ## VLD, VST -/

/-- The position of an access in the register (R249). -/
def vmPos (o : LaneOp) : Nat := bitsOf o.c.toNat 0 3

/-- The bits of a register that an access leaves as they are. -/
def vmKeep (o : LaneOp) : Word := ~~~(BitVec.ofNat 64 ((2 ^ (8 * vmBytes o) - 1) * 2 ^ (8 * vmBytes o * vmPos o)))

/-- The value found for a lane, 0 where there is none. -/
def valueOf (xs : List (Nat × Nat)) (l : Nat) : Nat := ((xs.find? fun x => x.1 == l).map (·.2)).getD 0

/-- VLD (R250, R251). -/
def fxVld : LaneFx := fun o i => do
  let w := vmBytes o
  let addr := laneAddr o i
  let ls ← laneLocate .load addr w i.m
  lanePoison ls addr w
  let lost ← rimPoisoned (ls.map (·.2))
  fifoWaitLanes false ls
  let popped ← fifoPopLanes ls (fifoBanks ls)
  let plain := ls.filter fun x => x.2.bank?.isNone
  let loaded ← if lost then undefLanes w plain else loadLanes addr w plain
  countLocs (ls.map (·.2))
  let vals := loaded ++ popped.map fun x => (x.1, x.2.toNat)
  let shift := 8 * w * vmPos o
  pure { writes := [outV o.d i.m (laneList.map fun l => .ofNat 64 (valueOf vals l * 2 ^ shift)) (vmKeep o)] }
def execVld (o : LaneOp) (s : State) : Host.Outcome State Fault Refusal := runOne .vld fxVld o s

/-- The value that VST stores for a lane (R252). -/
def vstValue (o : LaneOp) (i : LaneIn) (l : Nat) : Nat := bitsOf (laneOf i.d l).toNat (8 * vmBytes o * vmPos o) (8 * vmBytes o)

/-- Pushes of lanes to banks that have room. -/
def fifoPushLanes (ls : List (Nat × Loc)) (val : Nat → Nat) : List Nat → Op Unit
  | [] => pure ()
  | q :: rest => do
    fifoPut q ((fifoLanes ls q).map fun l => .ofNat 64 (val l))
    fifoPushLanes ls val rest

/-- Stores of lanes in a given order. -/
def storeLanes (addr : Nat → Word) (w : Nat) (val : Nat → Nat) (ls : List (Nat × Loc)) : List Nat → Op Unit
  | [] => pure ()
  | l :: rest => do
    match ls.find? fun x => x.1 == l with
    | some x => storeAt (addr l).toNat x.2 (leBytes (val l) w)
    | none => pure ()
    storeLanes addr w val ls rest

/-- The order and scope of a lane memory word (R249). -/
def vmOrder (o : LaneOp) : Nat := bitsOf o.c.toNat 3 2
def vmScope (o : LaneOp) : Nat := bitsOf o.c.toNat 5 2

/-- VST (R250, R252). VST .rel is illegal in an open region (R351), and drains the wave's write-combining entries at device and
system scope (R237). -/
def fxVst : LaneFx := fun o i => do
  let w := vmBytes o
  let addr := laneAddr o i
  if vmOrder o = 2 then noRegion
  let ls ← laneLocate .store addr w i.m
  if vmOrder o = 2 && 2 ≤ vmScope o then drainMine
  fifoWaitLanes true ls
  fifoPushLanes ls (vstValue o i) (fifoBanks ls)
  let plain := ls.filter fun x => x.2.bank?.isNone
  let order ← storeOrder w plain
  storeLanes addr w (vstValue o i) plain order
  countLocs (ls.map (·.2))
  pure {}
def execVst (o : LaneOp) (s : State) : Host.Outcome State Fault Refusal := runOne .vst fxVst o s

/-! ## VATOM, VPREF -/

/-- The new value of one read-modify-write of VATOM (R253); a floating-point one raises no flag (R48). -/
def vatomNew (o : LaneOp) (old x e : Nat) : Option Nat :=
  let op := LaneX o / 4
  let ty := o.ty.toNat
  if tyFloat ty && op != 6 && op != 7 then
    let f := laneFmt o
    match op with
    | 0 => some (fadd f Env.rn (unpack f old) (unpack f x)).code
    | 4 => some (minMax false f false old x).code
    | _ => some (minMax true f false old x).code
  else atomNew op (8 * vmBytes o) (ty == 0x4 || ty == 0xE) old x e

/-- The read-modify-writes of lanes in a given order: the old values. -/
def rmwLanes (o : LaneOp) (i : LaneIn) (addr : Nat → Word) (ls : List (Nat × Loc)) : List Nat → Op (List (Nat × Nat))
  | [] => pure []
  | l :: rest => do
    let w := vmBytes o
    match ls.find? fun x => x.1 == l with
    | none => rmwLanes o i addr ls rest
    | some x =>
      let old ← rmwAt (addr l).toNat x.2 w fun old =>
        vatomNew o old ((laneOf i.b l).toNat % 2 ^ (8 * w)) ((laneOf i.d l).toNat % 2 ^ (8 * w))
      let more ← rmwLanes o i addr ls rest
      pure ((l, old) :: more)

/-- VATOM (R253): the lanes are performed in an unspecified order (R60). -/
def fxVatom : LaneFx := fun o i => do
  let w := vmBytes o
  let addr := laneAddr o i
  noRegion
  let ls ← laneLocate .rmw addr w i.m
  lanePoison ls addr w
  if 2 ≤ vmOrder o && 2 ≤ vmScope o then drainMine
  let order ← storeOrder w ls
  let olds ← if ← rimPoisoned (ls.map (·.2)) then undefLanes w ls else rmwLanes o i addr ls order
  countLocs (ls.map (·.2))
  let ext (x : Nat) : Word := if o.ty == 0x1 then sext64 (BitVec.ofNat 32 x) else .ofNat 64 x
  pure { writes := [outV o.d i.m (laneList.map fun l => ext (valueOf olds l))] }
def execVatom (o : LaneOp) (s : State) : Host.Outcome State Fault Refusal := runOne .vatom fxVatom o s

/-- VPREF (R254): a hint that changes no visible state. -/
def fxVpref : LaneFx := fun _ _ => pure {}
def execVpref (o : LaneOp) (s : State) : Host.Outcome State Fault Refusal := runOne .vpref fxVpref o s

end Sys2Proof.Machine
end

