-- ==== Sys2Proof/Machine/Matrix.lean ====
section
/-!
DEFINITION. The joint matrix operation (R58, R274 to R295): GANGSET, the rendezvous latch, MJ, MFENCE, MWAIT and the accumulator
moves. The tiles of a joint operation are written at its release and are undefined until its completion, so that its flags stand
in FSTAT before its block ends (log entry 14).
-/

namespace Sys2Proof.Machine

/-! ## The gang (R274 to R276) -/

/-- The member fields M0 to M(COUNT − 1) of a GANG value. -/
def gangMembers (g : Word) : List Nat := (List.range (bitsOf g.toNat 0 3)).map fun i => bitsOf g.toNat (8 + 4 * i) 4

/-- Whether no two items of a list are equal. -/
def allDistinct : List Nat → Bool
  | [] => true
  | x :: rest => !rest.contains x && allDistinct rest

/-- A well-formed GANG value for a wave index (R275). -/
def gangOk (g : Word) (index : Nat) : Bool :=
  let n := bitsOf g.toNat 0 3
  2 ≤ n && n ≤ 6 && bitsOf g.toNat 4 3 + n ≤ 6 && !bitAt g.toNat 3 && !bitAt g.toNat 7 &&
    g.toNat / 2 ^ (8 + 4 * n) == 0 && allDistinct (gangMembers g) && (gangMembers g).contains index

/-- GANGSET (R276). -/
def execGangset (a : SReg) (s : State) : Host.Outcome State Fault Refusal :=
  (runOp · s) do
    noRegion
    laneWait
    let x ← rd a
    let w := (← get).cw
    if x ≠ 0 && !gangOk x w.index then trap MATRIX_GANG 0 1
    modify fun s => { s with cw := { s.cw with gang := x } }

/-! ## Tiles (R280, R281) -/

/-- An element of a tile. -/
def Tile.get (t : Tile) (i : Nat) : BitVec 32 :=
  match t.cells.find? fun c => c.1 == i with
  | some c => c.2
  | none => match t.undef with
    | some n => (Config.undef64 n i).setWidth 32
    | none => 0

/-- An element written; elements that no cell lists stay as they were. -/
def Tile.put (t : Tile) (i : Nat) (x : BitVec 32) : Tile := { t with cells := (i, x) :: t.cells.filter fun c => c.1 != i }

/-- A tile of the executing team; one that a joint operation still writes reads as undefined (R289). -/
def readTile (i : Nat) : Op Tile := do
  let t ← myTeam
  let s ← get
  if s.jointOps.any fun j => j.team == t.uid && j.members.any fun a => a.tile == i then
    let n ← draw
    pure { undef := some n, cells := [] }
  else pure (t.tiles.getD i { undef := none, cells := [] })

/-- A tile of the executing team written by AMOVW or AZERO; during a joint operation on it, it becomes undefined (R289). -/
def writeTile (i : Nat) (f : Tile → Tile) : Op Unit := do
  let t ← myTeam
  modify fun s =>
    let s := s.updTeam t.uid fun t => { t with tiles := t.tiles.zipIdx.map fun x => if x.2 == i then f x.1 else x.1 }
    { s with jointOps := s.jointOps.map fun (j : JointOp) =>
        if j.team == t.uid && j.members.any fun a => a.tile == i then { j with dirtyTiles := i :: j.dirtyTiles } else j }

/-- The poison of tile elements that a write of them clears (R398). -/
def cureTile (tile : Nat) (p : Nat → Bool) : Op Unit := modify fun s =>
  s.cure fun (u : ErrUnit) => match u with
    | .tileElem t k e => t == s.cw.team && k == tile && p e
    | _ => false

/-- The poisoned elements of a tile (R399). -/
def State.poisonElems (s : State) (tile : Nat) : List Nat :=
  s.poison.filterMap fun u => match u with
    | .tileElem t k e => if t == s.cw.team && k == tile then some e else none
    | _ => none

/-- The element (row × 16 + column) at a lane and sub-element of register j (R281). -/
def tileIndex (narrow : Bool) (j l e : Nat) : Nat :=
  if narrow then (8 * j + l / 4) * 16 + (4 * (l % 4) + e) else (4 * j + l / 8) * 16 + (2 * (l % 8) + e)

/-- Whether a type of R281 is a narrow one. -/
def tileNarrow (o : LaneOp) : Bool := o.ty == 0x8 || o.ty == 0x9

/-- An element as AMOVR and ASTORE write it (R291): unchanged, or rounded from FP32. FTZ does not act (R40). -/
def tileConvert (w : Wave) (o : LaneOp) (i : Nat) (x : BitVec 32) : FRes :=
  if tileNarrow o then
    let env := laneEnv w o true
    pack (laneFmt o) { env with ftz := false, entry := bayer (i / 16 % 8) (i % 8) w.dphase.toNat } (unpack fp32 x.toNat)
  else { code := x.toNat, flags := 0 }

/-- DPHASE advances after an AMOVR or ASTORE that rounds by DR (R42). -/
def dphaseStep (o : LaneOp) : Op Unit := modify fun s =>
  if tileNarrow o && (laneEnv s.cw o true).mode == 5 then
    { s with cw := { s.cw with dphase := .ofNat 64 ((s.cw.dphase.toNat + 1) % 64) } }
  else s

/-- AMOVR (R291). -/
def fxAmovr : LaneFx := fun o i => do
  let t ← readTile o.a.toNat
  let s ← get
  let narrow := tileNarrow o
  let n := if narrow then 4 else 2
  let idx (l e : Nat) : Nat := tileIndex narrow o.imm.toNat l e
  let bad := s.poisonElems o.a.toNat
  let hit := maskOf fun l => i.m.getLsbD l && (List.range n).any fun e => bad.contains (idx l e)
  if hit ≠ 0 then laneTrap SOFT_ERROR_UNCORRECTED hit 0 5
  let rs := laneList.map fun l =>
    if i.m.getLsbD l then
      packSubs (64 / n) ((List.range n).map fun e => tileConvert s.cw o (idx l e) (t.get (idx l e)))
    else (0, 0)
  dphaseStep o
  pure { writes := [outV o.d i.m (rs.map (·.1))], flags := rs.map (·.2), quiet := true }
def execAmovr (o : LaneOp) (s : State) : Host.Outcome State Fault Refusal := runOne .amovr fxAmovr o s

/-- AMOVW (R292). -/
def fxAmovw : LaneFx := fun o i => do
  let cells := (lanesOf i.m).flatMap fun l => (List.range 2).map fun e =>
    (tileIndex false o.imm.toNat l e, BitVec.ofNat 32 (bitsOf (laneOf i.a l).toNat (32 * e) 32))
  cureTile o.d.toNat fun e => cells.any fun c => c.1 == e
  writeTile o.d.toNat fun t => cells.foldl (fun t c => t.put c.1 c.2) t
  pure {}
def execAmovw (o : LaneOp) (s : State) : Host.Outcome State Fault Refusal := runOne .amovw fxAmovw o s

/-- AZERO (R290). -/
def fxAzero : LaneFx := fun o _ => do
  cureTile o.d.toNat fun _ => true
  writeTile o.d.toNat fun _ => { undef := none, cells := [] }
  pure {}
def execAzero (o : LaneOp) (s : State) : Host.Outcome State Fault Refusal := runOne .azero fxAzero o s

/-! ## ASTORE (R293) -/

/-- The 16-byte units of the rows, in the order of R293: row r, unit u. -/
def astoreUnits (row : Nat) : List (Nat × Nat) :=
  (List.range 128).flatMap fun r => (List.range (row / 16)).map fun u => (r, u)

/-- The address of a unit. -/
def astoreAddr (base : Word) (o : LaneOp) (p : Nat × Nat) : Word :=
  base + sext64 o.imm * .ofNat 64 p.1 + .ofNat 64 (16 * p.2)

/-- The first failing unit by address: its trap. -/
def lowestTrap (rs : List (Nat × Resolved)) : Option Trap :=
  (rs.filterMap fun r => match r.2 with
    | .bad t => some t
    | _ => none).foldl (fun best t => match best with
      | none => some t
      | some b => if t.addr.toNat < b.addr.toNat then some t else some b) none

/-- The byte that a location holds after overlapping units (R293): one of the writes of it, and which one is unspecified, byte by byte. -/
def astoreByte (n : Nat) (locs : List (Nat × Loc)) (bytes : Nat → List Byte) (l : Loc) (i : Nat) (own : Byte) : Byte :=
  let at' := (l.spot.1, l.spot.2 + i)
  let writes := locs.filterMap fun x =>
    if x.2.spot.1 == at'.1 && x.2.spot.2 ≤ at'.2 && at'.2 < x.2.spot.2 + 16 then (bytes x.1)[at'.2 - x.2.spot.2]? else none
  if writes.length < 2 then own else writes.getD ((Config.undef64 n (at'.2 * 4096 + at'.1)).toNat % writes.length) own

/-- ASTORE (R293): every byte of all rows is checked before any is written. -/
def fxAstore : LaneFx := fun o i => do
  let t ← readTile o.a.toNat
  let s ← get
  let base := laneOf i.b 0
  if base.toNat % 16 ≠ 0 || o.imm.toNat % 16 ≠ 0 then laneTrap MISALIGN i.path base
  if !(s.poisonElems o.a.toNat).isEmpty then laneTrap SOFT_ERROR_UNCORRECTED i.path 0 5
  let n := if tileNarrow o then 2 else 4
  let units := astoreUnits (16 * n)
  let addr (k : Nat) : Word := astoreAddr base o (units.getD k (0, 0))
  let (rs, s') := s.locateAll .store addr 16 (List.range units.length)
  set s'
  match lowestTrap rs with
  | some t => laneTrap t.cause i.path t.addr t.info
  | none => pure ()
  if rs.any fun r => r.2 == .blocked then stall
  let res := (List.range 2048).map fun e => tileConvert s.cw o e (t.get e)
  let bytes (k : Nat) : List Byte :=
    ((res.drop (16 / n * k)).take (16 / n)).flatMap fun r => leBytes r.code n
  let locs := rs.filterMap fun r => match r.2 with
    | .ok l => some (r.1, l)
    | _ => none
  let mixed := overlaps 16 (locs.map fun x => x.2.spot)
  let mix ← if mixed then draw else pure 0
  locs.forM fun x => storeAt (addr x.1).toNat x.2
    ((bytes x.1).zipIdx.map fun b => if mixed then astoreByte mix locs bytes x.2 b.2 b.1 else b.1)
  countLocs (rs.filterMap fun r => match r.2 with
    | .ok l => some l
    | _ => none)
  dphaseStep o
  pure { flags := laneList.map fun l => if l = 0 then (res.map (·.flags)).foldl (· ||| ·) 0 else 0, quiet := true }
def execAstore (o : LaneOp) (s : State) : Host.Outcome State Fault Refusal := runOne .astore fxAstore o s

/-! ## The product (R58, R277 to R279) -/

/-- The depth of a type (R277). -/
def mjDepth (ty : Nat) : Nat := if ty = 0x9 then 32 else if ty = 0xC then 128 else 64

/-- An FP4 element of R37 and whether rule 4 makes it invalid. -/
def fp4Elem (code scale band : Nat) : FNum × Bool :=
  let c := unpack e2m1 code
  match unpack e3m5 scale, unpack bf16 band with
  | .nan _, _ => (.nan false, false)
  | _, .nan _ => (.nan false, false)
  | s, b =>
    if s.isZero || b.isZero then (.fin c.neg? 0 0, false)
    else if b.isInf then if c.isZero then (.nan false, true) else (.inf (c.neg? != b.neg?), false)
    else mulX (mulX c s).1 b

/-- A byte of logical row m of a canonical panel (R259). -/
def panelByte (p : List Host.Cell) (pa m x : Nat) : Nat :=
  (Memory.read p (pa + 64 * m + 16 * (x / 16 ^^^ m % 4) + x % 16)).toNat

/-- The format of an operand of a floating-point product. -/
def mjFmt (ty : Nat) (swap : Bool) : Fmt :=
  if ty = 0x9 then bf16 else if (ty = 0xA) != swap then e4m3 else e5m2

/-- The A element (m, k). -/
def mjA (p : List Host.Cell) (pa ty : Nat) (amix : Bool) (m k : Nat) : FNum × Bool :=
  if ty = 0x9 then
    (unpack bf16 (panelByte p pa m (2 * k) + 256 * panelByte p pa m (2 * k + 1)), false)
  else if ty = 0xC then
    let b := panelByte p pa m (k / 2)
    fp4Elem (if k % 2 = 0 then b % 16 else b / 16) (Memory.read p (pa + 8192 + 16 * m + k / 8)).toNat
      (Memory.readLE p (pa + 10240 + 2 * (m / 64)) 2)
  else (unpack (mjFmt ty amix) (panelByte p pa m k), false)

/-- Sub-element e of lane l of B register j. -/
def bSub (b : List (List Word)) (w j l e : Nat) : Nat := bitsOf (laneOf (b.getD j []) l).toNat (w * e) w

/-- The B element (k, n) of a member's registers (R279). -/
def mjB (b : List (List Word)) (band : Word) (ty k n : Nat) : FNum × Bool :=
  if ty = 0x9 then (unpack bf16 (bSub b 16 (k / 8) (4 * (k % 8) + n / 4) (n % 4)), false)
  else if ty = 0xC then
    let blk := k / 8
    fp4Elem (bSub b 4 (k / 32) (k % 32) n) (bSub b 8 4 (2 * n + blk / 8) (blk % 8)) (bitsOf band.toNat (if k < 64 then 0 else 16) 16)
  else (unpack (mjFmt ty false) (bSub b 8 (k / 16) (2 * (k % 16) + n / 8) (n % 8)), false)

/-- The I8 elements. -/
def mjA8 (p : List Host.Cell) (pa m k : Nat) : Int := (BitVec.ofNat 8 (panelByte p pa m k)).toInt
def mjB8 (b : List (List Word)) (k n : Nat) : Int := (BitVec.ofNat 8 (bSub b 8 (k / 16) (2 * (k % 16) + n / 8) (n % 8))).toInt

/-- The exact sum of sixteen products (R58); invalid when a product is a NaN or 0 × ∞, or infinities clash. -/
def exactSum (ps : List (FNum × Bool)) : FNum × Bool :=
  if ps.any fun p => p.2 || p.1.isNan then (.nan false, true)
  else if ps.any fun p => p.1 == .inf true then
    if ps.any fun p => p.1 == .inf false then (.nan false, true) else (.inf true, false)
  else if ps.any fun p => p.1 == .inf false then (.inf false, false)
  else
    let e := ps.foldl (fun e p => min e p.1.exp) 0
    let m := ps.foldl (fun m p => m + alignTo p.1.mant p.1.exp e) 0
    (ofDyadic m e (ps.all fun p => p.1.isZero && p.1.neg?), false)

/-- The product of two elements. -/
def elemMul (a b : FNum × Bool) : FNum × Bool :=
  let (p, iv) := mulX a.1 b.1
  (p, iv || a.2 || b.2)

/-- One accumulator element through the groups of R58, with the flags. -/
def accumulate (prod : Nat → FNum × Bool) (acc : FRes) : List Nat → FRes
  | [] => acc
  | g :: rest =>
    let (t, iv) := exactSum ((List.range 16).map fun k => prod (16 * g + k))
    let next : FRes :=
      if iv then { code := fp32.nanCode, flags := acc.flags ||| IV }
      else
        let r := pack fp32 Env.rn t
        let s := fadd fp32 Env.rn (unpack fp32 acc.code) (unpack fp32 r.code)
        { code := s.code, flags := acc.flags ||| r.flags ||| s.flags }
    accumulate prod next rest

/-- The new elements of a member's tile (R285), with the flags of its slice. -/
def mjTile (p : List Host.Cell) (pa ty : Nat) (amix : Bool) (b : List (List Word)) (band : Word) (old : Tile) :
    List (Nat × BitVec 32) × Nat :=
  let rs := (List.range 2048).map fun i =>
    let m := i / 16
    let n := i % 16
    if ty = 0x3 then
      let t := ((List.range 64).map fun k => mjA8 p pa m k * mjB8 b k n).foldl (· + ·) 0
      ({ code := (BitVec.ofInt 32 ((old.get i).toInt + t)).toNat, flags := 0 } : FRes)
    else
      accumulate (fun k => elemMul (mjA p pa ty amix m k) (mjB b band ty k n)) { code := (old.get i).toNat, flags := 0 }
        (List.range (mjDepth ty / 16))
  (rs.zipIdx.map fun r => (r.2, BitVec.ofNat 32 r.1.code), (rs.map (·.flags)).foldl (· ||| ·) 0)

/-! ## The rendezvous latch (R283 to R286) -/

/-- The lanes of other running paths of the block that a path of a wave belongs to (R214). -/
def State.blockOthers (s : State) (a : MjArrival) : BitVec 32 :=
  match s.wave? a.wave with
  | none => 0
  | some w =>
    let ps := if w.setAside a.hand then w.held.paths
      else if s.cw.uid == a.wave then s.allPaths else w.eng.paths
    (ps.filter fun p => p.active && p.id != a.path).foldl (fun m p => m ||| p.mask) 0

/-- The B registers of a member at the release, every lane of them (R279, R214). -/
def State.mjOperands (s : State) (ty : Nat) (a : MjArrival) : List (List Word) × State :=
  let other := s.blockOthers a
  let (n, s) := if other = 0 then (0, s) else s.draw
  match s.wave? a.wave with
  | none => ([], s)
  | some w =>
    ((List.range (if ty = 0xC then 5 else 4)).map fun j =>
      if h : a.breg + j < 128 then
        laneList.map fun l => if other.getLsbD l then Config.undef64 n (32 * j + l) else laneOf w.v[a.breg + j].toList l
      else [], s)

/-- One member's share of a joint operation: its tile and its flags. -/
def State.mjMember (s : State) (e : LatchEntry) (a : MjArrival) : State :=
  match s.team? e.team with
  | none => s
  | some t =>
    let (b, s) := s.mjOperands e.ty a
    let old := t.tiles.getD a.tile { undef := none, cells := [] }
    let (cells, flags) := mjTile t.scratch (e.pa % 2 ^ 24) e.ty e.amix b a.band old
    let s := s.updTeam t.uid fun t =>
      { t with tiles := t.tiles.zipIdx.map fun x => if x.2 == a.tile then { undef := none, cells } else x.1 }
    s.updWave a.wave fun w => { w with fstat := w.fstat ||| BitVec.ofNat 64 flags }

/-- Whether a write of the A panel of an entry is ordered before the read of none of its members (R247): old values of it may be used, so
the product is of undefined ones. -/
def State.panelLoose (s : State) (e : LatchEntry) : Bool :=
  let pa := e.pa % 2 ^ 24
  ((s.team? e.team).map fun t => t.unfenced.any fun (u : Unfenced) =>
    u.off < pa + (if e.ty = 0xC then 10304 else 8192) && pa < u.off + u.n && !(e.arrivals.any fun a => u.seen.contains a.wave)).getD false

/-- The release of an entry (R285): the joint operation starts, and every member's path but the executing one goes on. -/
def State.releaseLatch (s : State) (e : LatchEntry) : State :=
  let loose := s.panelLoose e || e.arrivals.any (·.loose)
  let s := e.arrivals.foldl (fun (s : State) a => s.mjMember e a) s
  let (u, s) := s.fresh
  let core := ((s.team? e.team).map fun t => (t.dev, t.core, t.ctx)).getD (0, 0, 0)
  let j : JointOp :=
    { uid := u, dev := core.1, core := core.2.1, team := e.team, ctx := core.2.2, slice := bitsOf e.gang.toNat 4 3, ty := e.ty,
      pa := e.pa % 2 ^ 24, members := e.arrivals, dirty := e.dirty || loose, dirtyTiles := [] }
  let s := { s with jointOps := s.jointOps ++ [j], latch := s.latch.filter fun x => x.uid != e.uid }
  e.arrivals.foldl (fun (s : State) a =>
    if a.wave == s.cw.uid && s.cp.live && a.path == s.cp.id then s
    else s.updPath a.wave a.path a.hand fun p => { p.age (bitsOf a.word 92 4 + 1) with lpc := p.lpc + 1, wait := .none }) s

/-- The member that an arrival is. -/
def sameMember (a b : MjArrival) : Bool := a.wave == b.wave

/-- Every wave of an entry and the arriving one trap MATRIX_GANG; the entry is discarded (R284). -/
def State.gangFails (s : State) (e : LatchEntry) (all : List MjArrival) (reason : Nat) : State :=
  let s := { s with latch := s.latch.filter fun x => x.uid != e.uid }
  all.foldl (fun (s : State) a => s.pendLane a.wave a.path a.hand a.word { cause := MATRIX_GANG, info := .ofNat 64 reason }) s

/-- Whether every member that a GANG value names is a live wave of the team (R284). -/
def State.gangAlive (s : State) (team : Nat) (g : Word) : Bool :=
  (gangMembers g).all fun i => s.allWaves.any fun w => w.team == team && w.index == i && w.st != .exited

/-- The arrival of a member (R284). The answer is where its path goes. -/
def State.arrive (s : State) (new : LatchEntry) (a : MjArrival) : PathNext × State :=
  let mine := s.latch.filter fun e => e.team == new.team
  let found := match mine.find? fun e => e.gang == new.gang with
    | some e => some e
    | none => mine.find? fun e => gangNames e.gang s.cw.index
  let e := found.getD new
  let all := e.arrivals ++ [a]
  let mismatch := e.gang != new.gang || e.ty != new.ty || e.amix != new.amix || e.pa != new.pa ||
    e.arrivals.any fun b => b.tile == a.tile
  if mismatch then (.stay .none, s.gangFails e all 2)
  else if !s.gangAlive e.team e.gang then (.stay .none, s.gangFails e all 4)
  else
    let e := { e with arrivals := all }
    if all.length == (gangMembers e.gang).length then (.step, s.releaseLatch e)
    else
      let here := s.latch.any fun x => x.uid == e.uid
      (.stay .latch, { s with latch := if here then updBy LatchEntry.uid e.uid (fun _ => e) s.latch else s.latch ++ [e] })

/-- The GANG value of the running block (R276). -/
def State.blockGang (s : State) : Word := ((s.cw.eng.queue.head?).map (·.gang)).getD s.cw.gang

/-- The poison that an MJ reads (R279, R399): in its tile, in any lane of its B registers, and in its A panel, which is hoop SRAM (R392). -/
def mjPoison (o : LaneOp) (pa : Word) (len : Nat) (path : BitVec 32) : Op Unit := do
  let s ← get
  if !(s.poisonElems o.d.toNat).isEmpty then laneTrap SOFT_ERROR_UNCORRECTED path 0 5
  let lanes := (mjRegs o).foldl (fun m r => m ||| s.poisonLanes (BitVec.allOnes 32) (.v r)) 0
  if lanes ≠ 0 then laneTrap SOFT_ERROR_UNCORRECTED lanes 0 4
  let off := pa.toNat % 2 ^ 24
  let words := s.poison.filterMap fun u => match u with
    | .scratchWord t a => if t == s.cw.team && off < a + 8 && a < off + len then some (max a off) else none
    | _ => none
  match words with
  | [] => pure ()
  | a :: rest => laneTrap SOFT_ERROR_UNCORRECTED path (pa + .ofNat 64 (rest.foldl min a - off)) 2

/-- MJ (R283). -/
def fxMj : LaneFx := fun o i => do
  let s ← get
  let w := s.cw
  let gang := s.blockGang
  if bitsOf gang.toNat 0 3 = 0 then laneTrap MATRIX_GANG i.path 0 5
  let ty := o.ty.toNat
  let pa := laneOf i.b 0
  let len := if ty = 0xC then 10304 else 8192
  if pa.toNat % 64 ≠ 0 then laneTrap MISALIGN i.path pa
  let t ← myTeam
  let off := pa.toNat % 2 ^ 24
  let field := (pa.toNat - scratchWindow) / 2 ^ 24
  if pa.toNat < scratchWindow || !(field == 0 || field == t.tpos + 1) || t.banks * 131072 < off + len then
    laneTrap PROTECTION i.path pa
  mjPoison o pa len i.path
  if s.latch.any fun e => e.arrivals.any fun a => a.wave == w.uid then stall
  let uid ← fresh
  let hand := w.level == .handler
  let a : MjArrival :=
    { wave := w.uid, path := s.cp.id, hand, tile := o.d.toNat, tag := o.imm.toNat, breg := o.a.toNat, band := laneOf i.c 0,
      since := s.time w.dev, word := s.word,
      loose := (List.range (if ty = 0xC then 5 else 4)).any fun j => w.loose.contains (o.a.toNat + j) }
  let e : LatchEntry :=
    { uid, team := t.uid, gang, ty, amix := LaneX o % 2 == 1, pa := pa.toNat, arrivals := [], dirty := false }
  let (next, s) := (← get).arrive e a
  set s
  pure { next }
def execMj (o : LaneOp) (s : State) : Host.Outcome State Fault Refusal := runOne .mj fxMj o s

/-- The panel writes that are ordered for the executing wave are so before its later joint operations (R247, R287); one that every live wave
of the team has fenced needs no record. -/
def State.fencePanels (s : State) : State :=
  let live := (s.liveIn (· == s.cw.team)).map (·.uid)
  s.updTeam s.cw.team fun t =>
    { t with unfenced := (t.unfenced.map fun (u : Unfenced) =>
        if u.elig.contains s.cw.uid then { u with seen := s.cw.uid :: u.seen.filter (· != s.cw.uid) } else u).filter fun u =>
          !live.all u.seen.contains }

/-- MFENCE (R287): every earlier register write of the path is complete; that makes no word less short, since R84 goes by encoded
distance alone. -/
def fxMfence : LaneFx := fun _ _ => do
  if !(← get).cp.var.isEmpty then stall
  modify fun s => { s.fencePanels with cw := { s.cw with loose := [] } }
  pure {}
def execMfence (o : LaneOp) (s : State) : Host.Outcome State Fault Refusal := runOne .mfence fxMfence o s

/-- MWAIT (R288): it waits for the joint operations released before it issued. The products it covers are then awaited (R247). -/
def fxMwait : LaneFx := fun o _ => do
  let s ← get
  let tag := if LaneX o % 2 == 1 then 16 else o.imm.toNat
  let left := (s.openProducts tag).filter fun u => match s.cp.wait with
    | .product us => us.contains u
    | _ => true
  if !left.isEmpty then throw (.wait .batch tag 0 false)
  modify fun s => { s with products := s.unawaited fun a => a.wave == s.cw.uid && (tag == 16 || a.tag == tag) }
  pure {}
def execMwait (o : LaneOp) (s : State) : Host.Outcome State Fault Refusal := runOne .mwait fxMwait o s

/-! ## Events -/

/-- The slices of a joint operation. -/
def JointOp.slices (j : JointOp) : List Nat := (List.range j.members.length).map (j.slice + ·)

/-- JOINT_OPERATION_COMPLETE (R286, R288): operations on one slice complete in the order of their releases. -/
def execJointOperationComplete (s : State) : Host.Outcome State Fault Refusal :=
  match s.turn with
  | .event (.jointOperationComplete op) =>
    match s.jointOps.find? fun j => j.uid == op with
    | none => .next s
    | some j =>
      let earlier := s.jointOps.takeWhile fun x => x.uid != op
      if earlier.any fun x => x.dev == j.dev && x.core == j.core && x.slices.any j.slices.contains then .next s
      else .next (s.completeJoint j)
  | _ => .next s

/-- 2^20 cycles of 600 MHz have passed since a moment (R10). -/
def timedOut (now since : Nat) : Bool := 2 ^ 20 * 1000 ≤ (now - since) * 600

/-- MJ_LATCH_TIMEOUT (R284): MATRIX_GANG 3 in the member alone; the entry stays open. -/
def execMjLatchTimeout (s : State) : Host.Outcome State Fault Refusal :=
  match s.turn with
  | .event (.mjLatchTimeout wave) =>
    match (s.latch.flatMap (·.arrivals)).find? fun a => a.wave == wave with
    | none => .next s
    | some a =>
      match s.wave? wave with
      | none => .next s
      | some w =>
        if timedOut (s.time w.dev) a.since then
          let s := { s with latch := s.latch.map fun (e : LatchEntry) =>
            { e with arrivals := e.arrivals.filter fun b => b.wave != wave } }
          .next (s.pendLane wave a.path a.hand a.word { cause := MATRIX_GANG, info := 3 })
        else .next s
  | _ => .next s

/-- The waiting path of a wave at a rendezvous slot, of its handler's blocks or its program's. -/
def State.slotWaiter (s : State) (wave path : Nat) : Option (Bool × Nat × Nat × Nat) :=
  let at' (hand : Bool) : Option (Bool × Nat × Nat × Nat) :=
    match s.pathOf wave path hand with
    | some p => match p.wait with
      | .slot r since _ word => some (hand, r, since, word)
      | _ => none
    | none => none
  match s.wave? wave with
  | none => none
  | some w => match at' (w.level == .handler) with
    | some x => some x
    | none => at' false

/-- RENDEZVOUS_TIMEOUT (R224): the slot is unchanged; HINFO[2:0] holds it. -/
def execRendezvousTimeout (s : State) : Host.Outcome State Fault Refusal :=
  match s.turn with
  | .event (.rendezvousTimeout wave path) =>
    match s.slotWaiter wave path, s.wave? wave with
    | some (hand, r, since, word), some w =>
      if timedOut (s.time w.dev) since then
        .next (s.pendLane wave path hand word { cause := CAUSE_RENDEZVOUS_TIMEOUT, info := .ofNat 64 (r % 8) })
      else .next s
    | _, _ => .next s
  | _ => .next s

end Sys2Proof.Machine
end

