-- ==== Sys2Proof/Machine/LanePair.lean ====
section
/-!
DEFINITION. The pair (R75, R80, R81): two short operations of one lane word, each with the effect of its own entry.
-/

namespace Sys2Proof.Machine

/-- The effect of each operation code. -/
def laneFx : LaneCode → LaneFx
  | .vadd => fxVadd
  | .vsub => fxVsub
  | .vmul => fxVmul
  | .vmulh => fxVmulh
  | .vmad => fxVmad
  | .vabs => fxVabs
  | .vneg => fxVneg
  | .vmin => fxVmin
  | .vmax => fxVmax
  | .vavg => fxVavg
  | .vsad => fxVsad
  | .vdot4 => fxVdot4
  | .vand => fxVand
  | .vor => fxVor
  | .vxor => fxVxor
  | .vandn => fxVandn
  | .vnot => fxVnot
  | .vshl => fxVshl
  | .vshr => fxVshr
  | .vsra => fxVsra
  | .vrol => fxVrol
  | .vclz => fxVclz
  | .vpopc => fxVpopc
  | .vbfx => fxVbfx
  | .vbfi => fxVbfi
  | .vsel => fxVsel
  | .vmov => fxVmov
  | .vmovi => fxVmovi
  | .vlaneid => fxVlaneid
  | .vcmp => fxVcmp
  | .vcmpk => fxVcmpk
  | .vfadd => fxVfadd
  | .vfsub => fxVfsub
  | .vfmul => fxVfmul
  | .vfma => fxVfma
  | .vfmin => fxVfmin
  | .vfmax => fxVfmax
  | .vfabs => fxVfabs
  | .vfneg => fxVfneg
  | .vfcpsgn => fxVfcpsgn
  | .vfcmp => fxVfcmp
  | .vfcmpk => fxVfcmpk
  | .vfclass => fxVfclass
  | .vfdot2 => fxVfdot2
  | .vfsumh => fxVfsumh
  | .vfrcp => fxVfrcp
  | .vfrsq => fxVfrsq
  | .vfsqrt => fxVfsqrt
  | .vfexp2 => fxVfexp2
  | .vflog2 => fxVflog2
  | .vfsin => fxVfsin
  | .vfcos => fxVfcos
  | .vftanh => fxVftanh
  | .vfdiv => fxVfdiv
  | .vcvt => fxVcvt
  | .vpack => fxVpack
  | .vunpk => fxVunpk
  | .vbscale => fxVbscale
  | .vbquant => fxVbquant
  | .vswz => fxVswz
  | .vperm => fxVperm
  | .vbcast => fxVbcast
  | .vshfl => fxVshfl
  | .vrfal => fxVrfal
  | .vred => fxVred
  | .vscan => fxVscan
  | .vballot => fxVballot
  | .vld => fxVld
  | .vst => fxVst
  | .vatom => fxVatom
  | .vpref => fxVpref
  | .lbr => fxLbr
  | .ljoin => fxLjoin
  | .lend => fxLend
  | .lnop => fxLnop
  | .lkill => fxLkill
  | .lelect => fxLelect
  | .ljmp => fxLjmp
  | .mj => fxMj
  | .mfence => fxMfence
  | .mwait => fxMwait
  | .amovr => fxAmovr
  | .amovw => fxAmovw
  | .azero => fxAzero
  | .astore => fxAstore
  | .vpass => fxVpass
  | .vtake => fxVtake

/-- A slot of a pair as a long operation (R75). -/
def pairSlot (o : ShortOp) (stall : BitVec 4) : Option LaneSlot :=
  (LaneCode.ofOp9 o.op9.toNat).map fun c => { code := c, op := o.long stall, fx := laneFx c }

/-- LANE_WORD_PAIR (R80, R81): an op9 that the map does not list traps ILLEGAL_OP. -/
def execLaneWordPair (stall : BitVec 4) (x y : ShortOp) (s : State) : Host.Outcome State Fault Refusal :=
  match pairSlot x stall, pairSlot y stall with
  | some a, some b => runLane stall.toNat [a, b] s
  | _, _ => .next (s.laneTrapped { cause := ILLEGAL_OP, lanes := s.cp.mask, lane := true })

end Sys2Proof.Machine
end

