-- ==== Sys2Proof/Machine/Fetch.lean ====
section
/-!
DEFINITION. Which words may issue, fetching and decoding them (R64, R73, R87, R88, R336, R399), taking a trap at a scalar word
boundary (R389), and placing a word where the step fetches its next one.
-/

namespace Sys2Proof.Machine

/-! ## Traps at a scalar word boundary -/

/-- The trap of a list that comes first by a measure. -/
def firstBy (f : Trap → Nat) (ts : List Trap) : Option Trap :=
  ts.foldl (fun best t => match best with
    | none => some t
    | some b => if f t < f b then some t else some b) none

/-- The trap due at a word boundary (R389): others, lane traps by the issue of their words, copies by batch. At handler level only those of
the handler's own words and blocks are due (R388). -/
def Wave.dueTrap (w : Wave) : Option Trap :=
  let ts := if w.level == .handler then w.pending.filter fun t => !t.xfer && !t.pend else w.pending
  ((firstBy (·.seq) (ts.filter fun t => !t.lane && !t.xfer)).or (firstBy (·.seq) (ts.filter (·.lane)))).or
    (firstBy (fun t => bitsOf t.info.toNat 0 32) (ts.filter (·.xfer)))

/-- The executing wave takes a due trap; the others stay pending (R389). -/
def State.takeDue (s : State) (t : Trap) : State :=
  { s with cw := { s.cw with pending := s.cw.pending.erase t } }.takeTrapAt t s.cw.pc

/-- Whether the executing wave of a state has taken a trap by another. -/
def State.trappedBy (s s' : State) : Bool := ((s'.wave? s.cw.uid).map (·.traps)) == some (s.cw.traps + 1)

/-- A boundary at which a lane or copy trap is due: the trap of the scalar word itself comes first, where the word has one (R389). `tried`
is what the word did; it has no effect when the due trap is taken. -/
def State.orDue (s : State) (t : Trap) (tried : State) : State := if s.trappedBy tried then tried else s.takeDue t

/-! ## Who may issue -/

/-- Whether a context's waves may run (R98, R113, R114): it is active, its device runs, and its function has the partition, in a slice
that is not over. -/
def State.ctxRuns (s : State) (u : Nat) : Bool :=
  match s.ctx? u with
  | none => false
  | some c =>
    c.st == .active &&
      (match s.dev? c.dev with
        | some d => !d.parked
        | none => false) && s.hasSlice c

/-- Whether a wave has given up issue for now (R155): an entity it yielded to has not issued, and 64 cycles have not passed. -/
def State.yields (s : State) (w : Wave) : Bool := !w.yieldTo.isEmpty && decide (s.time w.dev < w.yieldEnd)

/-- Whether a wave is at a boundary at which a trap may be taken: it is on a core of a running context; a wait in progress is one
(R180), for a page too (R353). -/
def State.atBoundary (s : State) (w : Wave) : Bool := w.uid != 0 && w.st.onCore && s.ctxRuns w.ctx

/-- Whether the scalar stream of a wave may issue: the wave is on a core of a running context, waits for no page and has not
yielded (R133, R353, R155). -/
def State.scalarReady (s : State) (w : Wave) : Bool :=
  w.uid != 0 && w.st.onCore && w.pageWait.isNone && s.ctxRuns w.ctx && !s.yields w

/-- Whether the lane side of a wave may issue: no trap of its lanes waits to be taken (R8, R180). -/
def State.laneReady (s : State) (w : Wave) : Bool :=
  w.uid != 0 && w.st.onCore && w.pageWait.isNone && s.ctxRuns w.ctx && w.eng.running &&
    !(w.pending.any fun t => t.lane && (w.level == .ordinary || !t.pend))

/-- Whether a path may issue: it runs, is no spilled fragment, and is not at an LJOIN or the latch. -/
def Path.ready (p : Path) : Bool :=
  p.active && p.place != .spilled && p.place != .reloading &&
    match p.wait with
    | .join _ _ | .latch => false
    | _ => true

/-! ## Fetching -/

/-- What a fetch gives: an instruction to execute, a state in which the fetch itself has had its effect, or an instruction before which a
trap is due in a state (R389). -/
inductive Fetched where
  | run (i : Instr) (s : State)
  | done (s : State)
  | contest (i : Instr) (s : State) (t : Trap) (due : State)

/-- A fetch at a boundary where a trap is due in `s` (R389). -/
def Fetched.against (s : State) (t : Trap) : Fetched → Fetched
  | .run i s' => .contest i s' t s
  | .done s' => .done (s.orDue t s')
  | .contest i s' _ _ => .contest i s' t s

/-- A part of an instruction fetched: where it lies, its page, and its value. -/
structure CodePart where
  phys : Nat
  page : Nat
  val : Nat

/-- Bytes of code at a virtual address, up to 4 of them inside one page. -/
def State.fetchPart (s : State) (a n : Nat) : Except (Option XFault) CodePart × State :=
  match s.translate (s.whoOf s.cw) .fetch a false with
  | (.at p page, s) => (.ok ⟨p, page, Memory.readLE s.mem p n⟩, s)
  | (.blocked, s) => (.error none, s)
  | (.fault f, s) => (.error (some f), s)

/-- A fetch moves its bytes at their home agents and counts once at each page (R109, R355); a word that has begun to wait has been
fetched. -/
def State.fetched (s : State) (waits : Bool) (parts : List CodePart) (n : Nat) : State :=
  if waits then s
  else
    let w := s.whoOf s.cw
    (parts.foldl (fun (s : State) x => s.hbm w x.phys n) s).countPages w (parts.map (·.page))

/-- The scalar registers that a word reads as operands, where its meaning does not check them itself (R399). -/
def scalarReads : Instr → List SReg
  | .sadd _ a b | .ssub _ a b | .smul _ a b | .smulh _ a b | .smulhu _ a b | .sdiv _ a b | .sdivu _ a b | .srem _ a b
  | .sremu _ a b | .sand _ a b | .sor _ a b | .sxor _ a b | .sandn _ a b | .sorn _ a b | .sshl _ a b | .sshr _ a b
  | .ssra _ a b | .srol _ a b | .sror _ a b | .smin _ a b | .smax _ a b | .sminu _ a b | .smaxu _ a b | .saddw _ a b
  | .ssubw _ a b | .sceq _ a b | .scne _ a b | .sclt _ a b | .scltu _ a b | .scle _ a b | .scleu _ a b => [a, b]
  | .sclz _ a | .sctz _ a | .spopc _ a | .sbrev _ a | .sbswap _ a | .saddi _ a _ | .sandi _ a _ | .sori _ a _
  | .sxori _ a _ | .sshli _ a _ | .sshri _ a _ | .ssrai _ a _ | .sroli _ a _ | .sclti _ a _ | .sbfx _ a _ _
  | .sbfxs _ a _ _ | .beqz a _ | .bnez a _ | .bltz a _ | .bgez a _ | .bgtz a _ | .blez a _ | .jr a | .jalr _ a
  | .sld _ a _ _ | .kfroms _ a | .syswr a _ | .hpcWrite a => [a]
  | .sbfi d a _ _ => [a, d]
  | .ssel _ a b c => [a, b, c]
  | .sst _ a _ _ => [a]
  | .lrun _ => (List.range 16).map fun i => .ofNat 6 (48 + i)
  | _ => []

/-- The mask registers that a scalar word reads. -/
def scalarKReads : Instr → List KReg
  | .kand _ a b | .kor _ a b | .kxor _ a b | .kandn _ a b => [a, b]
  | .knot _ a | .ktos _ a | .kpop _ a | .kfirst _ a | .bkany a _ | .bknone a _ | .bkall a _ => [a]
  | _ => []

/-- Whether a scalar word has come to read its operands: its ILLEGAL_OP, PRIV and PROTECTION of LRUN come first (R90, R164, R169,
R174), and so does the wait after which an enqueued block has written its results (R173, R174, R177). -/
def State.readsNow (s : State) : Instr → Bool
  | .sbfx _ _ p len | .sbfxs _ _ p len | .sbfi _ _ p len => p.toNat + len.toNat + 1 ≤ 64
  | .sld _ _ size _ => size != 7
  | .sst _ _ size _ => size.toNat < 4
  | .syswr _ n => sysRwMask n.toNat != 0 && (sysAssigned n.toNat && !(sysWaits n.toNat && !s.blocksAtMost 0)) &&
      (n != 0x021 || s.cw.level == .handler)
  | .hpcWrite _ => s.cw.level == .handler
  | .kand _ _ _ | .kor _ _ _ | .kxor _ _ _ | .kandn _ _ _ | .knot _ _ | .ktos _ _ | .kpop _ _ | .kfirst _ _ | .kfroms _ _
  | .bkany _ _ | .bknone _ _ | .bkall _ _ => s.blocksAtMost 0
  | .lrun imm => imm.toNat < ((s.kernelOf s.cw).map (·.lwords)).getD 0 && s.cw.eng.queue.length < s.cw.queueLimit
  | .sqrd _ _ => s.resultsWritten
  | _ => true

/-- Whether a scalar word consumes poison (R399). -/
def State.readsPoison (s : State) (i : Instr) : Bool :=
  let u := s.cw.uid
  s.readsNow i && s.poison.any fun p => match p with
    | .sReg w r => w == u && (scalarReads i).contains r
    | .kReg w r => w == u && (scalarKReads i).contains r
    | .qReg w r => w == u && match i with
      | .sqrd _ a => a == r
      | _ => false
    | _ => false

/-- The scalar word at the pc of the executing wave: section end and data lines (R64, R88), translation (R336), poison (R399),
decode (R66). -/
def State.fetchScalar (s : State) : Fetched :=
  let w := s.cw
  match s.kernelOf w with
  | none => .done s
  | some k =>
    if !s.inCode w.pc then .done ({ s with word := 0 }.takeTrapAt { cause := PROTECTION, addr := w.pc } w.prev)
    else if k.dataLine w.pc.toNat then .done ({ s with word := 0 }.takeTrapAt { cause := POOL_EXEC, addr := w.pc } w.prev)
    else
      match s.fetchPart w.pc.toNat 4 with
      | (.error none, s) => .done s
      | (.error (some f), s) => .done ({ s with word := 0 }.takeTrap { cause := f.cause, addr := w.pc, info := f.info false })
      | (.ok x, s) =>
        let s := { s.fetched w.wait.isSome [x] 4 with word := x.val }
        match s.poisonAt (.phys x.phys 0) 4 fun _ => true with
        | some store => .done (s.takeTrap { cause := SOFT_ERROR_UNCORRECTED, addr := w.pc, info := .ofNat 64 store })
        | none =>
          match decodeScalar x.val with
          | .error _ => .done (s.takeTrap { cause := ILLEGAL_OP })
          | .ok i =>
            if s.readsPoison i then .done (s.takeTrap { cause := SOFT_ERROR_UNCORRECTED, info := 6 }) else .run i s

/-- The lane word of the executing path: it may lie on two pages. Past the end of the section the path traps PROTECTION with the
word's address (R207). -/
def State.fetchLane (s : State) : Fetched :=
  match s.kernelOf s.cw with
  | none => .done s
  | some k =>
    let a := k.lbase + 12 * s.cp.lpc
    let stop (s : State) (t : Trap) : Fetched := .done ({ s with word := 2 ^ 91 }.laneTrapped { t with lane := true, lanes := s.cp.mask })
    if k.lwords ≤ s.cp.lpc then stop s { cause := PROTECTION, addr := .ofNat 64 a }
    else
      let part (s : State) (a : Nat) (f : CodePart → State → Fetched) : Fetched :=
        match s.fetchPart a 4 with
        | (.error none, s) => .done s
        | (.error (some x), s) => stop s { cause := x.cause, addr := .ofNat 64 a, info := x.info false }
        | (.ok r, s) =>
          match s.poisonAt (.phys r.phys 0) 4 fun _ => true with
          | some store => stop s { cause := SOFT_ERROR_UNCORRECTED, addr := .ofNat 64 a, info := .ofNat 64 store }
          | none => f r s
      part s a fun x s => part s (a + 4) fun y s => part s (a + 8) fun z s =>
        let n := x.val + y.val * 2 ^ 32 + z.val * 2 ^ 64
        let s := { s.fetched (s.cp.wait != .none) [x, y, z] 4 with word := n }
        match decodeLane n with
        | .error _ => .done (s.laneTrapped { cause := ILLEGAL_OP, lane := true, lanes := s.cp.mask })
        | .ok i => .run i s

/-! ## What a turn fetches -/

/-- Whether the word of an entity has issued already and waits: its turns since are no issues (R143). -/
def State.issued (s : State) : Option Nat → Bool
  | none => s.cw.wait.isSome
  | some _ => s.cp.wait != .none

/-- An entity of the issue ports issues: the executing path, or the scalar stream of the executing wave. It is the one that issued
most recently (R143), its slot the wave's last (R140), and no wave yields to it any longer (R155). -/
def State.issues (s : State) (path : Option Nat) : State :=
  if s.issued path then s else
  let e := (s.cw.uid, path)
  let n := s.issueSeq
  let s := { s.mapWaves (fun w => w.yieldTo.contains e) fun w => { w with yieldTo := w.yieldTo.erase e } with issueSeq := n + 1 }
  match path with
  | none => { s with cw := { s.cw with issued := n } }
  | some _ =>
    let last := if s.cp.place == .slotA || s.cp.place == .slotB then s.cp.place else s.cw.eng.last
    { s with cp := { s.cp with issued := n }, cw := { s.cw with eng := { s.cw.eng with last } } }

/-- The instruction of a turn, in the state in which it executes. A turn that cannot move changes nothing. -/
def State.fetchTurn (s : State) : Fetched :=
  match s.turn with
  | .idle => .done s
  | .event e => .run e.instr s.unfocus
  | .scalar u =>
    let s := s.focus u
    if !(s.cw.uid == u && s.scalarReady s.cw) then .done s
    else
      match s.cw.dueTrap with
      | some t => if t.lane || t.xfer then (s.issues none).fetchScalar.against s t else .done (s.takeDue t)
      | none => (s.issues none).fetchScalar
  | .lane u p =>
    let s := (s.focus u).focusPath p
    if !(s.cw.uid == u && s.cp.live && s.cp.id == p && s.laneReady s.cw && s.cp.ready) then .done s
    else (s.issues (some p)).fetchLane

/-! ## A word placed where the next step fetches it -/

/-- A leaf entry of 1 GiB at address 0 with every right, accessed and dirty (R335). -/
def bootLeaf : Nat := 0x7F

/-- The tables of the placed context: stage 2 in the system frames 0 and 1, stage 1 in the partition's frames; both map the
first GiB onto itself (R334). -/
def bootTables (m : List Host.Cell) : List Host.Cell :=
  let put (m : List Host.Cell) (a x : Nat) : List Host.Cell := Memory.writeBytes m a (leBytes x 8)
  put (put (put (put (put m 0x00000 0x10001) 0x10000 bootLeaf) 0x20000 0x30001) 0x30000 0x40001) 0x40000 bootLeaf

/-- A context with one loaded kernel of 8 scalar and 8 lane words. -/
def bootCtx : Ctx :=
  { uid := 1, dev := 0, func := 1, num := 1, part := 1, svc := false, st := .active, before := .loaded, deviceParked := false,
    faulting := 0, weight := 1, credit := 0, slice := 64, quota := 1048576, quotaUsed := 0, ceiling := 0, root1 := 0x20000,
    spillBase := 0x100000, slotSize := 8192, slotCount := 8, slotsUsed := [0],
    kernels := [{ num := 1, name := [], waves := 1, vregs := 128, acc := 96, banks := 1, rows := 1, cols := 1, lc1 := false,
                  gang := 0, paramLen := 0, spill := 8192, handler := none, sbase := 0x50000, swords := 8, lbase := 0x60000,
                  lwords := 8, dbase := 0x70000, dbytes := 0, entries := [0], responders := [], pools := [], frames := [], leaves := [] }],
    counters := { cycles := 0, swords := 0, lwords := 0, mjops := 0, xbytes := 0, traps := 0, evicts := 0, throttle := 0,
                  replays := 0 },
    threshold := 256, migPort := none, meshes := [], buckets := [] }

/-- The team of the placed wave. -/
def bootTeam : Team :=
  { uid := 2, dev := 0, core := 0, ctx := 1, kernel := 1, cluster := 3, tpos := 0, acc := 96, banks := 1, vregs := 128,
    scratch := [], tiles := .replicate 96 { undef := none, cells := [] },
    slots := .replicate 8 { full := false, mask := 0, vals := .replicate 32 0 }, bar := .idle, named := .replicate 16 .idle, unfenced := [] }

/-- The cluster of the placed wave. -/
def bootCluster : Cluster :=
  { uid := 3, dev := 0, ctx := 1, launch := none, kernel := 1, rows := 1, cols := 1, lc1 := false, teams := [2], st := .placed,
    home := 0, corner := 0, prio := 0, since := 0, arrival := 0, hold := none, fresh := false, bar := .idle }

/-- The placed wave, at the first word of its kernel; with a block running at lane word 0 when a lane word is placed. -/
def bootWave (lane : Bool) : Wave :=
  let w : Wave := { Wave.blank 0 with
    uid := 4, dev := 0, core := 0, ctx := 1, team := 2, kernel := 1, handle := 0x10100000, vregs := 128, pc := 0x50000,
    prev := 0x50000, st := .resident }
  if lane then
    { w with eng := { w.eng with queue := [{ start := 0, uniform := .replicate 16 0, chk := 0, gang := 0 }] } }.startBlock
  else w

/-- The state with a word of a scalar or a lane section placed where the next step fetches it: what system software and the
dispatcher leave once they have created a context, loaded a kernel and placed a wave (log entry 1). -/
def State.place (s : State) (lane : Bool) (word : Nat) : State :=
  let m := bootTables s.mem
  let m := if lane then Memory.writeBytes m 0x60000 (leBytes word 12) else Memory.writeBytes m 0x50000 (leBytes word 4)
  { s.unfocus with
    mem := m, ctxs := [bootCtx], teams := [bootTeam], clusters := [bootCluster], waves := [bootWave lane],
    handles := [{ ctx := 1, index := 0, gen := 1, kind := 1, obj := some 4 }],
    owners := [{ dev := 0, first := 0, count := 2, code := 0xFF }, { dev := 0, first := 2, count := 16382, code := 1 }],
    parts := [{ dev := 0, num := 1, hoops := List.range 64, domain := 0, nextDomain := none, ageing := 2000, sliceNs := 4000000, running := 1,
                sliceFrom := 0, hbmBytes := 0, lentBytes := 0, attest := 0 }],
    banks := [{ dev := 0, hoop := 0, bank := 0, mode := .scratchpad, owner := some 2, fifo := [], pending := none,
                pendingOwner := none }],
    funcs := [{ dev := 0, num := 1, part := 1, root2 := 0, records := [], slots := [], signals := [], errors := 0, answer := [],
                draining := false, drainFrom := 0, tornDown := false }],
    devs := s.devs.map fun d => { d with stage := .full, dies := List.range 8, parked := false },
    nextUid := s.nextUid + 8, turn := if lane then .lane 4 0 else .scalar 4 }

end Sys2Proof.Machine
end

