-- ==== Sys2Proof/Machine/Group.lean ====
section
/-!
DEFINITION. The wave instructions (R150 to R159), and the events of a wave: trap entry at a word boundary (R387, R389), the end of
a handler's share (R145), the end of a lane block (R175), a result's write (R83), the reload of a fragment (R137, R141).
-/

namespace Sys2Proof.Machine

/-! ## Steps that change the wave itself -/

/-- The outcome of a call whose last act may end the executing wave: `f` is applied in place of the retirement. -/
def runTo (op : Op (State → State)) (s : State) : Host.Outcome State Fault Refusal :=
  match op.run s with
  | .ok f s' => .next (f s')
  | .error .finished s' => .next s'.retire
  | .error (.trap t) s' => .next ((s.undo s').takeTrap t)
  | .error (.wait kind obj d blocking) s' => .next (s'.suspend kind obj d blocking)

/-- The wave that a handle operand names: 0 is the executing one (R150). -/
def resolveWave (a : SReg) : Op Wave := do
  let x ← rd a
  let s ← get
  if x.setWidth 32 = (0 : BitVec 32) then pure s.cw
  else
    let (_, u) ← resolve a [kWAVE]
    match s.wave? u with
    | some w => pure w
    | none => trap HANDLE_INVALID 0 (zext64 (x.setWidth 32))

/-! ## WSPAWN (R151, R152) -/

/-- The run list that a team of its own enters (R151): the creator's hoop, else one of its die, else any of the mask; `n` is the draw that
says which. -/
def spawnHoop (core mask n : Nat) : Nat :=
  let has (h : Nat) : Bool := mask / 2 ^ (8 * h) % 256 != 0
  let any := (List.range 64).filter has
  let die := any.filter fun h => h / 8 == core / 64
  if has (core / 8) then core / 8
  else if die.isEmpty then any.getD (Config.pick n % any.length) (core / 8)
  else die.getD (Config.pick n % die.length) (core / 8)

/-- WSPAWN's FULL condition (R151). -/
def State.teamFull (s : State) (k : Kernel) : Bool :=
  let w := s.cw
  16 ≤ (s.allWaves.filter fun x => x.team == w.team && x.st != .exited).length ||
    s.freeSlotsOn w.dev w.core = 0 || s.freeRegsOn w.dev w.core < k.vregs

/-- The wave that a WSPAWN creates, apart from its place. -/
def spawnBirth (w : Wave) (k : Kernel) (entry : Nat) (x1 x2 : Word) (prio : BitVec 3) (det : Bool) : Birth :=
  { ctx := w.ctx, team := w.team, kernel := w.kernel, entry := k.entries.getD entry 0, index := 0, tpos := 0,
    teamIndex := w.teamIndex.toNat, clusterIndex := w.clusterIndex.toNat, gridpos := w.gridpos,
    regs := [(1, x1), (2, x2), (3, zext64 w.handle)], prio, ceiling := w.ceiling, launch := w.launch, ofLaunch := false,
    responder := none, joinable := !det, dev := w.dev, core := w.core, st := .resident }

/-- A new wave in the creator's team, on its core (R152). -/
def State.spawnInTeam (s : State) (b : Birth) : BitVec 32 × State :=
  let live := (s.allWaves.filter fun x => x.team == b.team && x.st != .exited).map (·.index)
  let index := lowestFree live 0 16
  let b := { b with index, tpos := s.cw.tpos, regs := b.regs ++ [(4, .ofNat 64 index), (6, .ofNat 64 scratchWindow)] }
  let (h, _, s) := s.birth b
  (h, s)

/-- A new wave in a team of its own, whose cluster enters a run list (R151, R152). -/
def State.spawnAlone (s : State) (b : Birth) (part : Nat) (k : Kernel) : BitVec 32 × State :=
  let mask := s.maskFor b.dev part b.launch
  let (cu, s) := s.fresh
  let (n, s) := s.draw
  let (tu, s) := s.newTeam { Team.blank with dev := b.dev, ctx := b.ctx, kernel := b.kernel, cluster := cu, vregs := k.vregs }
  let c : Cluster :=
    { uid := cu, dev := b.dev, ctx := b.ctx, launch := b.launch, kernel := b.kernel, rows := 1, cols := 1, lc1 := false,
      teams := [tu], st := .inTable, home := spawnHoop s.cw.core mask n, corner := 0, prio := b.prio, since := s.time b.dev,
      arrival := cu, hold := none, fresh := true, bar := .idle }
  let (h, _, s) := { s with clusters := s.clusters ++ [c] }.birth { b with team := tu, st := .created }
  (h, s.enlist cu)

/-- WSPAWN (R151). -/
def execWspawn (d a : SReg) (det team nb : Bool) (s : State) : Host.Outcome State Fault Refusal :=
  (runOp · s) do
    runFits a 3
    noRegion
    releaseWait 2
    let desc ← rd a
    let x1 ← rd (SReg.plus a 1)
    let x2 ← rd (SReg.plus a 2)
    let k ← myKernel
    let c ← myCtx
    if desc.toNat / 2 ^ 11 ≠ 0 || k.entries.length ≤ bitsOf desc.toNat 0 8 then status d 3
    let w := (← get).cw
    let prio := min (bitsOf desc.toNat 8 3) w.prio.toNat
    if team && (← get).teamFull k then
      if nb then status d 1 else stall
    if !(← get).roomForWaves c 1 then
      if nb then status d 2 else block
    let b := spawnBirth w k (bitsOf desc.toNat 0 8) x1 x2 (.ofNat 3 prio) det
    let s ← get
    let (h, s) := if team then s.spawnInTeam b else s.spawnAlone b c.part k
    set s
    result d (zext64 h)

/-! ## The other wave instructions -/

/-- WEXIT (R153): it waits as FENCE.full.sys.xfer, through any trap that falls due, then ends the wave with cause 0. -/
def execWexit (s : State) : Host.Outcome State Fault Refusal :=
  (runTo · s) do
    noRegion
    exitWait (·.dueTrap.isSome)
    let u := (← get).cw.uid
    pure fun (s : State) => s.retire.endWave u 0

/-- The issue classes of R143: handler level, responder, other; a wave too long at handler level is in the last (R145). -/
def Wave.issueClass (w : Wave) : Nat :=
  if w.level == .handler then (if w.entered ≠ 0 then 1 else 3) else if w.responder.isSome then 2 else 3

/-- Whether the scalar stream of a wave is ready to issue a word (R143): it is in no wait. -/
def State.scalarIssues (s : State) (w : Wave) : Bool := s.scalarReady w && w.wait.isNone

/-- Whether a path is ready to issue a word (R143): it is in no wait. -/
def Path.issues (p : Path) : Bool := p.ready && p.wait == .none

/-- The entities of a wave that are ready on the issue ports (R143): its scalar stream, and its paths in slots and in the split
table. -/
def State.readyEntities (s : State) (w : Wave) : List (Nat × Option Nat) :=
  (if s.scalarIssues w then [(w.uid, none)] else []) ++
    if s.laneReady w then (w.eng.paths.filter Path.issues).map fun p => (w.uid, some p.id) else []

/-- WYIELD (R155): the wave's scalar stream, which counts as the last to issue, gives way to the ready entities of its class on the core
until each has issued, or 64 cycles (107 ns) pass. Its blocks and fragments are all enqueued already, and go on. -/
def execWyield (s : State) : Host.Outcome State Fault Refusal :=
  (runTo · s) do
    noRegion
    pure fun (s : State) =>
      let w := s.cw
      let others : List Wave := (s.wavesOn w.dev w.core).filter fun (x : Wave) => x.uid != w.uid && x.issueClass == w.issueClass
      { s with cw := { w with yieldTo := others.flatMap s.readyEntities, yieldEnd := s.time w.dev + 107 } }.retire

/-- WSELF (R156). -/
def execWself (d : SReg) (s : State) : Host.Outcome State Fault Refusal :=
  (runOp · s) do
    noRegion
    result d ((← get).sysRead 0x000)

/-- WPRIO (R157). The BASE of a cluster of several waves is that of the last WPRIO on any of them: which one counts is not stated (DESIGN
CHOICE, log entry 36). -/
def execWprio (d a b : SReg) (s : State) : Host.Outcome State Fault Refusal :=
  (runOp · s) do
    noRegion
    let w ← resolveWave a
    let x ← rd b
    if w.st == .exited then result d (.ofNat 64 (2 ^ 63 + w.prio.toNat))
    let prio : BitVec 3 := .ofNat 3 (min (bitsOf x.toNat 0 3) w.ceiling.toNat)
    modify fun s =>
      let s := s.updWave w.uid fun w => { w with prio }
      { s with clusters := s.clusters.map fun (c : Cluster) =>
          if c.teams.contains w.team then { c with prio } else c }
    result d (zext64 w.prio)

/-- WKILL (R158). -/
def execWkill (a : SReg) (s : State) : Host.Outcome State Fault Refusal :=
  (runTo · s) do
    noRegion
    let w ← resolveWave a
    pure fun (s : State) => if w.uid == s.cw.uid then s.retire.endWave w.uid 1 else (s.endWave w.uid 1).retire

/-- WKILL.ctx (R158): PRIV outside handler level, else the context terminates (R115). -/
def execWkillCtx (_a : SReg) (s : State) : Host.Outcome State Fault Refusal :=
  (runTo · s) do
    let w := (← get).cw
    if w.level ≠ .handler then trap PRIV
    pure fun (s : State) => s.retire.parkPath.terminate w.ctx

/-- A WJOIN that waits for a wave already: the wave (R159). -/
def Wave.joining (w : Wave) : Option Nat :=
  match w.wait with
  | some r => if r.kind == .join then some r.obj else none
  | none => none

/-- The target of a WJOIN (R159). -/
def joinTarget (a : SReg) : Op Wave := do
  let s ← get
  match s.cw.joining.bind s.wave? with
  | some (w : Wave) => pure w
  | none =>
    let w ← resolveWave a
    if w.uid = s.cw.uid || !w.joinable then trap HANDLE_INVALID 0 (zext64 ((s.rs a).setWidth 32))
    pure w

/-- A joined wave released, once every WJOIN that waits on it has returned (R154, R159). -/
def State.releaseJoined (s : State) (u : Nat) : State :=
  if s.allWaves.any fun x => x.uid != s.cw.uid && x.joining == some u && x.st != .exited then s
  else (((s.dropSource kWAVE u).freeHandle kWAVE u).updWave u fun w => { w with joinable := false })

/-- WJOIN (R159). -/
def execWjoin (d a : SReg) (nb : Bool) (s : State) : Host.Outcome State Fault Refusal :=
  (runOp · s) do
    noRegion
    let w ← joinTarget a
    if w.st ≠ .exited then
      if nb then result d (.ofNat 64 (2 ^ 63)) else block .join w.uid d
    modify (·.releaseJoined w.uid)
    result d (.ofNat 64 w.cause)

/-! ## Events of a wave -/

/-- TRAP_ENTRY (R387, R389): at a scalar word boundary the wave takes its first due trap. A lane or copy trap is left to the turn of the
next word, whose own trap comes first, where the wave waits in no word and that word may issue. -/
def execTrapEntry (s : State) : Host.Outcome State Fault Refusal :=
  match s.turn with
  | .event (.trapEntry u) =>
    let s := s.focus u
    if s.cw.uid == u && s.atBoundary s.cw then
      match s.cw.dueTrap with
      | some t => if (t.lane || t.xfer) && s.cw.wait.isNone && s.scalarReady s.cw then .next s else .next (s.takeDue t)
      | none => .next s
    else .next s
  | _ => .next s

/-- HANDLER_SHARE_EXPIRE (R145): 1 ms at handler level. -/
def execHandlerShareExpire (s : State) : Host.Outcome State Fault Refusal :=
  match s.turn with
  | .event (.handlerShareExpire u) =>
    .next (s.updWave u fun w =>
      if w.level == .handler && w.entered ≠ 0 && w.entered + 1000000 ≤ s.time w.dev + 1 then { w with entered := 0 } else w)
  | _ => .next s

/-- Whether the running block of a wave has ended (R139, R175): its paths have, and their results are written. -/
def Wave.blockOver (w : Wave) : Bool := w.eng.running && w.eng.paths.all fun p => p.ended && p.var.isEmpty

/-- LANE_BLOCK_END (R175): the block leaves the queue and the next one begins (R174). -/
def execLaneBlockEnd (s : State) : Host.Outcome State Fault Refusal :=
  match s.turn with
  | .event (.laneBlockEnd u) =>
    .next (s.updWave u fun w =>
      if w.st.onCore && w.blockOver then
        { w with eng := { w.eng with queue := w.eng.queue.drop 1, running := false, paths := [] } }.startBlock
      else w)
  | _ => .next s

/-- The oldest result of a path of a wave that is not written, and those after it. -/
def State.oldestPend (s : State) (u p : Nat) : Option (VarPend × List VarPend) :=
  match ((s.wave? u).bind fun w => w.eng.paths.find? (·.id == p)).map (·.var) with
  | some (r :: rest) => some (r, rest)
  | _ => none

/-- LANE_RESULT_WRITE (R83): the oldest result of a path that is not written is written; a B register written while joint work uses it
makes that undefined (R289). -/
def execLaneResultWrite (s : State) : Host.Outcome State Fault Refusal :=
  match s.turn with
  | .event (.laneResultWrite u p) =>
    match s.oldestPend u p with
    | some (r, rest) =>
      .next ((s.dirtyReg u r.reg).updWave u fun w =>
        let w := w.writePend r
        { w with eng := { w.eng with paths := updBy Path.id p (fun x => { x with var := rest }) w.eng.paths } })
    | none => .next s
  | _ => .next s

/-- The fragments of a core that satisfy a test: the wave's uid, whether the path is set aside, and the path. -/
def State.fragmentsOn (s : State) (dev core : Nat) (p : Path → Bool) : List (Nat × Bool × Path) :=
  (s.wavesOn dev core).flatMap fun w =>
    ((w.eng.paths.filter p).map fun x => (w.uid, false, x)) ++ ((w.held.paths.filter p).map fun x => (w.uid, true, x))

/-- The fragment that comes first by a measure. -/
def firstFragment (f : Path → Nat) (l : List (Nat × Bool × Path)) : Option (Nat × Bool × Path) :=
  l.foldl (fun best x => match best with
    | none => some x
    | some b => if f x.2.2 < f b.2.2 then some x else some b) none

/-- A path of a wave changed, among the running block's or those set aside. -/
def State.updFragment (s : State) (x : Nat × Bool × Path) (f : Path → Path) : State :=
  s.updWave x.1 fun w =>
    if x.2.1 then { w with held := { w.held with paths := updBy Path.id x.2.2.id f w.held.paths } }
    else { w with eng := { w.eng with paths := updBy Path.id x.2.2.id f w.eng.paths } }

/-- A resident fragment spilled to make room, with a record and a handle (R137). -/
def State.spillFragment (s : State) (x : Nat × Bool × Path) : State :=
  match s.wave? x.1 with
  | none => s
  | some w =>
    match s.ctx? w.ctx with
    | none => s
    | some c =>
      if s.sliceFull c then s
      else
        let s := s.spillRecord w (w.level == .handler && !x.2.1) (s.spillSlot w)
        let (h, s) := s.newHandle w.ctx kFRAG w.uid
        let (ord, s) := s.fresh
        s.updFragment x fun p => { p with place := .spilled, spill := h.toNat, born := ord }

/-- How long ago a path came to its LJOIN. -/
def Path.joinOrd (p : Path) : Nat :=
  match p.wait with
  | .join _ ord => ord
  | _ => 0

/-- FRAGMENT_RELOAD (R137, R141): a fragment whose record is loaded becomes resident and its handle goes; else the oldest
spilled fragment of the core takes a free entry; else the resident fragment blocked longest at an LJOIN is spilled. -/
def execFragmentReload (s : State) : Host.Outcome State Fault Refusal :=
  match s.turn with
  | .event (.fragmentReload dev core) =>
    match firstFragment (·.born) (s.fragmentsOn dev core fun p => p.active && p.place == .reloading) with
    | some x =>
      let ctx := ((s.wave? x.1).map (·.ctx)).getD 0
      .next ((s.freeHandleAt ctx (.ofNat 32 x.2.2.spill)).updFragment x fun p => { p with place := .fragment, spill := 0 })
    | none =>
      match firstFragment (·.born) (s.fragmentsOn dev core (·.isSpilled)) with
      | none => .next s
      | some x =>
        if s.splitUsed dev core < 64 then .next (s.updFragment x fun p => { p with place := .reloading })
        else
          match firstFragment (·.joinOrd) (s.fragmentsOn dev core fun p =>
              p.active && p.place == .fragment && p.joinAt.isSome) with
          | some y => .next (s.spillFragment y)
          | none => .next s
  | _ => .next s

end Sys2Proof.Machine
end

