-- ==== Sys2Proof/Machine/Queue.lean ====
section
/-!
DEFINITION. Ports, messages and grants (R296 to R310), names (R311 to R315).
-/

namespace Sys2Proof.Machine

/-! ## PCREATE, PCLOSE, PINFO -/

/-- The context's launch-priority ceiling and window limits of PCREATE (R301). -/
def portArgsOk (c : Ctx) (launch : Bool) (depth prio base size : Nat) : Bool :=
  1 ≤ depth && depth ≤ 4096 && (!launch || prio ≤ c.ceiling) && base % 2 ^ 21 == 0 && size % 2 ^ 21 == 0 && size ≤ 2 ^ 36 &&
    base + size ≤ 2 ^ 56 && (base == 0) == (size == 0) && !(launch && size != 0)

/-- A port object. -/
def newPort (u dev ctx : Nat) (launch : Bool) (depth prio base size : Nat) : Port :=
  { uid := u, dev, ctx, launch, prio, depth, resv := 0, allow := 0, drops := 0, st := .opened, queue := [], winBase := base,
    winSize := size, window := [], name := none, vector := none }

/-- PCREATE (R301). -/
def execPcreate (d a : SReg) (nb launch : Bool) (s : State) : Host.Outcome State Fault Refusal :=
  (runOp · s) do
    runFits a 3
    let x ← rd a
    let base ← rd (SReg.plus a 1)
    let size ← rd (SReg.plus a 2)
    let prio := bitsOf x.toNat 13 3
    let depth := bitsOf x.toNat 0 13
    if x.toNat / 2 ^ 16 ≠ 0 || (!launch && prio ≠ 0) then trap ILLEGAL_OP
    noRegion
    let c ← myCtx
    if !portArgsOk c launch depth prio base.toNat size.toNat then status d 9
    if c.quota < c.quotaUsed + 128 * depth then status d 3
    needEntry d nb
    let u ← fresh
    modify fun s =>
      { s.updCtx c.uid fun c => { c with quotaUsed := c.quotaUsed + 128 * depth } with
        ports := s.ports ++ [newPort u c.dev c.uid launch depth prio base.toNat size.toNat] }
    let h ← newHandle kPORT u
    result d (zext64 h)

/-- A handle operand of kind 0x3, with its port. -/
def resolvePort (a : SReg) : Op Port := do
  let (_, u) ← resolve a [kPORT]
  let s ← get
  match s.port? u with
  | some p => pure p
  | none => trap HANDLE_INVALID 0 (zext64 ((s.rs a).setWidth 32))

/-- PCLOSE (R302, R298). -/
def execPclose (d a : SReg) (now : Bool) (s : State) : Host.Outcome State Fault Refusal :=
  (runOp · s) do
    noRegion
    let _ ← rd a
    let p ← resolvePort a
    if now then
      modify (·.closeNow p.uid)
      result d 0
    if p.st = .draining then status d 4
    modify fun s => (s.updPort p.uid fun p => { p with st := .draining, name := none }).drainPort p.uid
    result d 0

/-- STATE of the PINFO map (R309). -/
def PortState.code : PortState → Nat
  | .opened => 0
  | .bound => 1
  | _ => 2

/-- The PINFO map (R309). -/
def Port.info (p : Port) : Word :=
  .ofNat 64 (p.st.code * 2 ^ 62 + (if p.launch then 2 ^ 61 else 0) + p.drops * 2 ^ 52 + p.queue.length * 2 ^ 39 + p.resv * 2 ^ 26 +
    p.allow * 2 ^ 13 + p.depth)

/-- PINFO (R308): the map, or the sends left in a remote handle. -/
def execPinfo (d a : SReg) (s : State) : Host.Outcome State Fault Refusal :=
  (runOp · s) do
    noRegion
    let _ ← rd a
    let (kind, u) ← resolve a [kPORT, kREMOTE]
    let s ← get
    if kind = kREMOTE then result d (.ofNat 64 (((s.remote? u).map (·.sends)).getD 0))
    result d (((s.port? u).map (·.info)).getD 0)

/-! ## Grants (R304, R305) -/

/-- Where the page of a grant is mapped: by a stage-1 leaf, by a window entry of a port, or as a data page of a kernel (R118). -/
inductive GrantSrc where
  | leaf (loc : Nat)
  | window (port : Nat)
  | kernel
  deriving DecidableEq, Repr, Inhabited

/-- A grant that has passed its checks: its virtual page, where that is mapped, and what it moves. -/
structure GrantReq where
  va : Nat
  src : GrantSrc
  grant : Grant
  deriving DecidableEq, Repr, Inhabited

/-- The bytes of a SIZE field (R304). -/
def grantSize (x : Word) : Nat :=
  match bitsOf x.toNat 4 2 with
  | 0 => 4096
  | 1 => 65536
  | _ => 2 ^ 21

/-- The descriptor of a page (R304). -/
def grantDesc (page size : Nat) (w : Bool) : Word :=
  .ofNat 64 (page + (if size = 4096 then 0 else if size = 65536 then 0x10 else 0x20) + (if w then 2 else 0) + 1)

/-- The mapping of a page that PSENDG may grant (R304): `none` waits at a write-blocked page. -/
def State.grantable (s : State) (va size : Nat) (wr : Bool) : Except Nat (Option (GrantSrc × Grant)) :=
  let w := s.whoOf s.cw
  if 2 ^ 56 ≤ va || va % size ≠ 0 then .error PROTECTION
  else
    match s.windowAt s.cw.ctx va with
    | some none => .error PROTECTION
    | some (some e) =>
      if e.va ≠ va || e.grant.size ≠ size || e.granted || (wr && !e.grant.w) then .error PROTECTION
      else
        match s.ports.find? fun (p : Port) => p.ctx == s.cw.ctx && p.window.contains e with
        | some p =>
          if s.lockedPage w.dev w.ctx va size then .error PLACEMENT_LOCKED
          else .ok (some (.window p.uid, { e.grant with w := wr }))
        | none => .error PROTECTION
    | none =>
      match s.kernelByte w.ctx va with
      | some (a, data) =>
        if !data || size ≠ 4096 || s.kernelAway w.ctx va || !s.frameOk w.dev w.part (physOf w.dev a) false then .error PROTECTION
        else if s.lockedPage w.dev w.ctx va size then .error PLACEMENT_LOCKED
        else if bitAt (s.kernelLeaf w.ctx va) 8 then .ok none
        else .ok (some (.kernel, { dev := w.dev, addr := a, size, w := wr }))
      | none =>
        match walk1 s w va 4 w.root1 with
        | .error _ => .error PROTECTION
        | .ok (l1, _, _) =>
          match walk2 s w.dev l1.addr 3 w.root2 with
          | .error _ => .error PROTECTION
          | .ok l2 =>
            if l1.size ≠ size || l2.size < size || l2.tgt ≠ 0 || (l1.x && l2.x) || !(l1.r && l2.r) || (wr && !(l1.w && l2.w)) ||
                l1.g || l2.g || !s.leafOk w.dev w.part l2 then .error PROTECTION
            else if s.lockedPage w.dev w.ctx va size then .error PLACEMENT_LOCKED
            else if l1.wb || l2.wb then .ok none
            else .ok (some (.leaf l1.loc, { dev := w.dev, addr := l2.addr, size, w := wr }))

/-- A wait of a send that is not for a slot: at its release, or at a write-blocked page. A port that closes ends it (R303). -/
def sendStall {α : Type} (to' : Port) (d : SReg) : Op α := throw (.wait .send to'.uid d false)

/-- One grant descriptor checked for a receiving port (R304). -/
def checkGrant (d : SReg) (x : Word) (to' : Port) (toPart : Nat) (others : List Nat) : Op GrantReq := do
  let s ← get
  let va := x.toNat / 4096 * 4096
  if bitsOf x.toNat 6 6 ≠ 0 || bitsOf x.toNat 2 2 ≠ 0 || bitsOf x.toNat 4 2 = 3 then trap ILLEGAL_OP
  let size := grantSize x
  let part := (s.whoOf s.cw).part
  if !bitAt x.toNat 0 || others.contains va || (to'.dev = s.cw.dev && toPart ≠ part && size = 4096) then
    trap PROTECTION (.ofNat 64 va)
  match s.grantable va size (bitAt x.toNat 1) with
  | .error cause => trap cause (.ofNat 64 va)
  | .ok none => sendStall to' d
  | .ok (some (src, grant)) => pure { va, src, grant }

/-- Every grant of a PSENDG checked in turn. -/
def checkGrants (d : SReg) (to' : Port) (toPart : Nat) : List Word → List Nat → Op (List GrantReq)
  | [], _ => pure []
  | x :: rest, seen => do
    let g ← checkGrant d x to' toPart seen
    let gs ← checkGrants d to' toPart rest (g.va :: seen)
    pure (g :: gs)

/-- What the write-combining buffers of a device hold for a page drains: every access to the page comes before its grant (R305). -/
def State.drainPage (s : State) (dev : Nat) (g : Grant) : State :=
  let a := physOf g.dev g.addr
  s.drainWhere fun e => e.dev == dev && a ≤ e.line && e.line < a + g.size

/-- The lent table after a grant by a partition (R345, R346): a lent page has a new holder, and a page that goes to another device is lent;
`owner` is the partition that its frames have gone to with the grant. -/
def State.recordHolder (s : State) (part : Nat) (g : Grant) (to' : Port) (owner : Option Nat) : State :=
  if s.lent.any fun l => l.dev == g.dev && l.addr == g.addr then
    { s with lent := s.lent.map fun (l : Lent) =>
        if l.dev == g.dev && l.addr == g.addr then
          { l with holder := to'.dev, port := to'.uid, part := owner.getD l.part }
        else l }
  else if to'.dev ≠ g.dev then { s with lent := s.lent ++ [Lent.mk g.dev part g.addr g.size to'.dev to'.uid false false] }
  else s

/-- A grant performed (R305, R345 to R347): the sender's stores to the page are performed, its mapping is marked granted away and
invalidated, the frames of a page of the sender's device that goes to another partition there change owner, and the lent table records a
page that goes to another device or that is lent. -/
def State.performGrant (s : State) (g : GrantReq) (to' : Port) (toPart : Nat) : State :=
  let w := s.whoOf s.cw
  let s := s.drainPage w.dev g.grant
  let s := match g.src with
    | .kernel => s.orKernelLeaf w.ctx g.va 0x80
    | .leaf loc =>
      let locs := if g.grant.size = 65536 then (List.range 16).map fun i => loc / 128 * 128 + 8 * i else [loc]
      { s with mem := locs.foldl (fun m l => orByte m l 0x80) s.mem }
    | .window p => s.updPort p fun p =>
        { p with window := p.window.map fun (e : WinEntry) => if e.va == g.va then { e with granted := true } else e }
  let s := s.dropTlb fun e => e.dev == w.dev && e.ctx == w.ctx && e.va < g.va + g.grant.size && g.va < e.va + e.size
  let moves := g.grant.dev == w.dev && to'.dev == w.dev && toPart != w.part
  let s := if moves then s.setFrames w.dev (g.grant.addr / 65536) (g.grant.size / 65536) (.ofNat 8 toPart) else s
  s.recordHolder w.part g.grant to' (if moves then some toPart else none)

/-! ## PSEND, PSENDG (R303) -/

/-- What a send goes through. -/
inductive SendVia where
  | localPort
  | remote (r : Remote)
  | reply (r : Remote)
  deriving DecidableEq, Repr, Inhabited

/-- Whether a send goes through a reply handle (R315). -/
def SendVia.isReply : SendVia → Bool
  | .reply _ => true
  | _ => false

/-- Whether a port refuses a send: a draining one still takes replies, whose slots are reserved (R298, R303, R315). -/
def State.refuses (s : State) (p : Port) (via : SendVia) : Bool := if via.isReply then s.gone p else s.shut p

/-- The port of a wait of the executing wave in a send. -/
def Wave.sending (w : Wave) : Option Nat :=
  match w.wait with
  | some r => if r.kind == .send then some r.obj else none
  | none => none

/-- The CLOSED case of a send (R303). -/
def sendClosed {α : Type} (d a : SReg) (st : Bool) : Op α := do
  if st then
    modify (·.ws d (.ofNat 64 (4 * 2 ^ 32)))
    finish
  else
    let s ← get
    trap PORT_CLOSED 0 (zext64 ((s.rs a).setWidth 32))

/-- The target of a send: its port and what it goes through. A local port that closed while the send waited is still its target, though
the handle is stale (R303). -/
def sendTarget (a : SReg) : Op (Option Port × SendVia) := do
  let s ← get
  match (s.cw.sending.bind s.port?).filter (·.st == .closed) with
  | some p => pure (some p, .localPort)
  | none => do
    let (kind, u) ← resolve a [kPORT, kREMOTE]
    if kind = kPORT then pure (s.port? u, .localPort)
    else
      match s.remote? u with
      | none => trap HANDLE_INVALID 0 (zext64 ((s.rs a).setWidth 32))
      | some r => pure (s.port? r.port, if r.reply.isSome then .reply r else .remote r)

/-- The grant descriptors of a PSENDG from register `b + i`: up to the first zero one or the third (R304); `none` when they would
pass s63. -/
def grantWords (b : SReg) (i : Nat) : Nat → Op (Option (List Word))
  | 0 => pure (some [])
  | n + 1 =>
    if 63 < b.toNat + i then pure none
    else do
      let x ← rd (SReg.plus b i)
      if x = 0 then pure (some [])
      else do
        let xs ← grantWords b (i + 1) n
        pure (xs.map (x :: ·))

/-- The message appended and the slots it uses counted (R297, R303, R313, R315). -/
def State.deliver (s : State) (p : Port) (via : SendVia) (words : List Word) (grants : List Grant) (rep : Option Nat) : State :=
  let s := match rep with
    | some r => s.updPort r fun r => { r with resv := r.resv + 1 }
    | none => s
  let m : Msg := { words, grants, reply := rep, via := none, seq := 0, completion := false, stamp := 0 }
  match via with
  | .localPort => s.enqueue p.uid m
  | .remote r =>
    let s := s.updRemote r.uid fun r => { r with sends := r.sends - 1, inFlight := r.inFlight + 1, seq := (r.seq + 1) % 2 ^ 16 }
    (s.updPort p.uid fun p => { p with allow := p.allow - 1 }).enqueue p.uid { m with via := some r.uid, seq := r.seq }
  | .reply r =>
    let s := { s.freeHandle kREMOTE r.uid with remotes := s.remotes.filter (·.uid != r.uid) }
    (s.updPort p.uid fun p => { p with resv := p.resv - 1 }).enqueue p.uid m

/-- Whether the slots that a send needs are there (R303). -/
def State.sendNeed (s : State) (p : Port) (via : SendVia) (rep : Option Nat) : Bool :=
  let own := match rep with
    | some r => if r == p.uid then 1 else 0
    | none => 0
  (match via with
    | .localPort => 1 + own ≤ p.freeSlots
    | .remote r => 1 ≤ r.sends
    | .reply _ => true) &&
  match rep with
  | some r => 1 ≤ (((s.port? r).map (·.freeSlots)).getD 0)
  | none => true

/-- PSEND and PSENDG (R303). A send to a device that gives no response completes poisoned: no message goes, and s[d] is open (R412, log entry
26). A remote or reply handle names no launch port (R312), also when its port has gone with its context. -/
def sendOp (d a b : SReg) (rep st nb grants : Bool) : Op Unit := do
  let _ ← rd a
  let (port, via) ← sendTarget a
  let launch := (port.map (·.launch)).getD false
  let n := if launch then 16 else 8
  let ds ← if grants then grantWords b 8 3 else pure (some [])
  let g := (ds.map (·.length)).getD 1
  if ds.isNone || 63 < b.toNat + n + g - 1 then trap ILLEGAL_OP
  noRegion
  let ds := ds.getD []
  if grants && launch then trap PROTECTION
  match port with
  | none => sendClosed d a st
  | some p => do
    let s ← get
    if s.refuses p via then sendClosed d a st
    if grants && ds.isEmpty then trap PROTECTION
    let toPart := s.portPart p
    let reqs ← checkGrants d p toPart ds []
    let r ← if rep && !via.isReply then do
        let _ ← rd d
        let r ← resolvePort d
        if r.launch then trap HANDLE_INVALID 0 (zext64 (((← get).rs d).setWidth 32))
        pure (some r.uid)
      else pure none
    if !(← get).blocksAtMost 0 then sendStall p d
    releaseWait (if via == .localPort then 2 else 3)
    if grants && p.winSize = 0 then status d 8
    if !(← get).sendNeed p via r then
      if nb then status d 1 else block .send p.uid d
    let words ← (List.range n).mapM fun i => rd (SReg.plus b i)
    if ← peersPoisoned (if p.dev = (← get).cw.dev then [] else [p.dev]) [] then result d (Config.undef64 (← draw) 0)
    modify fun s =>
      let s := reqs.foldl (fun (s : State) g => s.performGrant g p toPart) s
      s.deliver p via words (reqs.map (·.grant)) r
    result d 0

/-- PSEND (R303). -/
def execPsend (d a b : SReg) (rep st nb : Bool) (s : State) : Host.Outcome State Fault Refusal :=
  runOp (sendOp d a b rep st nb false) s

/-- PSENDG (R303, R304). -/
def execPsendg (d a b : SReg) (rep st nb : Bool) (s : State) : Host.Outcome State Fault Refusal :=
  runOp (sendOp d a b rep st nb true) s

/-! ## PRECV, PPEEK (R307) -/

/-- The lowest free naturally aligned range of a window (R307): at its base or after an entry. Entries granted onwards leave
their range free. -/
def freeRange (base size : Nat) (used : List WinEntry) (n : Nat) : Option Nat :=
  let up (a : Nat) : Nat := (a + n - 1) / n * n
  let used := used.filter fun e => !e.granted
  let starts := (up base :: used.map fun e => up (e.va + e.grant.size)).filter fun a =>
    a + n ≤ base + size && used.all fun e => e.va + e.grant.size ≤ a || a + n ≤ e.va
  starts.foldl (fun best a => match best with
    | none => some a
    | some b => some (min a b)) none

/-- The window after its grants are mapped in order, with their addresses; `none` without room for each (R307). -/
def mapGrants (p : Port) : List Grant → List WinEntry → Option (List Nat × List WinEntry)
  | [], w => some ([], w)
  | g :: rest, w =>
    match freeRange p.winBase p.winSize w g.size with
    | none => none
    | some va =>
      let w := (w.filter fun e => !(e.granted && e.va < va + g.size && va < e.va + e.grant.size)) ++
        [{ va, grant := g, granted := false }]
      (mapGrants p rest w).map fun r => (va :: r.1, r.2)

/-- The registers of a message: its words, and its descriptors (R307). -/
def State.putMessage (s : State) (b : SReg) (m : Msg) (pages : List Nat) : State :=
  let descs := (m.grants.zip pages).map fun x => grantDesc x.2 x.1.size x.1.w
  ((m.words ++ descs ++ [0, 0, 0]).take 11).zipIdx.foldl (fun (s : State) (x : Word × Nat) => s.ws (SReg.plus b x.2) x.1) s

/-- The head of a port for PRECV and PPEEK, with the addresses of its grants and the window that maps them (R307). -/
def headOf (d a b : SReg) : Op (Port × Msg × List Nat × List WinEntry) := do
  runFits b 11
  noRegion
  let _ ← rd a
  let p ← resolvePort a
  if p.launch then trap PROTECTION
  match p.queue with
  | [] => do
    status d (if p.st == .draining then 4 else 1)
    pure default
  | m :: _ =>
    match mapGrants p m.grants p.window with
    | none => do
      status d 8
      pure default
    | some (vas, w) => pure (p, m, vas, w)

/-- The reply handle of a message (R315). -/
def State.newReply (s : State) (r : Nat) (m : Msg) : BitVec 32 × State :=
  let (u, s) := s.fresh
  let x : Remote := { uid := u, ctx := s.cw.ctx, port := r, sends := 1, inFlight := 0, reply := some (m.words.getD 0 0), seq := 0,
                      closed := false }
  let (h, s) := s.newHandle s.cw.ctx kREMOTE u
  (h, { s with remotes := s.remotes ++ [x] })

/-- PRECV (R307): a message that needs a reply handle when the slice is full stays queued, and the status is NOOBJ (R104). -/
def execPrecv (d a b : SReg) (s : State) : Host.Outcome State Fault Refusal :=
  (runOp · s) do
    let (p, m, vas, w) ← headOf d a b
    if m.reply.isSome && (← get).sliceFull (← myCtx) then status d 2
    modify fun s =>
      ((s.updPort p.uid fun p => { p with window := w }).putMessage b m vas).dequeue p.uid m
    if m.completion then status d 11
    match m.reply with
    | none => result d 0
    | some r => do
      let (h, s) := (← get).newReply r m
      set s
      result d (zext64 h)

/-- PPEEK (R307). -/
def execPpeek (d a b : SReg) (s : State) : Host.Outcome State Fault Refusal :=
  (runOp · s) do
    let (_, m, vas, _) ← headOf d a b
    modify fun s => s.putMessage b m (vas.map fun _ => 0)
    if m.completion then status d 11
    result d 0

/-! ## Names (R311 to R314) -/

/-- NREG (R312). -/
def execNreg (d a b : SReg) (s : State) : Host.Outcome State Fault Refusal :=
  (runOp · s) do
    runFits b 2
    noRegion
    let _ ← rd a
    let name ← rd b
    let allow ← rd (SReg.plus b 1)
    let p ← resolvePort a
    if p.launch then trap PROTECTION
    let c ← myCtx
    if 64 < allow.toNat then status d 9
    if p.st = .draining then status d 4
    let s ← get
    if s.domainMoving c then stall
    if p.name.isSome || (s.boundPort c name).isSome then status d 6
    modify (·.updPort p.uid fun p =>
      { p with st := .bound, name := some (name, if allow = 0 then 8 else allow.toNat) })
    result d 0

/-- NLOOKUP (R313). -/
def execNlookup (d a : SReg) (st : Bool) (s : State) : Host.Outcome State Fault Refusal :=
  (runOp · s) do
    noRegion
    let name ← rd a
    let c ← myCtx
    let s ← get
    if s.domainMoving c then stall
    match s.boundPort c name with
    | none => if st then status d 7 else trap NAME_UNKNOWN 0 name
    | some q => do
      let n := ((q.name.map (·.2)).getD 0)
      if q.freeSlots < n then status d 5
      needEntry d false
      let u ← fresh
      let r : Remote := { uid := u, ctx := c.uid, port := q.uid, sends := n, inFlight := 0, reply := none, seq := 0, closed := false }
      modify fun s => { s.updPort q.uid fun q => { q with allow := q.allow + n } with remotes := s.remotes ++ [r] }
      let h ← newHandle kREMOTE u
      result d (zext64 h)

/-- NDROP (R314). -/
def execNdrop (d a : SReg) (s : State) : Host.Outcome State Fault Refusal :=
  (runOp · s) do
    noRegion
    let _ ← rd a
    let p ← resolvePort a
    if p.st ≠ .bound then status d 7
    modify (·.updPort p.uid fun p => { p with st := .opened, name := none })
    result d 0

/-- Whether a device has a partition in a fabric domain (R311). -/
def State.inDomain (s : State) (dev domain : Nat) : Bool := s.parts.any fun (p : Part) => p.dev == dev && p.domain == domain

/-- Loans to a device that has no partition left in the domain of the lending partition: it was removed from the fabric domain (R345). -/
def State.loseLoans (s : State) : State :=
  { s with lent := s.lent.map fun (l : Lent) =>
      if s.inDomain l.holder (s.domainOf l.dev (s.frameCode l.dev (l.addr / 65536)).toNat) then l else { l with lost := true } }

/-- NAME_REHOME (R311): the bindings of a domain have moved to their new homes, and its change of members takes effect. -/
def execNameRehome (s : State) : Host.Outcome State Fault Refusal :=
  match s.turn with
  | .event (.nameRehome domain) =>
    .next { s with parts := s.parts.map fun (p : Part) =>
      match p.nextDomain with
      | some d => if d == domain || p.domain == domain then { p with domain := d, nextDomain := none } else p
      | none => p }.loseLoans
  | _ => .next s

end Sys2Proof.Machine
end

