-- ==== Sys2Proof/Machine/Waits.lean ====
section
/-!
DEFINITION. Wait sets (R316 to R318), timers (R319, R320), watches (R321, R322) and OCLOSE (R323).
-/

namespace Sys2Proof.Machine

/-! ## Wait sets -/

/-- WSNEW (R317). -/
def execWsnew (d : SReg) (nb : Bool) (s : State) : Host.Outcome State Fault Refusal :=
  (runOp · s) do
    noRegion
    needEntry d nb
    let u ← fresh
    modify fun s => { s with waitSets := s.waitSets ++ [WaitSet.mk u s.cw.ctx []] }
    let h ← newHandle kWSET u
    result d (zext64 h)

/-- A wait set operand. -/
def resolveSet (a : SReg) : Op WaitSet := do
  let _ ← rd a
  let (_, u) ← resolve a [kWSET]
  let s ← get
  match s.waitSet? u with
  | some w => pure w
  | none => trap HANDLE_INVALID 0 (zext64 ((s.rs a).setWidth 32))

/-- The source that WSADD names (R316, R317). -/
def sourceOf (d b : SReg) (batch : Bool) (index : Nat) : Op Source := do
  let s ← get
  if batch then
    let n := (s.rs b).toNat
    if s.cw.closed < n then status d 9
    pure { index, kind := 0, obj := s.cw.uid, batch := n }
  else
    let bad : Op Source := trap HANDLE_INVALID 0 (zext64 ((s.rs b).setWidth 32))
    let (kind, u) ← resolve b [kPORT, kTIMER, kWATCH, kWAVE, kCENSUS]
    if kind = kPORT && ((s.port? u).map (·.launch)).getD true then bad
    else if kind = kWAVE && !((s.wave? u).map (·.joinable)).getD false then bad
    else pure { index, kind, obj := u, batch := 0 }

/-- WSADD (R317). -/
def execWsadd (d a b : SReg) (batch : Bool) (s : State) : Host.Outcome State Fault Refusal :=
  (runOp · s) do
    runFits b 2
    noRegion
    let w ← resolveSet a
    let _ ← rd b
    let index ← rd (SReg.plus b 1)
    if 64 ≤ index.toNat then status d 9
    let x ← sourceOf d b batch index.toNat
    let s ← get
    let sets := s.waitSets.filter fun v => v.sources.any fun y => y.kind == x.kind && y.obj == x.obj && y.batch == x.batch
    if w.sources.any (fun y => y.index == x.index) || (!batch && 8 ≤ sets.length) then status d 6
    modify (·.updWaitSet w.uid fun w => { w with sources := w.sources ++ [x] })
    result d 0

/-- WSDEL (R317). -/
def execWsdel (d a b : SReg) (s : State) : Host.Outcome State Fault Refusal :=
  (runOp · s) do
    noRegion
    let w ← resolveSet a
    let index ← rd b
    if 64 ≤ index.toNat then status d 9
    if !(w.sources.any fun x => x.index == index.toNat) then status d 7
    modify (·.updWaitSet w.uid fun w => { w with sources := w.sources.filter fun x => x.index != index.toNat })
    result d 0

/-- Whether a source is ready (R316). -/
def State.sourceReady (s : State) (x : Source) : Bool :=
  if x.kind = 0 then s.batchDone x.obj x.batch
  else if x.kind = kPORT then
    match s.port? x.obj with
    | some p => !p.queue.isEmpty || p.st == .draining
    | none => false
  else if x.kind = kTIMER then ((s.timer? x.obj).map fun t => decide (0 < t.firings)).getD false
  else if x.kind = kWATCH then ((s.watch? x.obj).map (·.matched)).getD false
  else if x.kind = kWAVE then s.ended x.obj
  else ((s.census? x.obj).map fun c => c.st != .collecting).getD false

/-- The ready source of the lowest index. -/
def State.lowestReady (s : State) (w : WaitSet) : Option Source :=
  (w.sources.filter s.sourceReady).foldl (fun best x => match best with
    | none => some x
    | some b => if x.index < b.index then some x else some b) none

/-- WSWAIT (R318). -/
def execWswait (d a : SReg) (nb : Bool) (s : State) : Host.Outcome State Fault Refusal :=
  (runOp · s) do
    noRegion
    let s ← get
    let begun ← match s.cw.wait with
      | some r =>
        if r.kind = .waitSet then do
          if (s.waitSet? r.obj).isNone then status d 4
          pure true
        else pure false
      | none => pure false
    let w ← resolveSet a
    if w.sources.isEmpty && !begun then status d 10
    match s.lowestReady w with
    | none => if nb then status d 1 else block .waitSet w.uid d
    | some x => do
      let count := if x.kind = kTIMER then min (2 ^ 24 - 1) (((s.timer? x.obj).map (·.firings)).getD 0) else 0
      if x.kind = kTIMER then modify (·.updTimer x.obj fun t => { t with firings := 0 })
      if x.kind = 0 then modify (·.observeBatch x.obj x.batch)
      result d (.ofNat 64 (count * 256 + x.index))

/-! ## Timers -/

/-- Whether a context's events are recorded at once: it is not parked, its function is not switched out and the device is not
parked (R113, R114, R319). A faulted context's timers fire (R99). -/
def State.recordsEvents (s : State) (u : Nat) : Bool :=
  match s.ctx? u with
  | none => false
  | some c =>
    c.st != .parked && c.st != .terminating && c.st != .dead &&
      !((s.dev? c.dev).map (·.parked)).getD true && ((s.part? c.dev c.part).map (·.running)).getD 0 == c.func

/-- A timer whose deadline has come fires: a periodic one takes its next deadline, each deadline passed counts one firing, and a
one-shot timer is disarmed (R319). -/
def Timer.fire (t : Timer) (now : Nat) : Timer :=
  if t.armed && t.deadline.toNat ≤ now then
    if t.period = 0 then { t with armed := false, firings := t.firings + 1 }
    else
      let n := (now - t.deadline.toNat) / t.period.toNat + 1
      { t with firings := t.firings + n, deadline := t.deadline + .ofNat 64 (n * t.period.toNat) }
  else t

/-- A timer fires when its deadline has come, unless its context is parked or switched out: then it is recorded at the resume
(R113, R114, R319). -/
def State.fireTimer (s : State) (t : Timer) : State :=
  if s.recordsEvents t.ctx then s.updTimer t.uid fun t => t.fire (s.time t.dev) else s

/-- What a context's timers missed while it was parked or switched out is recorded at its resume, every deadline that passed as one
firing (R113, R114, R319). Firings of different timers do not touch one another, so their order by stamp is not visible. -/
def State.recordTimers (s : State) (u : Nat) : State :=
  (s.timers.filter fun (t : Timer) => t.ctx == u).foldl (fun (s : State) t => s.fireTimer t) s

/-- TARM (R319): a deadline already past fires at once. -/
def execTarm (d a b : SReg) (nb abs : Bool) (s : State) : Host.Outcome State Fault Refusal :=
  (runOp · s) do
    runFits b 2
    noRegion
    let h ← rd a
    let at' ← rd b
    let period ← rd (SReg.plus b 1)
    let now := (← get).time (← get).cw.dev
    let new := h.setWidth 32 == (0 : BitVec 32)
    let u ← if new then do needEntry d nb; pure 0
      else do
        let (_, u) ← resolve a [kTIMER]
        pure u
    if period ≠ 0 && period.toNat < 1000 then status d 9
    let deadline := if abs then at' else .ofNat 64 now + at'
    if new then
      let u ← fresh
      modify fun s =>
        { s with timers := s.timers ++ [(Timer.mk u s.cw.dev s.cw.ctx true deadline period 0).fire now] }
      let h ← newHandle kTIMER u
      result d (zext64 h)
    else
      modify (·.updTimer u fun t => { t with armed := true, deadline, period, firings := 0 }.fire now)
      result d (zext64 (h.setWidth 32))

/-- TDISARM (R320). -/
def execTdisarm (d a : SReg) (s : State) : Host.Outcome State Fault Refusal :=
  (runOp · s) do
    noRegion
    let _ ← rd a
    let (_, u) ← resolve a [kTIMER]
    let n := (((← get).timer? u).map (·.firings)).getD 0
    modify (·.updTimer u fun t => { t with armed := false, firings := 0 })
    result d (.ofNat 64 n)

/-- TIMER_FIRE (R319). -/
def execTimerFire (s : State) : Host.Outcome State Fault Refusal :=
  match s.turn with
  | .event (.timerFire u) =>
    .next (match s.timer? u with
      | some t => s.fireTimer t
      | none => s)
  | _ => .next s

/-! ## Watches -/

/-- Whether a new watch is polled (R22, R322): the table of its line's home agent has 64 entries, and host memory has no home agent.
Which agent a line has is the device's (log entry 35). -/
def watchPolled (phys : Nat) : Op Bool := do
  let n := ((← get).watches.filter fun w => !w.polled && w.addr / 2 ^ 43 == phys / 2 ^ 43 && agentOf w.addr == agentOf phys).length
  pure (hostBase ≤ phys || 64 ≤ n)

/-- WATCH (R321). -/
def execWatch (d a : SReg) (nb : Bool) (s : State) : Host.Outcome State Fault Refusal :=
  (runOp · s) do
    runFits a 4
    let addr ← rd a
    let mask ← rd (SReg.plus a 1)
    let value ← rd (SReg.plus a 2)
    let x ← rd (SReg.plus a 3)
    if 16 ≤ x.toNat || 6 ≤ bitsOf x.toNat 0 3 then trap ILLEGAL_OP
    noRegion
    let wide := bitAt x.toNat 3
    if addr.toNat % (if wide then 8 else 4) ≠ 0 then trap MISALIGN addr
    if 2 ^ 56 ≤ addr.toNat then trap PROTECTION addr
    let l ← locate .load addr.toNat (if wide then 8 else 4)
    match l with
    | .phys p _ => do
      needEntry d nb
      let u ← fresh
      let polled ← watchPolled p
      modify fun s =>
        let w : Watch :=
          { uid := u, ctx := s.cw.ctx, addr := p, mask, value, wide, cmp := bitsOf x.toNat 0 3, matched := false, polled := polled,
            polledAt := s.time s.cw.dev }
        { s with watches := s.watches ++ [{ w with matched := w.holds s.mem }] }
      let h ← newHandle kWATCH u
      result d (zext64 h)
    | _ => trap PROTECTION addr

/-- WATCH_MATCH (R321): the home agent finds that the comparison of its entry holds. -/
def execWatchMatch (s : State) : Host.Outcome State Fault Refusal :=
  match s.turn with
  | .event (.watchMatch u) =>
    .next (s.updWatch u fun w => if !w.polled && s.watchReads w && w.holds s.mem then { w with matched := true } else w)
  | _ => .next s

/-- The object engine reads the word of a polled watch (R322). -/
def State.pollWatch (s : State) (u : Nat) : State :=
  s.updWatch u fun w =>
    if w.polled then { w with matched := w.matched || (s.watchReads w && w.holds s.mem), polledAt := ((s.ctx? w.ctx).map fun c => s.time c.dev).getD 0 } else w

/-- WATCH_POLL (R322). -/
def execWatchPoll (s : State) : Host.Outcome State Fault Refusal :=
  match s.turn with
  | .event (.watchPoll u) =>
    .next (s.pollWatch u)
  | _ => .next s

/-! ## OCLOSE (R323) -/

/-- An exited wave's object released (R154). -/
def State.releaseWave (s : State) (u : Nat) : State :=
  ((s.dropSource kWAVE u).freeHandle kWAVE u).updWave u fun w => { w with joinable := false }

/-- A wave handle closed (R154, R323). -/
def closeWave (d : SReg) (u : Nat) : Op Unit := do
  match (← get).wave? u with
  | none => pure ()
  | some w => do
    if !w.joinable then status d 9
    if w.st == .exited then modify (·.releaseWave u)
    else modify (·.updWave u fun w => { w with joinable := false })

/-- A census handle closed (R384): the asker's goes, and a census still collecting runs on without it; a responder's own handle, in the
context where it runs, goes alone. -/
def State.closeCensus (s : State) (u : Nat) (h : BitVec 32) : State :=
  let responder := s.responders.any fun m => m.census == u && m.handle == h && !m.ended &&
    s.allWaves.any fun w => w.responder == some m.uid && w.ctx == s.cw.ctx
  let s := s.freeHandleAt s.cw.ctx h
  if responder then s else (s.dropSource kCENSUS u).updCensus u fun c => { c with owner := false }

/-- OCLOSE (R323). -/
def execOclose (d a : SReg) (s : State) : Host.Outcome State Fault Refusal :=
  (runOp · s) do
    noRegion
    let h ← rd a
    let (kind, u) ← resolve a [kWAVE, kREMOTE, kWSET, kTIMER, kWATCH, kCENSUS, kCOPY]
    if kind = kWAVE then closeWave d u
    else if kind = kCENSUS then modify (·.closeCensus u (h.setWidth 32))
    else
      modify fun s =>
        let s := (s.freeHandle kind u).dropSource kind u
        if kind = kREMOTE then
          match s.remote? u with
          | some r => s.closeRemote r
          | none => s
        else if kind = kWSET then { s with waitSets := s.waitSets.filter fun w => w.uid != u }
        else if kind = kTIMER then { s with timers := s.timers.filter fun t => t.uid != u }
        else if kind = kWATCH then { s with watches := s.watches.filter fun w => w.uid != u }
        else s
    result d 0

end Sys2Proof.Machine
end

