-- ==== Sys2Proof/Machine/Copy.lean ====
section
/-!
DEFINITION. Copies (R256 to R273): the descriptor, the storage formats, the issue checks, the eight instructions, and what a copy
engine does with one chunk.
-/

namespace Sys2Proof.Machine

/-! ## The descriptor (R256) -/

/-- A copy descriptor taken apart. Strides are bytes, and 0 with one row; `list` is the index list of an XGATHER. -/
structure CopyDesc where
  src : Nat
  dst : Nat
  sstride : Int
  rows : Nat
  rbytes : Nat
  dstride : Int
  bmoff : Nat
  rsvd : Bool
  panel : Bool
  bmclr : Bool
  bmen : Bool
  red : Nat
  ety : Nat
  fmt : Nat
  list : Option Nat
  deriving DecidableEq, Repr, Inhabited

/-- The fields of the four descriptor words (R256). With ROWS 0 both strides are ignored: nothing is added for them (log entry 55). -/
def copyDesc (ws : List Word) (list : Option Nat) : CopyDesc :=
  let c := (ws.getD 2 0).toNat
  let x := (ws.getD 3 0).toNat
  let one := bitsOf c 16 16 == 0
  { src := (ws.getD 0 0).toNat, dst := (ws.getD 1 0).toNat,
    sstride := if one then 0 else (BitVec.ofNat 32 (bitsOf c 32 32)).toInt,
    rows := bitsOf c 16 16 + 1, rbytes := bitsOf c 0 16 + 1,
    dstride := if one then 0 else 16 * (BitVec.ofNat 24 (bitsOf x 40 24)).toInt,
    bmoff := bitsOf x 20 20, rsvd := bitAt x 19, panel := bitAt x 18, bmclr := bitAt x 17, bmen := bitAt x 16,
    red := bitsOf x 12 4, ety := bitsOf x 8 4, fmt := bitsOf x 0 8, list }

/-- eb: the bytes of an element; 1 for E2M1x16 (R256). -/
def elemBytes (ety : Nat) : Nat := max 1 (((subTy ety).map (·.width)).getD 8 / 8)

/-- An address moved by a signed distance, modulo 2^64. -/
def addrPlus (a : Nat) (d : Int) : Nat := (((a : Int) + d) % 2 ^ 64).toNat

/-- The stored offset of a panel turned into its logical row and byte (R259). -/
def panelRow (n : Nat) : Nat × Nat :=
  let m := n / 64
  (m, 16 * Nat.xor (n % 64 / 16) (m % 4) + n % 16)

/-- Bytes of an output row, for a linear destination. -/
def CopyDesc.rowLen (d : CopyDesc) : Nat := if d.fmt = 3 then 2 * d.rows else d.rbytes

/-- The destination bytes of a copy (R258, R260, R269). -/
def CopyDesc.total (d : CopyDesc) : Nat := if d.fmt = 2 then 10304 else d.rows * d.rbytes

/-- Whether the destination is linear rows. -/
def CopyDesc.linear (d : CopyDesc) : Bool := !d.panel && (d.fmt == 0 || d.fmt == 3 || d.fmt == 4)

/-- The generic address of destination byte `n` (R258). -/
def CopyDesc.dstAt (d : CopyDesc) (n : Nat) : Nat :=
  if d.linear then addrPlus d.dst ((n / d.rowLen : Nat) * d.dstride + (n % d.rowLen : Nat)) else addrPlus d.dst n

/-- A byte of source row `r`. -/
def CopyDesc.srcRow (d : CopyDesc) (r i : Nat) : Nat := addrPlus d.src ((r : Nat) * d.sstride + (i : Nat))

/-- Byte `i` of output row `j` of a transpose. -/
def CopyDesc.transposed (d : CopyDesc) (j i : Nat) : Nat := d.srcRow (i / 2) (2 * j + i % 2)

/-- The source row that a destination byte of an XGATHER comes from. -/
def CopyDesc.gatherRow (d : CopyDesc) (n : Nat) : Nat := n / d.rbytes

/-- The generic address of the source of destination byte `n`; `none` for a zero byte of a blocked-FP4 panel (R258 to R260).
`idx` gives Idx of a gathered row. -/
def CopyDesc.srcAt (d : CopyDesc) (idx : Nat → Nat) (n : Nat) : Option Nat :=
  match d.fmt with
  | 0 => some (if d.panel then d.srcRow (panelRow n).1 (panelRow n).2 else d.srcRow (n / d.rbytes) (n % d.rbytes))
  | 1 => some (addrPlus d.src n)
  | 2 =>
    if n < 8192 then some (d.srcRow (panelRow n).1 (panelRow n).2)
    else if n < 10240 then some (d.srcRow ((n - 8192) / 16) (64 + (n - 8192) % 16))
    else if n < 10244 then some (d.srcRow (64 * ((n - 10240) / 2)) (80 + (n - 10240) % 2))
    else none
  | 3 =>
    some (if d.panel then d.transposed (panelRow n).1 (panelRow n).2 else d.transposed (n / d.rowLen) (n % d.rowLen))
  | _ => some (addrPlus d.src ((idx (d.gatherRow n) : Nat) * d.sstride + (n % d.rbytes : Nat)))

/-! ## The checks at issue (R257, R258) -/

/-- The instruction that issues a copy. -/
inductive CopyKind where
  | xcopy | xstore | xgather
  deriving DecidableEq, Repr, Inhabited

/-- Element types that a reduction takes (R258). -/
def redTypeOk (red ety : Nat) : Bool :=
  if 4 ≤ red then ety == 0x0 || ety == 0xE || ety == 0x1 || ety == 0x4
  else [0x0, 0xE, 0x1, 0x4, 0x7, 0x8, 0x9, 0xD].contains ety

/-- Formats, element types, PANEL, RED and sizes that an instruction may name (R258). -/
def CopyDesc.legal (d : CopyDesc) (k : CopyKind) : Bool :=
  !d.rsvd && d.ety != 0xF && d.red ≤ 5 &&
  (match d.fmt with
    | 0 => k != .xgather && (!d.panel || (d.rbytes == 64 && d.rows == 128))
    | 1 => k != .xgather && !d.panel && d.rbytes == 64 && (d.rows == 128 || d.rows == 161) && d.sstride == 64
    | 2 => k == .xcopy && !d.panel && d.rbytes == 96 && d.rows == 128 && d.ety == 0xC
    | 3 => k == .xcopy && [0x2, 0x5, 0x8, 0x9].contains d.ety && (!d.panel || (d.rows == 32 && d.rbytes == 256))
    | 4 => k == .xgather && !d.panel
    | _ => false) &&
  (d.red == 0 || (k == .xstore && d.fmt == 0 && !d.panel && redTypeOk d.red d.ety)) &&
  (!(d.panel || d.fmt == 2) || d.dstride == 0)

/-- The first address of a copy that is misaligned (R257, R258). -/
def CopyDesc.misaligned (d : CopyDesc) : Option Nat :=
  let eb := elemBytes d.ety
  if d.src % eb ≠ 0 then some d.src
  else if d.dst % eb ≠ 0 then some d.dst
  else if d.sstride % eb ≠ 0 then some d.src
  else if d.fmt ≠ 1 && d.dstride % eb ≠ 0 then some d.dst
  else if d.rbytes % eb ≠ 0 then some d.src
  else if (d.panel || d.fmt == 2) && d.dst % 64 ≠ 0 then some d.dst
  else none

/-- Whether an address lies in the scratchpad range (R226). -/
def inScratch (a : Nat) : Bool := scratchWindow ≤ a && a < scratchWindow + 0x0D000000

/-- Whether an address lies in a range of R226 that a copy may use: neither the FIFO window nor outside every range (R257). -/
def copyRange (a : Nat) : Bool := a < 2 ^ 56 || inScratch a

/-- Whether an address, if it is a scratchpad byte, lies inside its team's window (R227, R257). -/
def State.insideTeam (s : State) (w : Wave) (a : Nat) : Bool := !inScratch a || (s.scratchAt w a).isSome

/-- The first of some bytes that lies outside its team's window. -/
def State.outsideTeam (s : State) (w : Wave) (as : List Nat) : Option Nat := as.find? fun a => !s.insideTeam w a

/-- Whether a bitmap word lies inside the team's scratchpad. -/
def State.bitmapOk (s : State) (w : Wave) (off : Nat) : Bool :=
  match s.team? w.team with
  | some t => off + 8 ≤ t.banks * 131072
  | none => false

/-- The generic address of an offset of the executing team's scratchpad. -/
def bitmapAddr (off : Nat) : Nat := scratchWindow + off

/-- The chunks of a number of destination bytes (R269). -/
def chunksOf (total : Nat) : Nat := (total + 511) / 512

/-- The offsets of the bitmap words of a transfer (R269). -/
def bitmapWords (bmoff total : Nat) : List Nat := (List.range ((chunksOf total + 63) / 64)).map fun i => 8 * bmoff + 8 * i

/-- The first address of a copy that fails the last check of R257: SRC and DST, then scratchpad bytes, then bitmap words. A panel
stands in a scratchpad window (R258). The rows of an XGATHER, which need not begin at SRC, are known once its list is read, as the copy
runs (R264). -/
def State.copyBadAddr (s : State) (w : Wave) (d : CopyDesc) : Option Nat :=
  let srcs := if d.list.isSome then [] else (List.range d.total).filterMap (d.srcAt fun _ => 0)
  if !copyRange d.src then some d.src
  else if !copyRange d.dst || ((d.panel || d.fmt == 2) && !inScratch d.dst) then some d.dst
  else
    (s.outsideTeam w (srcs ++ (List.range d.total).map d.dstAt)).or
      (if d.bmen then ((bitmapWords d.bmoff d.total).find? fun o => !s.bitmapOk w o).map bitmapAddr else none)

/-- The checks of the index list of an XGATHER, after those of its descriptor (R264). -/
def checkList (d : CopyDesc) (list : Word) : Op Unit := do
  aligned list 4
  let as := (List.range (4 * d.rows)).map fun i => addrPlus list.toNat (i : Nat)
  let s ← get
  match (as.find? fun a => !copyRange a).or (s.outsideTeam s.cw as) with
  | some a => trap PROTECTION (.ofNat 64 a)
  | none => pure ()

/-- What makes a descriptor's word illegal, before any other trap (R90, R257). -/
def checkLegal (d : CopyDesc) (k : CopyKind) : Op Unit := do
  if !d.legal k then trap ILLEGAL_OP
  noRegion

/-- The other descriptor checks, in order (R257). -/
def checkCopy (d : CopyDesc) : Op Unit := do
  match d.misaligned with
  | some a => trap MISALIGN (.ofNat 64 a)
  | none => pure ()
  let s ← get
  match s.copyBadAddr s.cw d with
  | some a => trap PROTECTION (.ofNat 64 a)
  | none => pure ()

/-! ## Issue (R264) -/

/-- A new copy of the executing wave, in its open batch (R264, R266), after the limits of R262 and R104; `also` is what its issue
does besides. -/
def issueCopy (d : SReg) (nb h : Bool) (job : Job) (words : List Word) (tensor : Nat) (also : State → State := id) : Op Unit := do
  let s ← get
  if 128 ≤ s.copiesOn s.cw.dev s.cw.core then
    if nb then status d 1 else stall
  if h then needEntry d nb
  let u ← fresh
  modify fun s =>
    let w := s.cw
    let c : Copy :=
      { uid := u, dev := w.dev, hoop := w.core / 8, ctx := w.ctx, wave := w.uid, team := w.team,
        cluster := ((s.team? w.team).map (·.cluster)).getD 0, tpos := w.tpos, banks := ((s.team? w.team).map (·.banks)).getD 0,
        left := none, core := w.core, batch := w.batch, job, words, tensor, st := CopyState.queued, engine := 0, cleared := false,
        chunks := [], written := [], counted := [], stopChunk := 0, trap := none, order := u, readGen := none, phase := 0, peerWait := none, rimAddr := 0, reported := false, restart := false }
    also { s with copies := s.copies ++ [c] }
  if h then do
    let x ← newHandle kCOPY u
    result d (zext64 x)
  else result d 0

/-- The run of a descriptor. -/
def readRun (a : SReg) (n : Nat) : Op (List Word) := (List.range n).mapM fun i => rd (SReg.plus a i)

/-- XCOPY (R264). -/
def execXcopy (d a : SReg) (nb h : Bool) (s : State) : Host.Outcome State Fault Refusal :=
  (runOp · s) do
    runFits a 4
    let ws ← readRun a 4
    checkLegal (copyDesc ws none) .xcopy
    checkCopy (copyDesc ws none)
    issueCopy d nb h .copy ws 0

/-- XSTORE (R264): a release at device scope. -/
def execXstore (d a : SReg) (nb h : Bool) (s : State) : Host.Outcome State Fault Refusal :=
  (runOp · s) do
    runFits a 4
    let ws ← readRun a 4
    checkLegal (copyDesc ws none) .xstore
    releaseWait 2
    checkCopy (copyDesc ws none)
    issueCopy d nb h .copy ws 0

/-- XGATHER (R264). -/
def execXgather (d a b : SReg) (nb h : Bool) (s : State) : Host.Outcome State Fault Refusal :=
  (runOp · s) do
    runFits a 4
    let ws ← readRun a 4
    let list ← rd b
    let desc := copyDesc ws (some list.toNat)
    checkLegal desc .xgather
    checkCopy desc
    checkList desc list
    issueCopy d nb h (.gather list.toNat) ws 0

/-! ## Batches and bitmaps -/

/-- XBATCH (R266). -/
def execXbatch (d : SReg) (s : State) : Host.Outcome State Fault Refusal :=
  (runOp · s) do
    noRegion
    let n := (← get).cw.batch
    modify fun s => { s with cw := { s.cw with batch := n + 1, closed := n } }
    result d (.ofNat 64 n)

/-- Whether a copy of a wave counts in a batch report: it ended cancelled or failed and was not reported (R268). -/
def Copy.unreported (c : Copy) (wave n : Nat) : Bool :=
  c.wave == wave && c.batch ≤ n && !c.reported && (c.st == CopyState.cancelled || c.st == CopyState.failed)

/-- The report of batches up to `n`: each cancelled or failed copy is reported once (R268). -/
def State.reportBatch (s : State) (n : Nat) : State :=
  { s with copies := s.copies.map fun (c : Copy) => if c.unreported s.cw.uid n then { c with reported := true } else c }

/-- XWAITB (R268); the completion is observed (R246). -/
def execXwaitb (d a : SReg) (nb : Bool) (s : State) : Host.Outcome State Fault Refusal :=
  (runOp · s) do
    noRegion
    let n := (← rd a).toNat
    let s ← get
    if s.cw.closed < n then status d 2
    if !s.batchDone s.cw.uid n then
      if nb then status d 1 else block .batch n d
    let count := (s.copies.filter fun c => c.unreported s.cw.uid n).length
    modify fun s => (s.reportBatch n).observeBatch s.cw.uid n
    result d (.ofNat 64 count)

/-- The bitmap of a transfer: whether it sets bits and clears them first, its offset, and the destination bytes. Transfers of
TLOAD and TSTORE name theirs in the seventh word of their run (R366). -/
structure Bitmap where
  en : Bool
  clr : Bool
  off : Nat
  deriving DecidableEq, Repr, Inhabited

/-- The bitmap of a transfer (R256, R366); a TCONV has none. -/
def Copy.bitmap (c : Copy) : Bitmap :=
  match c.job with
  | .copy | .gather _ =>
    let d := copyDesc c.words none
    { en := d.bmen, clr := d.bmclr, off := d.bmoff }
  | .tload | .tstore =>
    let x := (c.words.getD 6 0).toNat
    { en := bitAt x 20, clr := bitAt x 21, off := bitsOf x 0 20 }
  | .tconv => { en := false, clr := false, off := 0 }

/-- The bytes of a tile of TLOAD and TSTORE in scratchpad, by its run and element size: rows padded to 16 bytes (R366). -/
def tileRow (ws : List Word) (eb : Nat) : Nat := ((bitsOf (ws.getD 3 0).toNat 0 16 + 1) * eb + 15) / 16 * 16

/-- The bytes of a tile (R366). -/
def tileBytes (ws : List Word) (eb : Nat) : Nat :=
  let x := (ws.getD 3 0).toNat
  tileRow ws eb * (bitsOf x 16 16 + 1) * (bitsOf x 32 16 + 1) * (bitsOf x 48 16 + 1)

/-! ## Tensor shapes that transfers need (R361, R362) -/

/-- A field of a descriptor word. -/
def wordField (ws : List Word) (i lo n : Nat) : Nat := bitsOf (ws.getD i 0).toNat lo n

def tensorEb (ws : List Word) : Nat := elemBytes (wordField ws 0 36 4)

/-- Global extents. -/
def tensorDims (ws : List Word) : List Nat := [wordField ws 3 0 32, wordField ws 3 32 32, wordField ws 4 0 32, wordField ws 4 32 32]

/-- The state byte of axis `i` in a word of states. -/
def stateByte (states i : Nat) : Nat := bitsOf states (8 * i) 8

def stKind (b : Nat) : Nat := bitsOf b 6 2
def stArg (b : Nat) : Nat := bitsOf b 4 2

/-- The local extents under states, on a mesh (R362). -/
def localDims (m : Mesh) (states : Nat) (dims : List Nat) : List Nat :=
  dims.zipIdx.map fun x => (List.range m.rank).foldl (fun n i =>
    let b := stateByte states i
    if stKind b == 1 && stArg b == x.2 then n / m.sizes.getD i 1 else n) x.1

/-- The mesh that a tensor's words name in its context. -/
def State.meshOf (s : State) (ctx : Nat) (ws : List Word) : Option Mesh :=
  (s.ctx? ctx).bind fun c => c.meshes.find? (·.num == wordField ws 0 40 4)

/-- The new words of a tensor that a TCONV's run gives (R371). -/
def convWords (old run : List Word) : List Word :=
  [old.getD 0 0, .ofNat 64 (wordField run 1 0 24), old.getD 2 0, old.getD 3 0, old.getD 4 0, run.getD 2 0, run.getD 3 0,
   .ofNat 64 (wordField run 4 0 32)]

/-- The destination bytes of a transfer (R269, R366, R371): a TCONV counts the elements of its new shard. -/
def State.copyTotal (s : State) (c : Copy) : Nat :=
  match c.job with
  | .copy => (copyDesc c.words none).total
  | .gather l => (copyDesc c.words (some l)).total
  | .tload | .tstore => tileBytes c.words (((s.tensor? c.tensor).map fun t => tensorEb t.words).getD 1)
  | .tconv =>
    match s.tensor? c.tensor with
    | none => 0
    | some t =>
      match s.meshOf t.ctx t.words with
      | none => 0
      | some m => tensorEb t.words * (localDims m (wordField c.words 1 0 24) (tensorDims t.words)).foldl (· * ·) 1

/-- Whether a transfer sets a bit in a bitmap word of the team (R270). -/
def State.setsWord (s : State) (c : Copy) (off : Nat) : Bool :=
  c.bitmap.en && c.inFlight && (bitmapWords c.bitmap.off (s.copyTotal c)).contains off

/-- The writes of the chunks whose bits of a bitmap word a mask selects are observed (R246, R247). -/
def State.observeChunks (s : State) (off : Nat) (mask : Word) : State :=
  s.observe fun u => match u.chunk, s.copy? u.src with
    | some k, some c => c.bitmap.en && 8 * c.bitmap.off + 8 * (k / 64) == off && bitAt mask.toNat (k % 64)
    | _, _ => false

/-- XWAITC (R270). -/
def execXwaitc (d a b : SReg) (nb : Bool) (s : State) : Host.Outcome State Fault Refusal :=
  (runOp · s) do
    noRegion
    let addr ← rd a
    let mask ← rd b
    aligned addr 8
    let s ← get
    match if inScratch addr.toNat then s.scratchAt s.cw addr.toNat else none with
    | none => trap PROTECTION addr
    | some (t, off) =>
      if t.uid ≠ s.cw.team then trap PROTECTION addr
      let x ← loadAt addr.toNat (.scratch t.uid off) 8
      if .ofNat 64 x &&& mask = mask then
        modify (·.observeChunks off mask)
        status d 0
      if !(s.copies.any fun c => c.team == t.uid && s.setsWord c off) then status d 2
      if nb then status d 1
      block

/-! ## XCANCEL, XSTAT -/

/-- A copy that is cancelled (R271). -/
def State.cancelCopy (s : State) (c : Copy) : State := s.updCopy c.uid fun c => { c with st := CopyState.cancelled }

/-- XCANCEL (R271). -/
def execXcancel (d a : SReg) (batch : Bool) (s : State) : Host.Outcome State Fault Refusal :=
  (runOp · s) do
    noRegion
    let x ← rd a
    if batch then
      let s ← get
      if s.cw.closed < x.toNat then status d 2
      let cs := s.copies.filter fun (c : Copy) => c.wave == s.cw.uid && c.batch ≤ x.toNat && c.st == CopyState.queued
      modify fun s => cs.foldl (fun (s : State) c => s.cancelCopy c) s
      result d (.ofNat 64 cs.length)
    else
      let (_, u) ← resolve a [kCOPY]
      match (← get).copy? u with
      | some c =>
        if c.st = CopyState.queued then
          modify (·.cancelCopy c)
          result d 1
        else result d 0
      | none => result d 0

/-- The state code of XSTAT (R272). -/
def CopyState.code : CopyState → Nat
  | .queued => 0
  | .started => 1
  | .done => 2
  | .cancelled => 3
  | .failed => 4
  | .stopped => 5

/-- XSTAT (R272). -/
def execXstat (d a : SReg) (batch : Bool) (s : State) : Host.Outcome State Fault Refusal :=
  (runOp · s) do
    noRegion
    let x ← rd a
    let s ← get
    if batch then
      if s.cw.closed < x.toNat then status d 2
      if s.batchDone s.cw.uid x.toNat then
        modify fun s => (s.reportBatch x.toNat).observeBatch s.cw.uid x.toNat
        result d 0
      else
        status d 1 (s.copies.filter fun (c : Copy) => c.wave == s.cw.uid && c.batch ≤ x.toNat && c.inFlight).length
    else
      let (_, u) ← resolve a [kCOPY]
      match s.copy? u with
      | some c =>
        if c.st = CopyState.done then modify (·.observe fun x => x.src == u)
        status d c.st.code c.chunks.length
      | none => status d 0

/-! ## What an engine does with a chunk -/

/-- Why a chunk is not written now: a write-blocked page, a fault (R267), a peer that delays the piece (its context, the page, word 3 of
the page request that goes to it, and the address: R353, R368), a device that does not answer for an address and its lines (R412), or a
descriptor that disagrees. -/
inductive EngStop where
  | blocked
  | bad (t : Trap)
  | peer (ctx page : Nat) (post : Option Nat) (addr : Nat)
  | rim (dev addr : Nat) (lines : List Nat)
  | failed
  deriving DecidableEq, Repr, Inhabited

/-- An engine's work: it may read and change the state and stop. -/
abbrev Eng := EStateM EngStop State

/-- The issuing wave as its engine uses it: the context's accesses come from the engine, outside any region. A wave that has ended
stands for its context (R273). -/
def State.engineWave (s : State) (c : Copy) : Wave :=
  { ((s.wave? c.wave).getD (Wave.blank 0)) with
    dev := c.dev
    ctx := c.ctx
    team := c.team
    tpos := c.tpos
    core := 512
    region := none }

/-- A scratchpad address of a copy whose team has ended (R227, R273): what its team left, inside the banks it had, as team 0, or another team
of the cluster. -/
def State.leftAt (s : State) (c : Copy) (a : Nat) : Option Loc :=
  let t := (a - scratchWindow) / 2 ^ 24
  let off := a % 2 ^ 24
  if t = 0 || t - 1 = c.tpos then (if off < c.banks * 131072 then some (.scratch 0 off) else none)
  else
    ((s.teams.find? fun (x : Team) => x.cluster == c.cluster && x.tpos == t - 1).filter fun x => off < x.banks * 131072).map fun x =>
      .scratch x.uid off

/-- A page that a copy has come to counts for it, once for the instruction that issued the copy (R355). -/
def engCount (c : Copy) (w : Wave) (page : Nat) : Eng Unit :=
  modify fun s =>
    if ((s.copy? c.uid).map fun c => c.counted.contains page).getD true then s
    else (s.updCopy c.uid fun c => { c with counted := page :: c.counted }).countPages (s.whoOf w) [page]

/-- One byte or element checked (R267); a peer that does not answer delays it (R412), and one whose frame check refuses the access faults it
(R414). -/
def engLocate (c : Copy) (w : Wave) (acc : Acc) (a n : Nat) : Eng Loc := do
  let s ← get
  if inScratch a && (s.team? w.team).isNone then
    match s.leftAt c a with
    | some l => pure l
    | none => throw (.bad { cause := PROTECTION, addr := .ofNat 64 a })
  else
    let (r, s) := s.locate w acc a n
    set s
    match r with
    | .ok l =>
      match l with
      | .phys p page => do
        let who := s.whoOf w
        if isPeer w.dev p && !s.reachable w.dev (p / 2 ^ 43) then throw (.rim (p / 2 ^ 43) a [p / 128 * 128])
        else if acc.merges w.dev p && !s.frameOk w.dev who.part p false then
          throw (.bad { cause := PROTECTION, addr := .ofNat 64 a, info := XFault.info ⟨PROTECTION, 5, 1, 0⟩ true })
        else do
          engCount c w page
          pure l
      | _ => pure l
    | .blocked => throw .blocked
    | .bad t => throw (.bad t)

/-- What the write-combining buffers hold of a line for the copy's issuing core, or for its wave on another, drains before an engine reads the
line at a peer (R237, R246). -/
def State.drainFor (s : State) (c : Copy) (phys : Nat) : State :=
  if isPeer c.dev phys then
    s.drainWhere fun e => e.dev == c.dev && e.line == phys / 128 * 128 && (e.core == c.core || e.leftBy s c.wave)
  else s

/-- Bytes read by an engine: poison stops the copy (R267). -/
def engRead (c : Copy) (w : Wave) (a : Nat) (l : Loc) (n : Nat) : Eng (List Byte) := do
  match l with
  | .phys p _ => modify fun s => s.drainFor c p
  | _ => pure ()
  match (← get).poisonAt l n fun _ => true with
  | some code => throw (.bad { cause := SOFT_ERROR_UNCORRECTED, addr := .ofNat 64 a, info := .ofNat 64 code })
  | none => pure ()
  match l with
  | .phys p _ =>
    modify fun s => s.hbm (s.whoOf w) p n
    pure (Memory.readBytes (← get).mem p n)
  | .scratch 0 off => pure (Memory.readBytes ((((← get).copy? c.uid).bind (·.left)).getD []) off n)
  | .scratch t off => pure (Memory.readBytes ((((← get).team? t).map (·.scratch)).getD []) off n)
  | .fifo _ => pure []

/-- A fabric reduction that meets poison, and a piece whose data a peer holds poisoned, give the requester FABRIC_POISON (R399). -/
def fabricPoison {α : Type} (x : Eng α) : Eng α :=
  tryCatch x fun e => match e with
    | .bad t => throw (.bad (if t.cause = SOFT_ERROR_UNCORRECTED then { t with cause := FABRIC_POISON, info := 0 } else t))
    | e => throw e

/-- Bytes of chunk `k` written by an engine. -/
def engWrite (c : Copy) (k : Nat) (w : Wave) (l : Loc) (bytes : List Byte) : Eng Unit :=
  match l with
  | .phys p _ => modify fun s => (s.writePhys p bytes).hbm (s.whoOf w) p bytes.length
  | .scratch 0 off =>
    modify (·.updCopy c.uid fun c => { c with left := c.left.map fun m => Memory.writeBytes m off bytes })
  | .scratch t off => modify (·.writeScratch t off c.uid (some k) bytes)
  | .fifo _ => pure ()

/-- Where a location lies, apart from the page that counts. -/
def Loc.key : Loc → Nat × Nat × Nat
  | .phys p _ => (0, 0, p)
  | .scratch t off => (1, t, off)
  | .fifo q => (2, q, 0)

/-- Whether a location is the `n`-th byte from another. -/
def Loc.follows (b a : Loc) (n : Nat) : Bool := a.key.1 == b.key.1 && a.key.2.1 == b.key.2.1 && a.key.2.2 + n == b.key.2.2

/-- Pieces gathered into runs at consecutive locations, so that a word written whole is written at once (R246, R398). -/
def groupRuns : List (Loc × List Byte) → List (Loc × List Byte)
  | [] => []
  | (l, b) :: rest =>
    match groupRuns rest with
    | (l', bs) :: more => if l'.follows l b.length then (l, b ++ bs) :: more else (l, b) :: (l', bs) :: more
    | [] => [(l, b)]

/-- Pieces written by an engine, run by run. -/
def engWriteAll (c : Copy) (k : Nat) (w : Wave) (xs : List (Loc × List Byte)) : Eng Unit :=
  (groupRuns xs).forM fun r => engWrite c k w r.1 r.2

/-- Pieces of a chunk that loads need not see before its completion is observed, though its bit is set (R246). -/
def engWriteLate (c : Copy) (k : Nat) (w : Wave) (xs : List (Loc × List Byte)) : Eng Unit :=
  (groupRuns xs).forM fun r =>
    let x : LateWrite := { copy := c.uid, chunk := k, team := none, place := 0, bytes := r.2 }
    match r.1 with
    | .phys p _ => modify fun s => { s with late := s.late ++ [{ x with place := p }] }.hbm (s.whoOf w) p r.2.length
    | .scratch 0 _ => engWrite c k w r.1 r.2
    | .scratch t off => modify fun s => { s with late := s.late ++ [{ x with team := some t, place := off }] }
    | .fifo _ => pure ()

/-- The indices of a chunk. -/
def chunkRange (total k : Nat) : List Nat := (List.range (min 512 (total - 512 * k))).map (512 * k + ·)

/-- The part of a chunk that is written now: the aligned word `only` of the destination, or with none every word that is not written
yet (R246). -/
def Copy.now (c : Copy) (k : Nat) (only : Option Nat) (addr : Nat) : Bool :=
  !c.written.contains (k, addr / 8) && (match only with
    | some x => x == addr / 8
    | none => true)

/-- Idx of every row of an XGATHER whose bytes lie in a chunk, read as sources (R264). -/
def engIndices (c : Copy) (w : Wave) (d : CopyDesc) (ns : List Nat) : Eng (List (Nat × Nat)) :=
  match d.list with
  | none => pure []
  | some l => ((ns.map d.gatherRow).eraseDups).mapM fun r => do
    let a := addrPlus l (4 * r : Nat)
    let loc ← engLocate c w .load a 4
    pure (r, ofLeBytes (← engRead c w a loc 4))

/-- An association read. -/
def lookupNat (l : List (Nat × Nat)) (k : Nat) : Nat := ((l.find? (·.1 == k)).map (·.2)).getD 0

/-- Bytes at a location as they stand, with no effect. -/
def State.bytesAt (s : State) (l : Loc) (n : Nat) : List Byte :=
  match l with
  | .phys p _ => Memory.readBytes s.mem p n
  | .scratch t off => Memory.readBytes (((s.team? t).map (·.scratch)).getD []) off n
  | .fifo _ => []

/-- Idx of a row as the list stands, for the overlap rule. -/
def State.idxNow (s : State) (w : Wave) (d : CopyDesc) (r : Nat) : Nat :=
  match d.list.map fun l => (s.locate w .load (addrPlus l (4 * r : Nat)) 4).1 with
  | some (.ok l) => ofLeBytes (s.bytesAt l 4)
  | _ => 0

/-- The generic addresses of the source bytes of a copy, the index list of an XGATHER among them (R264). -/
def State.sourceAddrs (s : State) (w : Wave) (d : CopyDesc) : List Nat :=
  (List.range d.total).filterMap (d.srcAt (s.idxNow w d)) ++
    (match d.list with
      | some l => (List.range (4 * d.rows)).map fun i => addrPlus l (i : Nat)
      | none => [])

/-- The locations of every source byte of a copy that translates, for the overlap rule of R264. -/
def State.sourceKeys (s : State) (w : Wave) (d : CopyDesc) : List (Nat × Nat × Nat) :=
  (s.sourceAddrs w d).filterMap fun a =>
    match (s.locate w .load a 1).1 with
    | .ok l => some l.key
    | _ => none

/-- Whether destination rows of a copy may overlap. -/
def CopyDesc.overlapping (d : CopyDesc) : Bool := d.linear && d.rowLen < d.total && d.dstride.natAbs < d.rowLen

/-- Whether a copy has written a destination byte: in a chunk that is complete, or in a word written ahead. -/
def Copy.wrote (c : Copy) (d : CopyDesc) (total a : Nat) : Bool :=
  (c.chunks ++ (c.written.filter (·.2 == a / 8)).map (·.1)).any fun k => (chunkRange total k).any fun m => d.dstAt m == a

/-- Where destination rows overlap, each byte holds one of its writes, which one is unspecified (R264): the writes of a chunk
that take place. -/
def pickWrites (c : Copy) (d : CopyDesc) (total n : Nat) (ws : List (Nat × Loc × Byte)) : List (Nat × Loc × Byte) :=
  ws.filter fun x =>
    let a := d.dstAt x.1
    let same := (ws.filter fun y => d.dstAt y.1 == a).map (·.1)
    same[(Config.undef64 n a).toNat % (same.length + if c.wrote d total a then 1 else 0)]? == some x.1

/-- The combine of a reduction (R265), as VATOM's. -/
def redCombine (red ety old x : Nat) : Nat :=
  match subTy ety with
  | some (.flt f) =>
    match red with
    | 1 => (fadd f Env.rn (unpack f old) (unpack f x)).code
    | 2 => (minMax false f false old x).code
    | _ => (minMax true f false old x).code
  | some (.int t) =>
    let op := match red with
      | 1 => 0
      | 2 => 4
      | 3 => 5
      | 4 => 1
      | _ => 2
    (atomNew op t.bits (!t.sgn) old x 0).getD 0
  | none => x

/-- One element reduced at its home agent (R265); the bytes of it that are also source bytes hold undefined values, of draw `m` (R264). -/
def engReduce (c : Copy) (k : Nat) (w : Wave) (d : CopyDesc) (m : Nat) (source : Loc → Bool) (x : Nat × List (Loc × Byte)) : Eng Unit := do
  let eb := elemBytes d.ety
  match x.2 with
  | [] => pure ()
  | (l, _) :: _ => do
    let old ← fabricPoison (engRead c w (d.dstAt x.1) l eb)
    let new := leBytes (redCombine d.red d.ety (ofLeBytes old) (ofLeBytes (x.2.map (·.2)))) eb
    engWrite c k w l ((new.zip x.2).zipIdx.map fun y => if source y.1.2.1 then Config.undefByte m (x.1 + y.2) else y.1.1)

/-- A reduction's destination in host memory faults (R265). -/
def engNotHost (a : Nat) (l : Loc) : Eng Unit :=
  match l with
  | .phys p _ => if hostBase ≤ p then throw (.bad { cause := PROTECTION, addr := .ofNat 64 a }) else pure ()
  | _ => pure ()

/-- The bytes of a list by their place, in groups of `eb`. -/
def groupElems (eb : Nat) (xs : List (Nat × Loc × Byte)) : List (Nat × List (Loc × Byte)) :=
  (xs.filter fun x => x.1 % eb == 0).map fun x => (x.1, (xs.filter fun y => y.1 / eb == x.1 / eb).map (·.2))

/-- One chunk of a copy, or one word of it: every access is checked, then the bytes are written or reduced (R246, R264 to R267). Where the
chunk's bit tells of it, some of its aligned words may be seen late. -/
def copyChunk (c : Copy) (d : CopyDesc) (k : Nat) (only : Option Nat) : Eng Nat := do
  let s0 ← get
  let w := s0.engineWave c
  let total := d.total
  let ns := (chunkRange total k).filter fun n => c.now k only (d.dstAt n)
  let idx ← engIndices c w d ns
  let bytes ← ns.mapM fun n =>
    match d.srcAt (lookupNat idx) n with
    | none => pure (0 : Byte)
    | some a => do
      let l ← engLocate c w .load a 1
      pure ((← engRead c w a l 1).getD 0 0)
  let dsts ← ns.mapM fun n => do
    let l ← engLocate c w (if d.red = 0 then .store else .rmw) (d.dstAt n) 1
    if d.red ≠ 0 then engNotHost (d.dstAt n) l
    pure l
  let (m, s) := (← get).draw
  set s
  let keys := s.sourceKeys w d
  let source (l : Loc) : Bool := keys.contains l.key
  let ws := ns.zip (dsts.zip bytes)
  if d.red = 0 then
    let ws := ws.map fun x => if source x.2.1 then (x.1, x.2.1, Config.undefByte m x.1) else x
    let ws := if d.overlapping then pickWrites c d total m ws else ws
    let later (x : Nat × Loc × Byte) : Bool := c.bitmap.en && only.isNone && (Config.undef64 m (d.dstAt x.1 / 8)).toNat % 2 == 1
    engWriteAll c k w ((ws.filter fun x => !later x).map fun x => (x.2.1, [x.2.2]))
    engWriteLate c k w ((ws.filter later).map fun x => (x.2.1, [x.2.2]))
  else
    let es := groupElems (elemBytes d.ety) ws
    let order := if d.overlapping then freeOrder m (es.map (·.1)) else es.map (·.1)
    order.forM fun n =>
      match es.find? (·.1 == n) with
      | some e => engReduce c k w d m source e
      | none => pure ()
  pure ns.length

end Sys2Proof.Machine
end

