-- ==== Sys2Proof/Machine/Tensor.lean ====
section
/-!
DEFINITION. Meshes and tensors (R359 to R372): the calls, the pieces of a TLOAD and their reductions, conversions, and the events
of copy engines (R261 to R267).
-/

namespace Sys2Proof.Machine

/-! ## MESHDEF (R359) -/

/-- Whether a device has a partition in the fabric domain of a context (R311, R359). -/
def State.deviceInDomain (s : State) (c : Ctx) (d : Nat) : Bool :=
  s.parts.any fun (p : Part) => p.dev == d && s.sameDomain p.dev p.num c.dev c.part

/-- A table's devices (R359): distinct, inside the domain, the executing one among them. -/
def State.meshTableOk (s : State) (c : Ctx) (ids : List Nat) : Bool :=
  ids.eraseDups.length == ids.length && ids.all (s.deviceInDomain c) && ids.contains c.dev

/-- The device table of a MESHDEF, read as `n` one-byte loads (R359); bytes of a peer that does not answer complete poisoned (R412). -/
def readTable (table n : Nat) : Op (List Nat) := do
  let bytes ← (List.range n).mapM fun i => do
    let a := (table + i) % 2 ^ 64
    pure (a, ← locate .load a 1)
  if ← rimPoisoned (bytes.map (·.2)) then
    let k ← draw
    pure ((List.range n).map fun i => (Config.undef64 k i).toNat % 256)
  else
    bytes.mapM fun x => do
      let b ← loadAt x.1 x.2 1
      countLocs [x.2]
      pure b

/-- MESHDEF (R359). -/
def execMeshdef (d a : SReg) (s : State) : Host.Outcome State Fault Refusal :=
  (runOp · s) do
    runFits a 3
    let x := (← rd a).toNat
    let table := (← rd (SReg.plus a 1)).toNat
    let name ← rd (SReg.plus a 2)
    if x / 2 ^ 32 ≠ 0 || bitsOf x 6 2 ≠ 0 then trap ILLEGAL_OP
    noRegion
    let rank := bitsOf x 4 2
    let sizes := (List.range 3).map fun i => bitsOf x (8 + 8 * i) 8 + 1
    let n := sizes.foldl (· * ·) 1
    if rank = 0 || (sizes.drop rank).any (1 < ·) || 256 < n || name = 0 then status d 9
    let ids ← readTable table n
    let c ← myCtx
    let s ← get
    if !s.meshTableOk c ids then status d 9
    let num := bitsOf x 0 4
    if c.meshes.any (·.num == num) ||
        s.ctxs.any (fun (y : Ctx) => y.dev == c.dev && y.uid != c.uid && y.meshes.any (·.name == name)) then status d 6
    modify (·.updCtx c.uid fun c => { c with meshes := c.meshes ++ [Mesh.mk num rank sizes ids name] })
    result d 0

/-- The device at coordinates of a mesh (R359). -/
def Mesh.deviceAt (m : Mesh) (cs : List Nat) : Nat :=
  m.table.getD (cs.getD 0 0 + m.sizes.getD 0 1 * (cs.getD 1 0 + m.sizes.getD 1 1 * cs.getD 2 0)) 0

/-- The coordinates of a device (R360). -/
def Mesh.coordsOf (m : Mesh) (d : Nat) : List Nat :=
  let i := m.table.findIdx (· == d)
  let s0 := m.sizes.getD 0 1
  let s1 := m.sizes.getD 1 1
  [i % s0, i / s0 % s1, i / (s0 * s1)]

/-- The member context of a mesh on a device (R359). -/
def State.member (s : State) (name : Word) (d : Nat) : Option Ctx :=
  s.ctxs.find? fun (c : Ctx) => c.dev == d && c.meshes.any (·.name == name)

/-! ## TDECL, TINFO -/

/-- A state byte without a reserved part (R362); the reserved operation of P is judged apart (R363). -/
def stLegal (b : Nat) : Bool := b % 16 == 0 && stKind b != 3 && (stKind b != 0 || stArg b == 0)

/-- The reserved operation of P (R363). -/
def stBadOp (b : Nat) : Bool := stKind b == 2 && stArg b == 3

/-- States that R363 refuses for a tensor rank and extents on a mesh. -/
def badStates (m : Mesh) (states rank : Nat) (dims : List Nat) : Bool :=
  let bs := (List.range m.rank).map (stateByte states)
  let shards := (bs.filter fun b => stKind b == 1).map stArg
  (List.range 3).any (fun i => m.rank ≤ i && stateByte states i != 0) ||
    shards.any (rank ≤ ·) || shards.eraseDups.length != shards.length ||
    (bs.zipIdx.any fun x => stKind x.1 == 1 && dims.getD (stArg x.1) 1 % m.sizes.getD x.2 1 != 0) ||
    bs.any stBadOp

/-- The rank of a tensor. -/
def tensorRank (ws : List Word) : Nat := wordField ws 0 32 2 + 1

/-- A non-zero reserved bit of a descriptor (R361, R363). -/
def declReserved (ws : List Word) : Bool :=
  wordField ws 0 44 20 != 0 || wordField ws 0 34 2 != 0 || wordField ws 1 24 40 != 0 || ws.getD 2 0 != 0 ||
    wordField ws 7 32 32 != 0 || (List.range 3).any fun i => !stLegal (stateByte (wordField ws 1 0 24) i)

/-- What R363 answers with BADARG; a BASE that is not 16-byte aligned too (log entry 23). -/
def declBad (m : Mesh) (ws : List Word) : Bool :=
  let e := wordField ws 0 36 4
  let dims := tensorDims ws
  e == 0xC || e == 0xF || dims.contains 0 || (dims.drop (tensorRank ws)).any (· != 1) ||
    badStates m (wordField ws 1 0 24) (tensorRank ws) dims || wordField ws 5 0 4 != 0

/-- The tensor of a context with a TID. -/
def State.tensorOf (s : State) (ctx tid : Nat) : Option Tensor :=
  s.tensors.find? fun (t : Tensor) => t.ctx == ctx && wordField t.words 0 0 32 == tid

/-- TDECL (R361, R363). -/
def execTdecl (d a : SReg) (nb : Bool) (s : State) : Host.Outcome State Fault Refusal :=
  (runOp · s) do
    runFits a 8
    let ws ← readRun a 8
    if declReserved ws then trap ILLEGAL_OP
    noRegion
    let c ← myCtx
    let s ← get
    match s.meshOf c.uid ws with
    | none => status d 7
    | some m => do
      if declBad m ws then status d 9
      if (s.tensorOf c.uid (wordField ws 0 0 32)).isSome then status d 6
      if 4096 ≤ (s.tensors.filter fun (t : Tensor) => t.ctx == c.uid).length then status d 2
      needEntry d nb
      let u ← fresh
      modify fun s => { s with tensors := s.tensors ++ [Tensor.mk u c.dev c.uid ws 0 false [] none] }
      let h ← newHandle kTENSOR u
      result d (zext64 h)

/-- A tensor operand. -/
def resolveTensor (a : SReg) : Op Tensor := do
  let _ ← rd a
  let (_, u) ← resolve a [kTENSOR]
  let s ← get
  match s.tensor? u with
  | some t => pure t
  | none => trap HANDLE_INVALID 0 (zext64 ((s.rs a).setWidth 32))

/-- Whether a transfer of a tensor that a test selects has not ended. -/
def State.tensorBusy (s : State) (t : Tensor) (p : Job → Bool) : Bool :=
  s.copies.any fun (c : Copy) => c.tensor == t.uid && p c.job && c.inFlight

/-- TDECL.drop (R363). -/
def execTdeclDrop (d a : SReg) (_nb : Bool) (s : State) : Host.Outcome State Fault Refusal :=
  (runOp · s) do
    noRegion
    let t ← resolveTensor a
    let s ← get
    if t.sealed || s.converting t then status d 9
    if s.tensorBusy t fun j => j == .tload || j == .tstore then stall
    modify fun s => { s.freeHandle kTENSOR t.uid with tensors := s.tensors.filter fun (x : Tensor) => x.uid != t.uid }
    result d 0

/-- Word `i` of a descriptor as it stands (R361, R372). -/
def State.tensorWord (s : State) (t : Tensor) (i : Nat) : Word :=
  if i = 2 then .ofNat 64 ((if s.converting t then 2 ^ 33 else 0) + (if t.sealed then 2 ^ 32 else 0) + t.gen) else t.words.getD i 0

/-- TINFO (R372). -/
def execTinfo (d a b : SReg) (s : State) : Host.Outcome State Fault Refusal :=
  (runOp · s) do
    noRegion
    let t ← resolveTensor a
    let x ← rd b
    result d ((← get).tensorWord t (bitsOf x.toNat 0 3))

/-! ## Issue of TLOAD, TSTORE and TCONV -/

/-- The tile's origin. -/
def tileOrg (ws : List Word) : List Nat := [wordField ws 1 0 32, wordField ws 1 32 32, wordField ws 2 0 32, wordField ws 2 32 32]

/-- The tile's extents. -/
def tileExt (ws : List Word) : List Nat := (List.range 4).map fun i => wordField ws 3 (16 * i) 16 + 1

/-- Whether a box fits a local shape (R366). -/
def boxFits (ws : List Word) (rank : Nat) (shape : List Nat) : Bool :=
  (List.range 4).all fun i =>
    let o := (tileOrg ws).getD i 0
    let e := (tileExt ws).getD i 1
    if rank ≤ i then o == 0 && e == 1 else o + e ≤ shape.getD i 1

/-- A P demand whose operation differs from a current P operation (R366). -/
def demandClash (m : Mesh) (cur dem : Nat) : Bool :=
  (List.range m.rank).any fun i =>
    stKind (stateByte cur i) == 2 && stKind (stateByte dem i) == 2 && stArg (stateByte cur i) != stArg (stateByte dem i)

/-- A range of the executing team's scratchpad, all in one window of it (R227). -/
def State.ownScratch (s : State) (a n : Nat) : Bool :=
  inScratch a &&
    match s.scratchAt s.cw a with
    | some (t, off) => t.uid == s.cw.team && off + n ≤ t.banks * 131072
    | none => false

/-- The reserved bits of a TLOAD or TSTORE run, and the state bytes of DEMAND that are illegal on every mesh (R366). -/
def tileReserved (ws : List Word) (load : Bool) : Bool :=
  wordField ws 0 32 32 != 0 || wordField ws 4 24 8 != 0 || wordField ws 6 22 42 != 0 ||
    if load then (List.range 3).any fun i =>
      let b := stateByte (wordField ws 4 0 24) i
      !stLegal b || stBadOp b
    else wordField ws 4 0 24 != 0

/-- The checks of R366, in order: traps, then BADARG, then the placement lock of a TSTORE. A state byte of an axis that the mesh has not is
illegal too, once the tensor names its mesh. -/
def checkTile (d : SReg) (t : Tensor) (m : Mesh) (ws : List Word) (load : Bool) : Op Unit := do
  let cur := wordField t.words 1 0 24
  let dem := if load then wordField ws 4 0 24 else cur
  let db := (List.range 3).map (stateByte dem)
  if load && (db.drop m.rank).any (· != 0) then trap ILLEGAL_OP
  let tile := ws.getD 5 0
  if tile.toNat % 16 ≠ 0 then trap MISALIGN tile
  let total := tileBytes ws (tensorEb t.words)
  let s ← get
  if !s.ownScratch tile.toNat total then trap PROTECTION tile
  if bitAt (ws.getD 6 0).toNat 20 then
    match (bitmapWords (wordField ws 6 0 20) total).find? fun o => !s.bitmapOk s.cw o with
    | some o => trap PROTECTION (.ofNat 64 (bitmapAddr o))
    | none => pure ()
  let dims := tensorDims t.words
  if !boxFits ws (tensorRank t.words) (localDims m dem dims) || (load && badStates m dem (tensorRank t.words) dims) ||
      demandClash m cur dem then status d 9
  if !load && (wordField ws 4 32 32 ≠ t.gen || t.sealed) then trap PLACEMENT_LOCKED

/-- TLOAD and TSTORE (R366). -/
def tileOp (d a : SReg) (nb h load : Bool) : Op Unit := do
  runFits a 7
  let ws ← readRun a 7
  if tileReserved ws load then trap ILLEGAL_OP
  noRegion
  if !load then releaseWait 3
  let t ← resolveTensor a
  match (← get).meshOf t.ctx t.words with
  | none => status d 7
  | some m => do
    checkTile d t m ws load
    issueCopy d nb h (if load then .tload else .tstore) ws t.uid

/-- TLOAD (R366). -/
def execTload (d a : SReg) (nb h : Bool) (s : State) : Host.Outcome State Fault Refusal := runOp (tileOp d a nb h true) s

/-- TSTORE (R366). -/
def execTstore (d a : SReg) (nb h : Bool) (s : State) : Host.Outcome State Fault Refusal := runOp (tileOp d a nb h false) s

/-- The local address of an element (R362). -/
def elemAddr (ws : List Word) (x : List Nat) : Nat :=
  (ws.getD 5 0).toNat + x.getD 0 0 * tensorEb ws +
    16 * (x.getD 1 0 * wordField ws 6 0 32 + x.getD 2 0 * wordField ws 6 32 32 + x.getD 3 0 * wordField ws 7 0 32)

/-- The shard range of a descriptor (R362). -/
def shardRange (m : Mesh) (ws : List Word) : Nat × Nat :=
  let last := (localDims m (wordField ws 1 0 24) (tensorDims ws)).map (· - 1)
  ((ws.getD 5 0).toNat, elemAddr ws last + tensorEb ws)

/-- The reserved bits of a TCONV run (R371). -/
def convReserved (ws : List Word) : Bool :=
  wordField ws 0 32 32 != 0 || wordField ws 1 24 40 != 0 || wordField ws 4 32 32 != 0 ||
    (List.range 3).any fun i => !stLegal (stateByte (wordField ws 1 0 24) i)

/-- TCONV (R371). -/
def execTconv (d a : SReg) (nb h : Bool) (s : State) : Host.Outcome State Fault Refusal :=
  (runOp · s) do
    runFits a 5
    let ws ← readRun a 5
    if convReserved ws then trap ILLEGAL_OP
    noRegion
    let t ← resolveTensor a
    let s ← get
    match s.meshOf t.ctx t.words with
    | none => status d 7
    | some m => do
      let new := convWords t.words ws
      let old := shardRange m t.words
      let r := shardRange m new
      if !t.sealed || s.converting t || badStates m (wordField new 1 0 24) (tensorRank new) (tensorDims new) ||
          wordField new 5 0 4 ≠ 0 || (r.1 < old.2 && old.1 < r.2) then status d 9
      issueCopy d nb h .tconv ws t.uid fun s => s.updTensor t.uid fun t => { t with locked := [old, r], issued := some t.gen }

/-! ## TSEAL (R370) -/

/-- The generation that TSEAL names must be the current one. -/
def staleGen (d : SReg) (t : Tensor) (g : Word) : Op Unit := do
  if g.toNat ≠ t.gen then status d 15

/-- TSEAL (R370). -/
def execTseal (d a b : SReg) (s : State) : Host.Outcome State Fault Refusal :=
  (runOp · s) do
    noRegion
    let t ← resolveTensor a
    staleGen d t (← rd b)
    if t.sealed then status d 0
    let s ← get
    if s.tensorBusy t (· == .tstore) then stall
    releaseWait 3
    let r := (s.meshOf t.ctx t.words).map fun m => shardRange m t.words
    modify (·.updTensor t.uid fun t => { t with sealed := true, locked := r.toList })
    result d 0

/-- TSEAL.open (R370): a TCONV that the device has issued for the generation bars it, whatever became of it. -/
def execTsealOpen (d a b : SReg) (s : State) : Host.Outcome State Fault Refusal :=
  (runOp · s) do
    noRegion
    let t ← resolveTensor a
    staleGen d t (← rd b)
    if t.issued = some t.gen then status d 9
    modify (·.updTensor t.uid fun t => { t with sealed := false, locked := [] })
    result d 0

/-! ## The pieces of a TLOAD (R367, R368) -/

/-- The words of a tensor at a generation: the current ones, or those that a conversion keeps until it retires (R371). -/
def State.wordsAt (s : State) (t : Tensor) (gen : Nat) : Option (List Word) :=
  if t.gen = gen then some t.words
  else
    match s.copies.find? fun (c : Copy) => c.job == .tconv && c.tensor == t.uid && c.phase == 2 && c.inFlight with
    | some c => if t.gen = (gen + 1) % 2 ^ 32 then some (c.words.drop 5) else none
    | none => none

/-- A wave that stands for the accesses of a context's device to its own shard. -/
def memberWave (c : Ctx) : Wave := { Wave.blank 0 with dev := c.dev, core := 512, ctx := c.uid }

/-- Whether a peer no longer answers for a context: the context or its function ends (R368, R426). -/
def State.peerGone (s : State) (c : Ctx) : Bool :=
  c.st == .terminating || c.st == .dead || ((s.func? c.dev c.func).map fun f => f.draining || f.tornDown).getD true

/-- The page that a missing descriptor is recorded with: no page. -/
def noPage : Nat := 2 ^ 64

/-- An element of the local shard of the device at coordinates, of the read generation (R367, R368). Until the peer's own descriptor is
found the address is told by the descriptor of the executing device. -/
def engShard (c : Copy) (m : Mesh) (own : List Word) (gen : Nat) (cs x : List Nat) : Eng Nat := do
  let s ← get
  let dev := m.deviceAt cs
  let here := dev == c.dev
  let told := elemAddr own x
  if !s.reachable c.dev dev then throw (.rim dev told [])
  match s.member m.name dev with
  | none => throw (.peer 0 noPage none told)
  | some p =>
    let w := memberWave p
    if !here && s.peerGone p then throw (.bad { cause := FABRIC_POISON, addr := .ofNat 64 told })
    match (s.tensorOf p.uid (wordField own 0 0 32)).map fun t => s.wordsAt t gen with
    | none => throw (.peer p.uid noPage none told)
    | some none => throw .blocked
    | some (some ws) =>
      if [0, 1, 3, 4].any fun i => ws.getD i 0 != own.getD i 0 then throw .failed
      let a := elemAddr ws x
      let eb := tensorEb ws
      match s.locate w .load a eb with
      | (.ok l, s') =>
        set s'
        pure (ofLeBytes (← if here then engRead c w a l eb else fabricPoison (engRead c w a l eb)))
      | (.blocked, _) => throw .blocked
      | (.bad t, _) =>
        if here then throw (.bad t)
        else if t.missing then throw (.peer p.uid a (some (2 * bitsOf t.info.toNat 43 1)) a)
        else throw (.bad { cause := FABRIC_POISON, addr := .ofNat 64 a })

/-- What the pieces of one element are computed from: the mesh, current and demanded states, the extents under the current ones,
the global index, the executing device's coordinates, and the descriptor's words and generation. -/
structure PieceEnv where
  m : Mesh
  cur : Nat
  dem : Nat
  lc : List Nat
  g : List Nat
  me : List Nat
  ws : List Word
  gen : Nat
  deriving DecidableEq, Repr, Inhabited

/-- What an axis does for an element (R367): take one coordinate, reduce the axis group, or give +0. -/
inductive AxisAct where
  | take (c : Nat)
  | reduce (op : Nat)
  | zero
  deriving DecidableEq, Repr, Inhabited

/-- The table of R367. -/
def PieceEnv.act (p : PieceEnv) (i : Nat) : AxisAct :=
  let cur := stateByte p.cur i
  let dem := stateByte p.dem i
  let c := p.me.getD i 0
  if cur == dem then .take c
  else if stKind cur == 2 then .reduce (stArg cur)
  else if stKind dem == 2 && stArg dem == 0 && c != 0 then .zero
  else if stKind cur == 1 then .take (p.g.getD (stArg cur) 0 / p.lc.getD (stArg cur) 1)
  else .take c

/-- The format in which a floating-point tensor is reduced (R59, R368). -/
def wideFmt (f : Fmt) : Fmt := if f.bits = 64 then fp64 else fp32

/-- One combine of a reduction: on integers of the tensor's width, or in the wide format (R59). -/
def combineWide (ety op x y : Nat) : Nat :=
  match subTy ety with
  | some (.flt f) =>
    let w := wideFmt f
    match op with
    | 0 => (fadd w Env.rn (unpack w x) (unpack w y)).code
    | 1 => (minMax true w false x y).code
    | _ => (minMax false w false x y).code
  | some (.int t) => (atomNew (match op with | 0 => 0 | 1 => 5 | _ => 4) t.bits (!t.sgn) x y 0).getD 0
  | none => x

/-- A code of the tensor's type in the wide format, and back with one rounding by RN (R368). -/
def toWide (ety x : Nat) : Nat :=
  match subTy ety with
  | some (.flt f) => (cvt (.flt f) (.flt (wideFmt f)) Env.rn x).code
  | _ => x
def ofWide (ety x : Nat) : Nat :=
  match subTy ety with
  | some (.flt f) => (cvt (.flt (wideFmt f)) (.flt f) Env.rn x).code
  | _ => x

/-- The value of an element from axis `n - 1` down: the trees of axis 0 run first (R368). `cs` are the coordinates chosen. -/
def engPiece (c : Copy) (p : PieceEnv) (red : Bool) : Nat → List Nat → Eng Nat
  | 0, cs => do
    let x := p.g.zipIdx.map fun y => (List.range p.m.rank).foldl (fun n i =>
      let b := stateByte p.cur i
      if stKind b == 1 && stArg b == y.2 then n - cs.getD i 0 * p.lc.getD y.2 1 else n) y.1
    let v ← if red then fabricPoison (engShard c p.m p.ws p.gen cs x) else engShard c p.m p.ws p.gen cs x
    pure (if red then toWide (wordField p.ws 0 36 4) v else v)
  | i + 1, cs =>
    match p.act i with
    | .zero => pure 0
    | .take k => engPiece c p red i (cs.set i k)
    | .reduce op => do
      let vs ← (List.range (p.m.sizes.getD i 1)).mapM fun k => engPiece c p red i (cs.set i k)
      pure ((tree (combineWide (wordField p.ws 0 36 4) op) (vs.map some) 9).getD 0)

/-- One element under demanded states, at a demanded local index (R367, R368). -/
def engElement (c : Copy) (m : Mesh) (ws : List Word) (gen dem : Nat) (x : List Nat) : Eng Nat := do
  let dims := tensorDims ws
  let cur := wordField ws 1 0 24
  let me := m.coordsOf c.dev
  let ld := localDims m dem dims
  let g := x.zipIdx.map fun y => (List.range m.rank).foldl (fun n i =>
    let b := stateByte dem i
    if stKind b == 1 && stArg b == y.2 then n + me.getD i 0 * ld.getD y.2 1 else n) y.1
  let p : PieceEnv := { m, cur, dem, lc := localDims m cur dims, g, me, ws, gen }
  let acts := (List.range m.rank).map p.act
  if acts.any (· == .zero) then pure 0
  else
    let red := acts.any fun a => match a with
      | .reduce _ => true
      | _ => false
    let v ← engPiece c p red m.rank [0, 0, 0]
    pure (if red then ofWide (wordField ws 0 36 4) v else v)

/-- The tensor, the mesh and the words of a transfer; a transfer without them fails. -/
def engTensor (c : Copy) (gen : Option Nat) : Eng (Tensor × Mesh × List Word) := do
  let s ← get
  match s.tensor? c.tensor with
  | none => throw .failed
  | some t =>
    match s.meshOf t.ctx t.words, s.wordsAt t (gen.getD t.gen) with
    | some m, some ws => pure (t, m, ws)
    | _, _ => throw .failed

/-- A peer that delayed a piece and no longer answers, or refused its page, poisons it (R368). -/
def engPeerCheck (c : Copy) : Eng Unit := do
  let s ← get
  match c.peerWait with
  | none => pure ()
  | some (x, _, refused) =>
    let gone := ((s.ctx? x).map s.peerGone).getD (x != 0)
    if refused || gone then throw (.bad { cause := FABRIC_POISON, addr := .ofNat 64 c.rimAddr })

/-- The elements of a tile that begin in a chunk: offset in the tile, and index in the box (R366). -/
def tileElems (ws : List Word) (eb k : Nat) : List (Nat × List Nat) :=
  let rb := tileRow ws eb
  let e := tileExt ws
  let e1 := e.getD 1 1
  let e2 := e.getD 2 1
  (chunkRange (tileBytes ws eb) k).filterMap fun n =>
    let row := n / rb
    let off := n % rb
    if off < e.getD 0 1 * eb && off % eb == 0 then
      some (n, List.zipWith (· + ·) (tileOrg ws) [off / eb, row % e1, row / e1 % e2, row / (e1 * e2)])
    else none

/-- One chunk of a TLOAD, or one word of it (R246, R367). -/
def tloadChunk (c : Copy) (k : Nat) (only : Option Nat) : Eng Nat := do
  engPeerCheck c
  let gen := c.readGen.getD 0
  let (_, m, ws) ← engTensor c (some gen)
  let w := (← get).engineWave c
  let eb := tensorEb ws
  let tile := (c.words.getD 5 0).toNat
  let es := (tileElems c.words eb k).filter fun e => c.now k only (tile + e.1)
  let vals ← es.mapM fun e => engElement c m ws gen (wordField c.words 4 0 24) e.2
  let locs ← es.mapM fun e => engLocate c w .store (tile + e.1) eb
  engWriteAll c k w ((locs.zip vals).map fun x => (x.1, leBytes x.2 eb))
  pure (eb * es.length)

/-- One chunk of a TSTORE, or one word of it (R246, R366). -/
def tstoreChunk (c : Copy) (k : Nat) (only : Option Nat) : Eng Nat := do
  let (_, _, ws) ← engTensor c none
  let w := (← get).engineWave c
  let eb := tensorEb ws
  let es := (tileElems c.words eb k).filter fun e => c.now k only (elemAddr ws e.2)
  let vals ← es.mapM fun e => do
    let a := (c.words.getD 5 0).toNat + e.1
    let l ← engLocate c w .load a eb
    engRead c w a l eb
  let locs ← es.mapM fun e => engLocate c w .store (elemAddr ws e.2) eb
  engWriteAll c k w (locs.zip vals)
  pure (eb * es.length)

/-- The element of dense index `n` of a shape. -/
def denseIndex (shape : List Nat) (n : Nat) : List Nat :=
  let a := shape.getD 0 1
  let b := shape.getD 1 1
  let c := shape.getD 2 1
  [n % a, n / a % b, n / (a * b) % c, n / (a * b * c)]

/-- A store into the new shard, which the lock of its own tensor does not stop (R371); another tensor's does (R348). -/
def engNewShard (c : Copy) (w : Wave) (a n : Nat) : Eng Loc := do
  let s ← get
  set { s with tensors := s.tensors.filter fun (t : Tensor) => t.uid != c.tensor }
  let l ← engLocate c w .store a n
  modify fun s' => { s' with tensors := s.tensors }
  pure l

/-- One chunk of the new shard of a TCONV, or one word of it (R246, R371). -/
def tconvChunk (c : Copy) (k : Nat) (only : Option Nat) : Eng Nat := do
  engPeerCheck c
  let (t, m, ws) ← engTensor c none
  let w := (← get).engineWave c
  let new := convWords t.words c.words
  let eb := tensorEb ws
  let dem := wordField new 1 0 24
  let shape := localDims m dem (tensorDims ws)
  let ns := (chunkRange (eb * shape.foldl (· * ·) 1) k).filter (· % eb == 0)
  let xs := (ns.map fun n => denseIndex shape (n / eb)).filter fun x => c.now k only (elemAddr new x)
  let vals ← xs.mapM fun x => engElement c m ws t.gen dem x
  let locs ← xs.mapM fun x => engNewShard c w (elemAddr new x) eb
  engWriteAll c k w ((locs.zip vals).map fun x => (x.1, leBytes x.2 eb))
  pure (eb * xs.length)

/-! ## The engine's events (R261 to R269) -/

/-- What is left of a chunk of a transfer, or one word of it: the destination bytes written. -/
def engChunk (c : Copy) (k : Nat) (only : Option Nat) : Eng Nat :=
  match c.job with
  | .copy => copyChunk c (copyDesc c.words none) k only
  | .gather l => copyChunk c (copyDesc c.words (some l)) k only
  | .tload => tloadChunk c k only
  | .tstore => tstoreChunk c k only
  | .tconv => tconvChunk c k only

/-- A bit of a bitmap word set or cleared atomically (R269). -/
def State.bitmapBit (s : State) (team off c : Nat) (on : Bool) : State :=
  match s.team? team with
  | none => s
  | some t =>
    let a := off + 8 * (c / 64)
    let x := Memory.readLE t.scratch a 8
    let b := 2 ^ (c % 64)
    let x := if bitAt x (c % 64) == on then x else if on then x + b else x - b
    s.writeScratch team a 0 none (leBytes x 8)

/-- The hoop whose engine a copy takes: that of the core on which its wave stands (R262). -/
def State.hoopOf (s : State) (c : Copy) : Nat := ((s.wave? c.wave).map fun w => w.core / 8).getD c.hoop

/-- Copies that an engine runs: a TCONV is the rim interface's (R371). -/
def Copy.onEngine (c : Copy) : Bool := c.st == CopyState.started && c.job != .tconv

/-- Whether a stopped copy waits for an engine of a hoop (R262): its wave stands on a core there. -/
def State.restarts (s : State) (x : Copy) (dev h : Nat) : Bool :=
  x.dev == dev && x.st == CopyState.stopped && x.restart &&
    ((s.wave? x.wave).map fun w => w.st.onCore && w.core / 8 == h).getD false

/-- Whether an engine may take a copy now (R261, R262): its wave stands on a core, an engine of the hoop is free, no copy of the
hoop restarts before it, and no earlier copy of its wave is queued. A TLOAD has reached its read point (R367). -/
def State.mayStart (s : State) (c : Copy) : Bool :=
  match s.wave? c.wave with
  | none => false
  | some w =>
    let h := w.core / 8
    let restarting := c.st == CopyState.stopped && c.restart
    w.st.onCore && s.ctxRuns w.ctx && c.job != .tconv &&
    (s.copies.filter fun (x : Copy) => x.dev == c.dev && x.hoop == h && x.onEngine).length < 2 &&
    (restarting || (c.st == CopyState.queued && (c.job != .tload || c.readGen.isSome) &&
      s.copies.all fun (x : Copy) =>
        !(x.wave == c.wave && x.st == CopyState.queued && x.job != .tconv && x.order < c.order) &&
        !s.restarts x c.dev h))

/-- COPY_START (R261, R262, R269): an engine takes the copy; one with BMCLR clears its own bits first. -/
def execCopyStart (s : State) : Host.Outcome State Fault Refusal :=
  match s.turn with
  | .event (.copyStart u) =>
    match s.copy? u with
    | none => .next s
    | some c =>
      if !s.mayStart c then .next s
      else
        let h := s.hoopOf c
        let busy := (s.copies.filter fun (x : Copy) => x.dev == c.dev && x.hoop == h && x.onEngine).map (·.engine)
        let s := s.updCopy u fun c =>
          { c with st := CopyState.started, hoop := h, engine := if busy.contains 1 then 2 else 1, cleared := true, restart := false }
        let b := c.bitmap
        let bits := if b.clr && !c.cleared then List.range (chunksOf (s.copyTotal c)) else []
        .next (bits.foldl (fun (s : State) k => s.bitmapBit c.team (8 * b.off) k false) s)
  | _ => .next s

/-- Whether a chunk of a started copy is still to be written; a TCONV writes none before its check. -/
def State.chunkDue (s : State) (c : Copy) (k : Nat) : Bool :=
  c.st == CopyState.started && k < chunksOf (s.copyTotal c) && !c.chunks.contains k && (c.job != .tconv || c.phase == 1)

/-- The aligned words of the destination that a chunk of a copy writes (R246); those of a tensor's tile in memory are told by the
tensor's descriptor. -/
def State.chunkWords (s : State) (c : Copy) (k : Nat) : List Nat :=
  let ns := chunkRange (s.copyTotal c) k
  let ws := ((s.tensor? c.tensor).map (·.words)).getD []
  let eb := tensorEb ws
  let addrs : List Nat := match c.job with
    | .copy => ns.map (copyDesc c.words none).dstAt
    | .gather l => ns.map (copyDesc c.words (some l)).dstAt
    | .tload => ns.map ((c.words.getD 5 0).toNat + ·)
    | .tstore => (tileElems c.words eb k).map fun (e : Nat × List Nat) => elemAddr ws e.2
    | .tconv =>
      let new := convWords ws c.words
      match s.meshOf c.ctx ws with
      | none => []
      | some m => ns.map fun n => elemAddr new (denseIndex (localDims m (wordField new 1 0 24) (tensorDims ws)) (n / eb))
  (addrs.map (· / 8)).eraseDups

/-- A copy is over; its context's termination may go on (R115). -/
def State.endCopy (s : State) (c : Copy) (st : CopyState) : State :=
  (s.updCopy c.uid fun c => { c with st, engine := 0, peerWait := none }).reclaimIfReady c.ctx

/-- Bytes that copy engines have written count (R109); those of a TCONV are the rim interface's (R371). -/
def State.countXbytes (s : State) (c : Copy) (bytes : Nat) : State :=
  if c.job == .tconv then s
  else s.updCtx c.ctx fun x => { x with counters := { x.counters with xbytes := x.counters.xbytes + .ofNat 64 bytes } }

/-- A word of a chunk is written ahead of the others (R246). -/
def State.wordDone (s : State) (c : Copy) (k word bytes : Nat) : State :=
  if bytes = 0 then s
  else (s.updCopy c.uid fun c => { c with written := (k, word) :: c.written, peerWait := none }).countXbytes c bytes

/-- A chunk's bytes are written: the bytes count (R109), its bit is set, and the copy with its last chunk is done; a TCONV goes
on to its commit. -/
def State.chunkDone (s : State) (c : Copy) (k bytes : Nat) : State :=
  let s := s.updCopy c.uid fun c =>
    { c with chunks := k :: c.chunks, written := c.written.filter (·.1 != k), peerWait := none }
  let s := s.countXbytes c bytes
  let s := if c.bitmap.en then s.bitmapBit c.team (8 * c.bitmap.off) k true else s
  if c.job != .tconv && c.chunks.length + 1 == chunksOf (s.copyTotal c) then s.endCopy c CopyState.done else s

/-- A piece waits for a peer; a page request goes to the peer's control port (R353, R368). A transfer of a context that terminates does not
wait: it ends failed at once (R115). -/
def State.waitPeer (s : State) (c : Copy) (ctx page : Nat) (post : Option Nat) (addr : Nat) : State :=
  if ((s.ctx? c.ctx).map fun x => x.st == .terminating).getD true then s.endCopy c CopyState.failed
  else if c.peerWait == some (ctx, page, false) then s
  else
    let s := s.updCopy c.uid fun c => { c with peerWait := some (ctx, page, false), rimAddr := addr }
    match post, s.ctx? ctx with
    | some x, some p => s.post p.dev p.func [0x28, .ofNat 64 p.num, .ofNat 64 page, .ofNat 64 x, 0, 0, 0, 0]
    | _, _ => s

/-- What a copy engine does at a chunk, or at one word of it. What stops the copy is COPY_STOP's. -/
def State.engineTurn (s : State) (u k : Nat) (only : Option Nat) : State :=
  match s.copy? u with
  | none => s
  | some c =>
    if !s.chunkDue c k then s
    else
      match (engChunk c k only).run s with
      | .ok n s' =>
        match only with
        | some x => s'.wordDone c k x n
        | none => s'.chunkDone c k n
      | .error (.peer ctx page post a) _ => s.waitPeer c ctx page post a
      | .error (.rim d a lines) _ => (s.updCopy u fun c => { c with rimAddr := a }).rimIssue c.dev d c.core lines 0 u 0
      | .error .failed _ => s.endCopy c CopyState.failed
      | .error _ _ => s

/-- CHUNK_COMPLETE (R269): the rest of a chunk is written; before that, any aligned word of it alone (R246). -/
def execChunkComplete (s : State) : Host.Outcome State Fault Refusal :=
  match s.turn with
  | .event (.chunkComplete u k) => .next (s.engineTurn u k none)
  | .event (.chunkWord u k x) => .next (s.engineTurn u k (some x))
  | _ => .next s

/-- A copy stops at a chunk (R267): its engine is free and its wave has a trap; without its wave it has failed (R273). -/
def State.stopCopy (s : State) (c : Copy) (k : Nat) (t : Trap) : State :=
  if s.ended c.wave then s.endCopy c CopyState.failed
  else
    let info := (t.info &&& .ofNat 64 (2 ^ 64 - 2 ^ 32)) ||| .ofNat 64 (2 ^ 63 + c.batch % 2 ^ 32)
    let t : Trap := { cause := t.cause, addr := t.addr, info, xfer := true, copy := c.uid }
    let s := s.updCopy c.uid fun c =>
      { c with st := CopyState.stopped, stopChunk := k, engine := 0, peerWait := none, trap := some t }
    s.updWave c.wave fun w =>
      { w with pending := w.pending ++ [{ t with seq := w.seq, pend := w.level == .handler }], seq := w.seq + 1 }

/-- A copy whose request on the rim completed poisoned stops at its first chunk that is not written (R267, R412). -/
def State.poisonCopy (s : State) (c : Copy) : State :=
  let k := ((List.range (chunksOf (s.copyTotal c))).find? fun k => !c.chunks.contains k).getD 0
  if c.st == CopyState.started then s.stopCopy c k { cause := FABRIC_POISON, addr := .ofNat 64 c.rimAddr } else s

/-- COPY_STOP (R267). -/
def execCopyStop (s : State) : Host.Outcome State Fault Refusal :=
  match s.turn with
  | .event (.copyStop u k) =>
    match s.copy? u with
    | none => .next s
    | some c =>
      if !s.chunkDue c k then .next s
      else
        match (engChunk c k none).run s with
        | .error (.bad t) _ => .next (s.stopCopy c k t)
        | _ => .next s
  | _ => .next s

/-! ## Read points and conversions -/

/-- TLOAD_READ_POINT (R367): the device's generation has reached the least one. -/
def execTloadReadPoint (s : State) : Host.Outcome State Fault Refusal :=
  match s.turn with
  | .event (.tloadReadPoint u) =>
    .next (match s.copy? u with
      | some c =>
        match s.tensor? c.tensor with
        | some t =>
          if c.job == .tload && c.st == CopyState.queued && c.readGen.isNone && wordField c.words 4 32 32 ≤ t.gen then
            s.updCopy u fun c => { c with readGen := some t.gen }
          else s
        | none => s
      | none => s)
  | _ => .next s

/-- The member tensors of a tensor's mesh, one for each device of its table. -/
def State.meshTensors (s : State) (t : Tensor) : List (Option Tensor) :=
  match s.meshOf t.ctx t.words with
  | none => []
  | some m => m.table.map fun d => (s.member m.name d).bind fun c => s.tensorOf c.uid (wordField t.words 0 0 32)

/-- The conversion of a tensor that has not ended. -/
def State.convOf (s : State) (t : Tensor) : Option Copy :=
  s.copies.find? fun (c : Copy) => c.job == .tconv && c.tensor == t.uid && c.inFlight

/-- A tensor's place in a conversion: the tensor and its conversion's copy, in a phase that a test accepts. -/
def State.convIn (s : State) (x : Option Tensor) (p : Tensor → Copy → Bool) : Option (Tensor × Copy) :=
  x.bind fun t => (s.convOf t).bind fun c => if p t c then some (t, c) else none

/-- Whether the wave of a queued copy stands on a core of a running context. -/
def State.waveThere (s : State) (c : Copy) : Bool := ((s.wave? c.wave).map fun w => w.st.onCore && s.ctxRuns w.ctx).getD false

/-- TCONV_CHECK (R371): once every device has sealed the generation and issued TCONV, the new states are compared; a difference,
in them or in the descriptors (R368), ends every device's copy failed. -/
def execTconvCheck (s : State) : Host.Outcome State Fault Refusal :=
  match s.turn with
  | .event (.tconvCheck u) =>
    .next (match (s.copy? u).bind fun c => (s.tensor? c.tensor).map fun t => (c, t) with
      | none => s
      | some (c, t) =>
        let all := s.meshTensors t
        let ready := all.filterMap fun x => s.convIn x fun t' c' =>
          t'.sealed && t'.gen == t.gen && c'.phase == 0 && c'.st == CopyState.queued && s.waveThere c'
        if c.job != .tconv || all.isEmpty || ready.length != all.length then s
        else
          let agree := ready.all fun x =>
            wordField x.2.words 1 0 24 == wordField c.words 1 0 24 && [0, 1, 3, 4].all fun i => x.1.words.getD i 0 == t.words.getD i 0
          ready.foldl (fun (s : State) x =>
            if agree then s.updCopy x.2.uid fun c =>
              { c with phase := 1, st := CopyState.started, readGen := some t.gen }
            else (s.updTensor x.1.uid fun t => { t with sealed := false, locked := [] }).endCopy x.2 CopyState.failed) s)
  | _ => .next s

/-- Whether a device's new shard is written, or it has committed already (R371). -/
def State.convBuilt (s : State) (c : Copy) : Bool := c.phase == 2 || (c.phase == 1 && c.chunks.length == chunksOf (s.copyTotal c))

/-- TCONV_COMMIT (R371): base, strides, states and generation of the device change at one instant; the old words are kept for the
transfers of the old generation. -/
def execTconvCommit (s : State) : Host.Outcome State Fault Refusal :=
  match s.turn with
  | .event (.tconvCommit u) =>
    .next (match (s.copy? u).bind fun c => (s.tensor? c.tensor).map fun t => (c, t) with
      | none => s
      | some (c, t) =>
        let all := s.meshTensors t
        let built := all.filterMap fun x => s.convIn x fun _ c' => s.convBuilt c'
        if c.job != .tconv || c.phase != 1 || c.st != CopyState.started || all.isEmpty || built.length != all.length then s
        else
          let s := s.updTensor t.uid fun t => { t with words := convWords t.words c.words, gen := (t.gen + 1) % 2 ^ 32 }
          s.updCopy u fun c => { c with phase := 2, words := c.words ++ t.words })
  | _ => .next s

/-- TCONV_RETIRE (R371): every device has committed and no TLOAD of the old generation is in flight; the lock ends and the copy
is done. -/
def execTconvRetire (s : State) : Host.Outcome State Fault Refusal :=
  match s.turn with
  | .event (.tconvRetire u) =>
    .next (match (s.copy? u).bind fun c => (s.tensor? c.tensor).map fun t => (c, t) with
      | none => s
      | some (c, t) =>
        let all := s.meshTensors t
        let old := c.readGen.getD 0
        let late := s.copies.any fun (x : Copy) =>
          x.job == .tload && x.inFlight && x.readGen == some old && all.any fun y => (y.map (·.uid)) == some x.tensor
        let committed := all.all fun y => (y.map fun t' => t'.gen != old).getD true
        if c.job != .tconv || c.phase != 2 || !c.inFlight || late || !committed then s
        else (s.updTensor t.uid fun t => { t with sealed := false, locked := [] }).endCopy c CopyState.done)
  | _ => .next s

end Sys2Proof.Machine
end

