-- ==== Sys2Proof/Machine/Census.lean ====
section
/-!
DEFINITION. The tile directory (R373 to R377) and the census (R378 to R385).
-/

namespace Sys2Proof.Machine

/-! ## The tile directory -/

/-- Directory entries of a core, inactive copies of moves among them (R373). -/
def State.dirUsed (s : State) (dev core : Nat) : Nat :=
  (s.tiles.filter fun (t : TileEnt) => t.dev == dev && (t.core == core || (t.dest.map (·.1)) == some core)).length

/-- TREG (R373). -/
def execTreg (d a : SReg) (nb : Bool) (s : State) : Host.Outcome State Fault Refusal :=
  (runOp · s) do
    runFits a 3
    let key ← rd a
    let addr ← rd (SReg.plus a 1)
    let size := (← rd (SReg.plus a 2)).toNat
    if 2 ^ 32 ≤ size then trap ILLEGAL_OP
    noRegion
    if 2 ^ 56 ≤ addr.toNat then trap PROTECTION addr
    if size = 0 then status d 9
    let s ← get
    if 256 ≤ s.dirUsed s.cw.dev s.cw.core then status d 12
    needEntry d nb
    let u ← fresh
    modify fun s =>
      let w := s.cw
      let t : TileEnt :=
        { uid := u, dev := w.dev, core := w.core, ctx := w.ctx, key, addr, size, kernel := w.kernel, st := TileState.active,
          list := [], dest := none }
      { s with tiles := s.tiles ++ [t] }
    let h ← newHandle kTILE u
    result d (zext64 h)

/-- An entry operand. -/
def resolveTile (a : SReg) : Op TileEnt := do
  let _ ← rd a
  let (_, u) ← resolve a [kTILE]
  let s ← get
  match s.tile? u with
  | some t => pure t
  | none => trap HANDLE_INVALID 0 (zext64 ((s.rs a).setWidth 32))

/-- TDROP (R374, R375): one that waits ends with 0 once the entry's last responder has freed it. -/
def execTdrop (d a : SReg) (s : State) : Host.Outcome State Fault Refusal :=
  (runOp · s) do
    noRegion
    let s ← get
    match s.cw.wait with
    | some r => if r.kind = .drop && (s.tile? r.obj).isNone then status d 0 else pure ()
    | none => pure ()
    let t ← resolveTile a
    if t.st = TileState.moving then throw (.wait .drop t.uid d false)
    modify (·.updTile t.uid fun t => { t with st := TileState.dropping })
    if s.entryBusy t.uid then throw (.wait .drop t.uid d false)
    modify (·.freeEntry t.uid)
    result d 0

/-- Whether a census broadcast to a device is in progress (R377). -/
def Census.inProgress (c : Census) (dev : Nat) : Bool :=
  c.st == .collecting && c.targets.contains dev && (List.range 512).any fun k => !c.reached.contains (dev * 512 + k)

/-- The move that the executing wave waits in: its entry, and whether it has committed. -/
def State.moveWait (s : State) : Option (Nat × Bool) :=
  match s.cw.wait with
  | some r => if r.kind = .move || r.kind = .moved then some (r.obj, r.kind = .moved) else none
  | none => none

/-- TMOVE (R376): installed, it waits for its commit, whatever becomes of the entry after it. -/
def execTmove (d a b : SReg) (nb : Bool) (s : State) : Host.Outcome State Fault Refusal :=
  (runOp · s) do
    runFits b 2
    noRegion
    match (← get).moveWait with
    | some (u, committed) => if committed then status d 0 else throw (.wait .move u d false)
    | none => pure ()
    let t ← resolveTile a
    let x := (← rd b).toNat
    let addr ← rd (SReg.plus b 1)
    let c ← myCtx
    let s ← get
    if 512 ≤ x || !maskHas (s.partMask c.dev c.part) x then status d 9
    if x = t.core then status d 0
    if t.st ≠ TileState.active || s.entryBusy t.uid then stall
    if 256 ≤ s.dirUsed t.dev x then
      if nb then status d 12 else stall
    let now := (s.censuses.filter (·.inProgress t.dev)).map (·.uid)
    modify (·.updTile t.uid fun t =>
      { t with st := TileState.moving, dest := some (x, if addr = 0 then t.addr else addr, now, []) })
    throw (.wait .move t.uid d false)

/-! ## Matches and responders -/

/-- The context whose entries a census matches on a device (R379). -/
def State.censusCtx (s : State) (c : Census) (dev : Nat) : Option Nat :=
  match c.mesh with
  | none => some c.ctx
  | some (num, _) =>
    ((s.ctx? c.ctx).bind fun x => x.meshes.find? (·.num == num)).bind fun m => (s.member m.name dev).map (·.uid)

/-- Whether an entry's key matches a census (R378). -/
def Census.keyMatches (c : Census) (t : TileEnt) : Bool := t.key &&& c.mask == c.key &&& c.mask

/-- The team and the cluster of a responder: one core, no tile, no scratchpad (R379). -/
def State.loneTeam (s : State) (dev core ctx kernel vregs : Nat) : Nat × State :=
  let (cu, s) := s.fresh
  let (tu, s) := s.newTeam { Team.blank with dev, core, ctx, kernel, cluster := cu, vregs }
  let c : Cluster :=
    { uid := cu, dev, ctx, launch := none, kernel, rows := 1, cols := 1, lc1 := false, teams := [tu], st := .placed,
      home := core / 8, corner := core, prio := 0, since := s.time dev, arrival := cu, hold := none, fresh := false, bar := .idle }
  (tu, { s with clusters := s.clusters ++ [c] })

/-- Whether a queued responder may start: its context may run, in its slice, and has room for the wave and its handle, and the core, one of
its partition, has a slot and registers (R104, R113, R379, R386, R423). -/
def State.mayRespond (s : State) (m : Match) (t : TileEnt) (c : Ctx) (k : Kernel) : Bool :=
  !m.spawned && !m.ended && (c.st == .runnable || c.st == .active) &&
    !((s.dev? c.dev).map (·.parked)).getD true && s.hasSlice c && maskHas (s.partMask c.dev c.part) m.core &&
    s.handlesUsed c.uid + 2 ≤ c.slice && c.slotsUsed.length < c.slotCount && 0 < s.freeSlotsOn t.dev m.core &&
    k.vregs ≤ s.freeRegsOn t.dev m.core

/-- A queued responder starts beside its tile (R379). -/
def State.startResponder (s : State) (m : Match) (t : TileEnt) (resp : Nat) (k : Kernel) : State :=
  let (tu, s) := s.loneTeam t.dev m.core t.ctx t.kernel k.vregs
  let (h, s) := s.newHandle t.ctx kCENSUS m.census
  let b : Birth :=
    { ctx := t.ctx, team := tu, kernel := t.kernel, entry := k.responders.getD resp 0, index := 0, tpos := 0, teamIndex := 0,
      clusterIndex := 0, gridpos := 0, regs := [(1, m.addr), (2, .ofNat 64 t.size), (3, t.key), (4, zext64 h)], prio := 0,
      ceiling := 0, launch := none, ofLaunch := false, responder := some m.uid, joinable := false, dev := t.dev, core := m.core,
      st := .resident }
  let (_, _, s) := s.birth b
  let s := { s with responders := updBy Match.uid m.uid (fun m => { m with handle := h, spawned := true }) s.responders }
  s.settleCtx t.ctx

/-- A queued responder tried (R379). -/
def State.tryResponder (s : State) (u : Nat) : State :=
  match s.responders.find? fun (m : Match) => m.uid == u with
  | none => s
  | some m =>
    match s.tile? m.tile with
    | none => s
    | some t =>
      match s.ctx? t.ctx, s.census? m.census with
      | some c, some x =>
        match c.kernel? t.kernel with
        | some k => if s.mayRespond m t c k then s.startResponder m t x.resp k else s
        | none => s
      | _, _ => s

/-- An entry matched by a census at a core (R377, R379): a responder is queued; without a responder entry the census aborts. -/
def State.matchEntry (s : State) (c : Census) (t : TileEnt) (core : Nat) : State :=
  let entries := (((s.ctx? t.ctx).bind fun x => x.kernel? t.kernel).map fun k => k.responders.length).getD 0
  if entries ≤ c.resp then s.abortCensus c.uid
  else
    let (u, s) := s.fresh
    let m : Match := { uid := u, handle := 0, census := c.uid, tile := t.uid, dev := t.dev, core, addr := t.addr, spawned := false, ended := false }
    let s := s.updCensus c.uid fun c => { c with matched := c.matched + 1 }
    { s with responders := s.responders ++ [m] }.tryResponder u

/-- The entries that a broadcast matches on a core: active there, the source of a move included (R377). -/
def State.broadcastHits (s : State) (c : Census) (ctx dev core : Nat) : List TileEnt :=
  s.tiles.filter fun (t : TileEnt) => t.dev == dev && t.core == core && t.ctx == ctx && t.st != TileState.dropping &&
    c.keyMatches t && !t.list.contains c.uid

/-- Entries whose inactive copy on a core records a census as passed (R377). -/
def State.broadcastPasses (s : State) (c : Census) (ctx dev core : Nat) : List TileEnt :=
  s.tiles.filter fun (t : TileEnt) => t.dev == dev && (t.dest.map (·.1)) == some core && t.ctx == ctx && c.keyMatches t

/-- The censuses that the list of an entry holds, or may have to hold once its move commits (R377): those passed, and those that were in
progress at the install and may still match at the source. -/
def State.listNeeds (s : State) (t : TileEnt) : List Nat :=
  let coming := match t.dest with
    | some (_, _, before, passed) => passed ++ before.filter fun x =>
        ((s.census? x).map fun c => !c.reached.contains (t.dev * 512 + t.core)).getD false
    | none => []
  ((t.list ++ coming).filter fun x => ((s.census? x).map (·.st == .collecting)).getD false).eraseDups

/-- Whether a census would need a ninth id (R377): in the entry's list, or in the list that its move commits. -/
def State.ninth (s : State) (c : Census) (t : TileEnt) : Bool :=
  let need := s.listNeeds t
  8 ≤ need.length && !need.contains c.uid

/-- Whether a broadcast is held at a core until an id leaves a list there (R377). -/
def State.broadcastHeld (s : State) (c : Census) (ctx dev core : Nat) : Bool :=
  (s.broadcastHits c ctx dev core).any (fun t => 8 ≤ t.list.length || s.ninth c t) || (s.broadcastPasses c ctx dev core).any (s.ninth c)

/-- A broadcast seen by a core: the entries matched and the copies that record it. -/
def State.broadcastAt (s : State) (c : Census) (ctx dev core : Nat) : State :=
  let hits := s.broadcastHits c ctx dev core
  let passes := (s.broadcastPasses c ctx dev core).map (·.uid)
  let s := { s with tiles := s.tiles.map fun (t : TileEnt) =>
    if passes.contains t.uid then { t with dest := t.dest.map fun x => (x.1, x.2.1, x.2.2.1, x.2.2.2 ++ [c.uid]) } else t }
  let s := hits.foldl (fun (s : State) t => s.updTile t.uid fun t => { t with list := t.list ++ [c.uid] }) s
  hits.foldl (fun (s : State) t => s.matchEntry c t core) s

/-- Whether the member context of a census lies in a function that is torn down (R426). -/
def State.memberDrains (s : State) (c : Census) (dev : Nat) : Bool :=
  match ((s.censusCtx c dev).bind s.ctx?).bind fun x => s.func? x.dev x.func with
  | some f => f.draining || f.tornDown
  | none => false

/-- CENSUS_BROADCAST_ARRIVE (R377, R379): held where a list would need a ninth id; a device that does not answer leaves the request
without a response, and one whose member function is torn down aborts the census (R383, R412, R426). -/
def execCensusBroadcastArrive (s : State) : Host.Outcome State Fault Refusal :=
  match s.turn with
  | .event (.censusBroadcastArrive u dev core) =>
    .next (match s.census? u with
      | none => s
      | some c =>
        if c.st != .collecting || !c.targets.contains dev || 512 ≤ core || c.reached.contains (dev * 512 + core) then s
        else if !s.reachable c.dev dev then s.rimIssue c.dev dev 512 [] 0 0 u
        else if s.memberDrains c dev then s.abortCensus u
        else
          let reach := fun (c : Census) => { c with reached := (dev * 512 + core) :: c.reached }
          match s.censusCtx c dev with
          | none => s.updCensus u reach
          | some ctx =>
            if s.broadcastHeld c ctx dev core then s
            else (s.broadcastAt c ctx dev core).updCensus u reach)
  | _ => .next s

/-- A wait for the commit of an entry's move, with the commit made. -/
def WaitRec.committed (u : Nat) (r : WaitRec) : WaitRec := if r.kind = .move && r.obj == u then { r with kind := .moved } else r

/-- The waves whose TMOVE moved an entry learn of its commit, in their wait or once they execute the word again (R376, R386). -/
def State.tellMoved (s : State) (u : Nat) : State :=
  s.mapWaves (fun _ => true) fun w => { w with wait := w.wait.map (.committed u), abandoned := w.abandoned.map (.committed u) }

/-- TMOVE_COMMIT (R377): once the broadcasts in progress at the install have reached the source core, the destination copy takes
the list and matches what it saw pass. -/
def execTmoveCommit (s : State) : Host.Outcome State Fault Refusal :=
  match s.turn with
  | .event (.tmoveCommit u) =>
    .next (match s.tile? u with
      | none => s
      | some t =>
        match t.st, t.dest with
        | .moving, some (core, addr, before, passed) =>
          let waits := before.any fun x => match s.census? x with
            | some c => c.st == .collecting && !c.reached.contains (t.dev * 512 + t.core)
            | none => false
          let new := passed.filterMap fun x => (s.census? x).filter fun c => c.st == .collecting && !t.list.contains x
          if waits || 8 < t.list.length + new.length then s
          else
            let t' := { t with core, addr, st := TileState.active, dest := none, list := t.list ++ new.map Census.uid }
            let s := (s.updTile u fun _ => t').tellMoved u
            new.foldl (fun (s : State) c => s.matchEntry c t' core) s
        | _, _ => s)
  | _ => .next s

/-! ## SOLICIT, REPLY, CWAIT -/

/-- The devices that a census of mesh scope reaches (R379). -/
def meshTargets (m : Mesh) (dev axes : Nat) : List Nat :=
  let me := m.coordsOf dev
  m.table.filter fun d => (List.range 3).all fun i => bitAt axes i || (m.coordsOf d).getD i 0 == me.getD i 0

/-- SOLICIT (R378). -/
def execSolicit (d a : SReg) (nb : Bool) (s : State) : Host.Outcome State Fault Refusal :=
  (runOp · s) do
    runFits a 4
    let key ← rd a
    let mask ← rd (SReg.plus a 1)
    let x := (← rd (SReg.plus a 2)).toNat
    let res ← rd (SReg.plus a 3)
    let ms := bitAt x 16
    let axes := bitsOf x 17 3
    if 2 ^ 24 ≤ x || bitsOf x 12 4 ≠ 0 || (!ms && axes ≠ 0) || 10 < bitsOf x 0 4 then trap ILLEGAL_OP
    noRegion
    if res.toNat % 16 ≠ 0 then trap MISALIGN res
    if 2 ^ 56 ≤ res.toNat then trap PROTECTION res
    let c ← myCtx
    let m := c.meshes.find? (·.num == bitsOf x 20 4)
    if ms then
      match m with
      | none => status d 7
      | some m => if axes = 0 || axes / 2 ^ m.rank ≠ 0 then status d 9 else pure ()
    let s ← get
    if 256 ≤ (s.censuses.filter fun (y : Census) => y.ctx == c.uid && y.st == .collecting).length then
      if nb then status d 1 else stall
    needEntry d nb
    releaseWait (if ms then 3 else 2)
    let u ← fresh
    modify fun s =>
      let new : Census :=
        { uid := u, dev := c.dev, ctx := c.uid, owner := true, key, mask, comb := bitsOf x 0 4, resp := bitsOf x 4 8,
          result := res, mesh := if ms then some (bitsOf x 20 4, axes) else none,
          targets := if ms then ((m.map fun m => meshTargets m c.dev axes).getD []) else [c.dev], reached := [], matched := 0,
          replies := 0, values := [], st := .collecting, abort := false, writeFault := false, part := none }
      { s with censuses := s.censuses ++ [new] }
    let h ← newHandle kCENSUS u
    result d (zext64 h)

/-- A reply as it enters the combine (R381). -/
def replyValue (comb : Nat) (x : Word) : Word :=
  if comb = 9 then (if x = 0 then 0 else 1)
  else if comb = 1 || comb = 4 || comb = 7 then .ofNat 64 (x.toNat % 2 ^ 32) else x

/-- The combine of two values (R381). -/
def censusCombine (comb : Nat) (x y : Word) : Word :=
  let f (r : FRes) : Word := .ofNat 64 r.code
  match comb with
  | 0 | 9 => x + y
  | 1 => f (fadd fp32 Env.rn (unpack fp32 x.toNat) (unpack fp32 y.toNat))
  | 2 => if x.toNat < y.toNat then y else x
  | 3 => if x.toInt < y.toInt then y else x
  | 4 => f (minMax true fp32 false x.toNat y.toNat)
  | 5 => if y.toNat < x.toNat then y else x
  | 6 => if y.toInt < x.toInt then y else x
  | 7 => f (minMax false fp32 false x.toNat y.toNat)
  | 8 => x ||| y
  | _ =>
    let hx := x.toNat / 2 ^ 32
    let hy := y.toNat / 2 ^ 32
    if hx < hy then y else if hy < hx then x else if y.toNat < x.toNat then y else x

/-- Values combined two by two in an unspecified order (R60, R381): draw `n`. -/
def combineFree (op : Word → Word → Word) (n : Nat) : Nat → List Word → Word
  | 0, vs => vs.getD 0 0
  | fuel + 1, vs =>
    if vs.length ≤ 1 then vs.getD 0 0
    else
      let i := (Config.undef64 n (2 * fuel)).toNat % vs.length
      let x := vs.getD i 0
      let vs := vs.eraseIdx i
      let j := (Config.undef64 n (2 * fuel + 1)).toNat % vs.length
      combineFree op n fuel (op x (vs.getD j 0) :: vs.eraseIdx j)

/-- Whether the report of a device is still to come: a core has not seen the broadcast, or a responder there has not ended (R382). -/
def State.reportDue (s : State) (c : Census) (dev : Nat) : Bool :=
  (List.range 512).any (fun k => !c.reached.contains (dev * 512 + k)) ||
    s.responders.any fun (m : Match) => m.census == c.uid && m.dev == dev && !m.ended

/-- A device that a census has reached and whose report is to come, but cannot (R383, R412). -/
def State.lostTarget (s : State) (c : Census) : Option Nat :=
  c.targets.find? fun d => !s.reachable c.dev d && s.reportDue c d

/-- CENSUS_COMPLETE (R382, R383): every core has seen the broadcast, no count is withheld and every match has replied; or the
census aborts. A device that can no longer report leaves the request without a response (R412). The two words of the result are written in either order or together. -/
def execCensusComplete (s : State) : Host.Outcome State Fault Refusal :=
  match s.turn with
  | .event (.censusComplete u) =>
    .next (match s.census? u with
      | none => s
      | some c =>
        let seen := c.targets.all fun d => (List.range 512).all fun k => c.reached.contains (d * 512 + k)
        let withheld := s.tiles.any fun (t : TileEnt) => match t.dest with
          | some (_, _, _, passed) => passed.contains u
          | none => false
        if c.st == .collecting && (c.abort || (seen && !withheld && c.replies == c.matched)) then
          let (n, s') := s.draw
          let combined := combineFree (censusCombine c.comb) n c.values.length c.values
          let first := Config.pick n % 3
          if c.part.isNone && first < 2 then s'.writeHalf c combined (first == 1)
          else (s'.completeCensus c combined).getD s
        else if c.st == .collecting then ((s.lostTarget c).map fun d => s.rimIssue c.dev d 512 [] 0 0 u).getD s
        else s)
  | _ => .next s

/-- REPLY (R380): the value counts unless the census has ended or aborts (R383). -/
def execReply (a : SReg) (s : State) : Host.Outcome State Fault Refusal :=
  (runTo · s) do
    noRegion
    let w := (← get).cw
    match w.responder with
    | none => trap PROTECTION
    | some m => do
      let x ← rd a
      exitWait (·.dueTrap.isSome)
      let census := (((← get).responders.find? fun (y : Match) => y.uid == m).map (·.census)).getD 0
      modify fun s =>
        let s := s.updCensus census fun c =>
          if c.st == .collecting && !c.abort then
            { c with values := c.values ++ [replyValue c.comb x], replies := c.replies + 1 }
          else c
        { s with responders := updBy Match.uid m (fun y => { y with ended := true }) s.responders }
      pure fun (s : State) => s.retire.endWave w.uid 0

/-- The census of a CWAIT: the one that the wave waits for already, or the one its handle names. -/
def cwaitTarget (a : SReg) : Op Census := do
  let h ← rd a
  let s ← get
  let waiting := match s.cw.wait with
    | some r => if r.kind = .census then s.census? r.obj else none
    | none => none
  match waiting with
  | some c => pure c
  | none => do
    let (_, u) ← resolve a [kCENSUS]
    match (← get).census? u with
    | some c => pure c
    | none => trap HANDLE_INVALID 0 (zext64 (h.setWidth 32))

/-- CWAIT (R385). -/
def execCwait (d a : SReg) (st nb : Bool) (s : State) : Host.Outcome State Fault Refusal :=
  (runOp · s) do
    noRegion
    let c ← cwaitTarget a
    if c.st = .collecting then
      if nb then status d 1 else block .census c.uid d
    if c.st = .aborted && !st then trap CENSUS_ABORT 0 (zext64 (((← get).rs a).setWidth 32))
    status d c.status c.replies

end Sys2Proof.Machine
end

