-- ==== Sys2Proof/Machine/Sha.lean ====
section
/-!
DEFINITION. SHA-256, which the manual names (R117, R118, R425) and does not define: FIPS 180-4 (PRESUMED, log entry 9). Its constants are
computed as that standard derives them, from the roots of the first primes.
-/

namespace Sys2Proof.Machine.Sha

/-- The largest number whose `k`-th power is at most `n`, found bit by bit from bit `b` on down. -/
def root (k n : Nat) : Nat → Nat → Nat
  | 0, r => r
  | b + 1, r => root k n b (if (r + 2 ^ b) ^ k ≤ n then r + 2 ^ b else r)

/-- The first 64 primes: those up to 311, which no smaller number up to 17 divides. -/
def primes : List Nat := (List.range 312).filter fun p => 2 ≤ p && (List.range 18).all fun d => d < 2 || p ≤ d || p % d != 0

/-- The first 32 bits of the fraction of the `k`-th root of a prime. -/
def fraction (k p : Nat) : BitVec 32 := .ofNat 32 (root k (p * 2 ^ (32 * k)) 36 0)

/-- The round constants, and the values that a digest begins with. -/
def roundConstants : List (BitVec 32) := primes.map (fraction 3)
def start : List (BitVec 32) := (primes.take 8).map (fraction 2)

/-- A number as `n` bytes, most significant first. -/
def beBytes (x n : Nat) : List Byte := ((List.range n).map fun i => BitVec.ofNat 8 (x / 256 ^ i)).reverse

/-- Four bytes as a word, the first the most significant. -/
def word4 (bs : List Byte) : BitVec 32 := .ofNat 32 ((bs.take 4).foldl (fun n b => 256 * n + b.toNat) 0)

/-- The XOR of a word rotated right by each of some distances. -/
def spread (x : BitVec 32) (rs : List Nat) : BitVec 32 := (rs.map x.rotateRight).foldl (· ^^^ ·) 0

/-- The schedule of a block as a list whose head is the newest word; each further word comes from four before it. -/
def schedule (first : List (BitVec 32)) : Nat → List (BitVec 32)
  | 0 => first.reverse
  | n + 1 =>
    let past := schedule first n
    let back (i : Nat) : BitVec 32 := past.getD (i - 1) 0
    ((spread (back 2) [17, 19] ^^^ back 2 >>> 10) + back 7 + (spread (back 15) [7, 18] ^^^ back 15 >>> 3) + back 16) :: past

/-- A round, on the two sequences of which the working variables are the four newest values each. -/
def mix (v : List (BitVec 32) × List (BitVec 32)) (x : BitVec 32) : List (BitVec 32) × List (BitVec 32) :=
  let p (i : Nat) : BitVec 32 := v.1.getD i 0
  let q (i : Nat) : BitVec 32 := v.2.getD i 0
  let t := x + q 3 + spread (q 0) [6, 11, 25] + (q 2 ^^^ q 0 &&& (q 1 ^^^ q 2))
  ((t + spread (p 0) [2, 13, 22] + (p 0 &&& p 1 ||| p 2 &&& (p 0 ^^^ p 1))) :: v.1.take 3, (p 3 + t) :: v.2.take 3)

/-- A block of 64 bytes taken into a hash value, with the round constants `ks`. -/
def absorb (ks h : List (BitVec 32)) (b : List Byte) : List (BitVec 32) :=
  let ws := (schedule ((List.range 16).map fun i => word4 (b.drop (4 * i))) 48).reverse
  let r := (List.zipWith (· + ·) ks ws).foldl mix (h.take 4, h.drop 4)
  List.zipWith (· + ·) h (r.1 ++ r.2)

/-- The message with its end mark and its length in bits, in whole blocks. -/
def padded (m : List Byte) : List Byte :=
  m ++ 0x80 :: List.replicate ((119 - m.length % 64) % 64) 0 ++ beBytes (8 * m.length) 8

/-- The digest of a message: 32 bytes. -/
def digest (m : List Byte) : List Byte :=
  let p := padded m
  let ks := roundConstants
  ((List.range (p.length / 64)).foldl (fun h i => absorb ks h ((p.drop (64 * i)).take 64)) start).flatMap fun x => beBytes x.toNat 4

end Sys2Proof.Machine.Sha
end

