-- ==== Sys2Proof/Machine/Loader.lean ====
section
/-!
DEFINITION. The loader engine (R116 to R119, R449, R450): the checks of a container, the attestation record, and mapping.
-/

namespace Sys2Proof.Machine

/-! ## The container (R116, R117) -/

/-- A little-endian field of some bytes. -/
def leField (bs : List Byte) (off n : Nat) : Nat := ofLeBytes ((bs.drop off).take n)

/-- Bytes of a context's memory, as an engine reads them; `none` where one cannot be read. -/
def State.ctxBytes (s : State) (u va n : Nat) : Option (List Byte) :=
  (List.range n).mapM fun i =>
    match (s.translate (s.engineOf u) .load ((va + i) % 2 ^ 64) false).1 with
    | .at p _ => some (Memory.read s.mem p)
    | _ => none

/-- A segment of a container: its entry, its place in the table and its bytes. -/
structure Segment where
  index : Nat
  entry : List Byte
  bytes : List Byte
  deriving DecidableEq, Repr, Inhabited

def Segment.kind (x : Segment) : Nat := leField x.entry 0 1
def Segment.length (x : Segment) : Nat := leField x.entry 4 4

/-- A container read: header and segments. -/
structure Container where
  header : List Byte
  segs : List Segment
  deriving DecidableEq, Repr, Inhabited

def Container.name (c : Container) : List Byte := (c.header.drop 0x08).take 32
def Container.keyId (c : Container) : Nat := leField c.header 0x07 1
def Container.seg? (c : Container) (kind : Nat) : Option Segment := c.segs.find? (·.kind == kind)
def Container.count (c : Container) (kind : Nat) : Nat := (c.segs.filter (·.kind == kind)).length

/-- The bytes of the segment of a kind; none when the container has none. -/
def Container.bytes (c : Container) (kind : Nat) : List Byte := ((c.seg? kind).map (·.bytes)).getD []

/-- Words of 4 bytes. -/
def words4 (bs : List Byte) : List Nat := (List.range (bs.length / 4)).map fun i => leField bs (4 * i) 4

def Container.scalarWords (c : Container) : List Nat := words4 (c.bytes 1)

/-- Pools of the pool table: word index and length (R117). -/
def Container.pools (c : Container) : List (Nat × Nat) :=
  let ws := words4 (c.bytes 4)
  (List.range (ws.length / 2)).map fun i => (ws.getD (2 * i) 0, ws.getD (2 * i + 1) 0)

/-- The handler entry; `none` for 0xFFFF_FFFF. -/
def Container.handler (c : Container) : Option Nat :=
  let h := leField c.header 0x38 4
  if h = 0xFFFFFFFF then none else some h

/-- ASCII, padded with zero bytes. -/
def asciiPadded (bs : List Byte) : Bool :=
  bs.all (fun b => b.toNat < 128) && (bs.dropWhile (· != 0)).all (· == 0)

/-! ## Step 1 of R118 -/

/-- The header against R116. Its reserved bytes are ignored (R5). -/
def headerOk (h : List Byte) : Bool :=
  let f := leField h
  let waves := f 0x28 1
  let vregs := f 0x29 1
  let gang := f 0x2E 1
  let spill := f 0x34 4
  f 0x00 4 == 0x3143434F && f 0x04 2 == 1 && 1 ≤ f 0x06 1 && f 0x06 1 ≤ 32 && f 0x07 1 ≤ 15 &&
    asciiPadded ((h.drop 0x08).take 32) && 1 ≤ waves && waves ≤ 16 && 1 ≤ vregs && vregs ≤ 8 && waves * vregs * 16 ≤ 2048 &&
    f 0x2A 1 ≤ 96 && f 0x2B 1 ≤ 64 && shapeAllowed (f 0x2C 1 / 16) (f 0x2C 1 % 16) && f 0x2D 1 ≤ 1 &&
    (gang == 0 || (2 ≤ gang && gang ≤ 6 && gang ≤ waves)) && f 0x30 4 ≤ 4096 && spill % 4096 == 0 &&
    4096 ≤ spill && spill ≤ 1048576

/-- A segment entry against R117 and R64. Its reserved bytes are ignored (R5). -/
def segmentOk (x : Segment) : Bool :=
  let n := x.length
  match x.kind with
  | 1 => n % 4 == 0 && 0 < n && n ≤ 4 * 1048576
  | 2 => n % 12 == 0 && n ≤ 12 * 4194304
  | 3 => true
  | 4 => n % 8 == 0
  | 5 | 6 => n % 4 == 0 && 4 ≤ n && n ≤ 1024
  | _ => false

/-- How often each kind may stand (R117). -/
def Container.countsOk (c : Container) : Bool :=
  c.count 1 == 1 && c.count 5 == 1 && c.count 2 ≤ 1 && c.count 3 ≤ 1 && c.count 4 ≤ 1 && c.count 6 ≤ 1

/-- The table segment whose indices leave the scalar code section; 0xFF names the handler field. -/
def Container.badIndex (c : Container) : Option Nat :=
  let n := c.scalarWords.length
  let bad (kind : Nat) : Option Nat :=
    match c.seg? kind with
    | some x => if (words4 x.bytes).any (n ≤ ·) then some x.index else none
    | none => none
  match bad 5 with
  | some i => some i
  | none =>
    match bad 6 with
    | some i => some i
    | none => if (c.handler.map fun h => decide (n ≤ h)).getD false then some 0xFF else none

/-- Step 1; an error names the failing segment, or 0xFF. -/
def checkStep1 (x : Ctx) (c : Container) : Except Nat Unit :=
  if !headerOk c.header then .error 0xFF
  else
    match c.segs.find? fun s => !segmentOk s with
    | some s => .error s.index
    | none =>
      if !c.countsOk then .error 0xFF
      else
        match c.badIndex with
        | some i => .error i
        | none =>
          if !Config.keyEnrolled x.dev x.part c.keyId || 256 ≤ x.kernels.length || x.slotSize < leField c.header 0x34 4 then
            .error 0xFF
          else .ok ()

/-- The container at an address of the context's memory; `none` where it cannot be read. The manual is silent on bytes that cannot be
read: the load is refused at step 1 with 0xFF, before any digest is extended (DESIGN CHOICE, log entry 51). -/
def State.readContainer (s : State) (u a : Nat) : Option Container := do
  let header ← s.ctxBytes u a 64
  let segs ← (List.range (min 32 (leField header 6 1))).mapM fun i => do
    let entry ← s.ctxBytes u (a + 0x40 + 64 * i) 64
    let bytes ← s.ctxBytes u (a + leField entry 8 8) (leField entry 4 4)
    pure { index := i, entry, bytes }
  pure { header, segs }

/-! ## Steps 2 and 3 -/

/-- The attestation record as bytes, and back. -/
def recordBytes (r : BitVec 256) : List Byte := leBytes r.toNat 32
def ofRecordBytes (bs : List Byte) : BitVec 256 := .ofNat 256 (ofLeBytes bs)

/-- The record extended (R118). -/
def extendRecord (r : BitVec 256) (m : List Byte) : BitVec 256 := ofRecordBytes (Sha.digest (recordBytes r ++ m))

/-- One segment of step 2: its digest and its signature (R118). A signature of which the tables let the loader read no byte, or not all, is
refused here, with the segment's index: the manual names no outcome (DESIGN CHOICE, log entry 51). -/
def State.segmentVerified (s : State) (x : Ctx) (a : Nat) (c : Container) (g : Segment) : Bool :=
  Sha.digest g.bytes == (g.entry.drop 0x20).take 32 &&
    match s.ctxBytes x.uid (a + leField g.entry 0x10 8) 7856 with
    | some sig =>
      Config.slhDsaVerify (x.dev * 2 ^ 16 + x.part * 16 + c.keyId) (c.name ++ [.ofNat 8 g.index] ++ g.entry) sig
    | none => false

/-- Step 2: the record after the segments that passed, and the index of the one that failed. -/
def State.checkStep2 (s : State) (x : Ctx) (a : Nat) (c : Container) (r : BitVec 256) : List Segment → BitVec 256 × Option Nat
  | [] => (r, none)
  | g :: rest =>
    if s.segmentVerified x a c g then
      s.checkStep2 x a c (extendRecord r ([0x01] ++ c.name ++ [.ofNat 8 c.keyId] ++ g.entry)) rest
    else (r, some g.index)

/-- A pool of the table against R86 and R87. -/
def poolOk (ws : List Nat) (p : Nat × Nat) : Bool :=
  p.1 % 8 == 0 && p.2 % 8 == 0 && 8 ≤ p.2 && p.1 + p.2 ≤ ws.length && ws.getD p.1 0 == 0x3F * 2 ^ 26 + p.2

/-- Step 3: an error names the failing segment, or 0xFF (R118). -/
def checkStep3 (c : Container) : Except Nat Unit :=
  let ws := c.scalarWords
  let seg (kind : Nat) : Nat := ((c.seg? kind).map (·.index)).getD 0xFF
  let inPool (i : Nat) : Bool := c.pools.any fun p => p.1 ≤ i && i < p.1 + p.2
  if c.pools.any fun p => !poolOk ws p then .error (seg 4)
  else if (words4 (c.bytes 5)).any inPool then .error (seg 5)
  else if (words4 (c.bytes 6)).any inPool then .error (seg 6)
  else if (c.handler.map inPool).getD false then .error 0xFF
  else .ok ()

/-! ## Steps 4 and 5 -/

/-- Whether a page of the context is unmapped: its stage-1 walk meets an entry that is not valid, and no kernel holds it (R450). -/
def State.unmapped (s : State) (u va : Nat) : Bool :=
  let w := s.engineOf u
  (s.kernelByte u va).isNone && (s.windowAt u va).isNone &&
    match walk1 s w va 4 w.root1 with
    | .error f => f.cause == PAGE_FAULT && f.reason == 0 && f.stage == 0
    | .ok _ => false

/-- A virtual range of whole pages that a section may take. -/
def State.rangeFree (s : State) (u base n : Nat) : Bool :=
  base % 4096 == 0 && base + pageUp n ≤ 2 ^ 56 && (List.range (pageUp n / 4096)).all fun i => s.unmapped u (base + 4096 * i)

/-- Whether ranges of whole pages are apart. -/
def apart (a n b m : Nat) : Bool := n == 0 || m == 0 || a + pageUp n ≤ b || b + pageUp m ≤ a

/-- Frames of a partition that no kernel holds, no context maps, that hold no stage-1 table and no page moved by a grant (log entry
24). -/
def State.spareFrames (s : State) (dev part : Nat) : List Nat :=
  let used := (s.ctxs.filter fun (c : Ctx) => c.dev == dev && c.st != .dead).flatMap fun c =>
    c.kernels.flatMap (·.frames) ++ s.framesOf c.uid ++ s.tableFrames c.uid
  let moved := (s.movedPages dev).flatMap fun m => (List.range ((m.2 + 65535) / 65536)).map (m.1 / 65536 + ·)
  let mine := (s.owners.filter fun r => r.dev == dev && r.code == .ofNat 8 part).flatMap fun r =>
    (List.range r.count).map (r.first + ·)
  mine.eraseDups.filter fun f => s.frameCode dev f == .ofNat 8 part && !used.contains f && !moved.contains f

/-- Bytes written into frames, each frame in turn. -/
def State.fillFrames (s : State) (dev : Nat) (frames : List Nat) (bytes : List Byte) : State :=
  frames.zipIdx.foldl (fun (s : State) (x : Nat × Nat) =>
    s.writePhys (physOf dev (x.1 * 65536)) (((bytes.drop (65536 * x.2)).take 65536) ++
      List.replicate (65536 - min 65536 (bytes.length - 65536 * x.2)) 0)) s

/-- The leaves of the pages of a section (R118, R335). -/
def sectionLeaves (base bytes : Nat) (data : Bool) : List (Nat × Nat) :=
  (List.range (pageUp bytes / 4096)).map fun i => (base + 4096 * i, loaderLeaf data)

/-- The kernel that a container gives at three bases, in some frames. -/
def kernelOfContainer (c : Container) (num sbase lbase dbase : Nat) (frames : List Nat) : Kernel :=
  let f := leField c.header
  { num, name := c.name, waves := f 0x28 1, vregs := 16 * f 0x29 1, acc := f 0x2A 1, banks := f 0x2B 1, rows := f 0x2C 1 / 16,
    cols := f 0x2C 1 % 16, lc1 := f 0x2D 1 == 1, gang := f 0x2E 1, paramLen := f 0x30 4, spill := f 0x34 4, handler := c.handler,
    sbase, swords := (c.bytes 1).length / 4, lbase, lwords := (c.bytes 2).length / 12, dbase, dbytes := (c.bytes 3).length,
    entries := words4 (c.bytes 5), responders := words4 (c.bytes 6), pools := c.pools, frames,
    leaves := sectionLeaves sbase (c.bytes 1).length false ++ sectionLeaves lbase (c.bytes 2).length false ++
      sectionLeaves dbase (c.bytes 3).length true }

/-- Steps 4 and 5: `none` refuses at step 4. The manual names no outcome when too few spare frames hold the sections, nor when the load
request gives a misaligned base, a range that passes 2^56, or sections that overlap one another (R450): all are refused here (DESIGN
CHOICE, log entry 51). -/
def State.mapKernel (s : State) (x : Ctx) (c : Container) (sbase lbase dbase : Nat) : Option (State × Nat) :=
  let code := c.bytes 1
  let lane := c.bytes 2
  let data := c.bytes 3
  let ns := framesFor code.length
  let nl := framesFor lane.length
  let nd := framesFor data.length
  let (n, s) := s.draw
  let spare := s.spareFrames x.dev x.part
  let at' := Config.pick n % spare.length
  let frames := (spare.drop at' ++ spare.take at').take (ns + nl + nd)
  if !(s.rangeFree x.uid sbase code.length && s.rangeFree x.uid lbase lane.length && s.rangeFree x.uid dbase data.length) ||
      !(apart sbase code.length lbase lane.length && apart sbase code.length dbase data.length &&
        apart lbase lane.length dbase data.length) || frames.length < ns + nl + nd then none
  else
    let num := lowestFree (x.kernels.map (·.num)) 0 256
    let s := s.fillFrames x.dev (frames.take ns) code
    let s := s.fillFrames x.dev ((frames.drop ns).take nl) lane
    let s := s.fillFrames x.dev (frames.drop (ns + nl)) data
    let k := kernelOfContainer c num sbase lbase dbase frames
    some (s.updCtx x.uid fun x => { x with kernels := x.kernels ++ [k], st := if x.st == .created then .loaded else x.st }, num)

/-- A load or a refusal record (R449). -/
def loadRecord (code num word1 : Nat) (a : Word) (r : BitVec 256) : List Word :=
  [.ofNat 64 (code + num * 2 ^ 20), .ofNat 64 word1, a, 0] ++ (List.range 4).map fun i => .ofNat 64 (bitsOf r.toNat (64 * i) 64)

/-- The record of a partition set. -/
def State.setAttest (s : State) (x : Ctx) (r : BitVec 256) : State := s.updPart x.dev x.part fun p => { p with attest := r }

/-- A container refused at a step (R118): the record takes 0x02, NAME and the step, and a refusal record is posted. -/
def State.refuseLoad (s : State) (x : Ctx) (a : Word) (name : List Byte) (r : BitVec 256) (step seg : Nat) : State :=
  let r := extendRecord r ([0x02] ++ name ++ [.ofNat 8 step])
  (s.setAttest x r).post x.dev x.func (loadRecord 0x31 x.num (step + seg * 256) a r)

/-- The name of a container that cannot be read whole: its header's, or zero bytes. -/
def State.containerName (s : State) (u a : Nat) : List Byte := (s.ctxBytes u (a + 8) 32).getD (List.replicate 32 0)

/-- A container loaded or refused (R118). -/
def State.load (s : State) (x : Ctx) (a : Word) (sbase lbase dbase : Nat) : State :=
  let r := ((s.part? x.dev x.part).map (·.attest)).getD 0
  match s.readContainer x.uid a.toNat with
  | none => s.refuseLoad x a (s.containerName x.uid a.toNat) r 1 0xFF
  | some c =>
    match checkStep1 x c with
    | .error i => s.refuseLoad x a c.name r 1 i
    | .ok _ =>
      match s.checkStep2 x a.toNat c r c.segs with
      | (r, some i) => s.refuseLoad x a c.name r 2 i
      | (r, none) =>
        match checkStep3 c with
        | .error i => s.refuseLoad x a c.name r 3 i
        | .ok _ =>
          match s.mapKernel x c sbase lbase dbase with
          | none => s.refuseLoad x a c.name r 4 0xFF
          | some (s, num) => (s.setAttest x r).post x.dev x.func (loadRecord 0x30 x.num num a r)

/-- KERNEL_LOAD (R118). -/
def execKernelLoad (s : State) : Host.Outcome State Fault Refusal :=
  match s.turn with
  | .event (.kernelLoad u a sbase lbase dbase) =>
    .next (match s.ctx? u with
      | some x => if x.st == .terminating || x.st == .dead then s else s.load x a sbase lbase dbase
      | none => s)
  | _ => .next s

/-! ## Unloading (R119) -/

/-- Whether a launch of a kernel waits in a launch port or runs. -/
def State.launchNeeds (s : State) (u k : Nat) : Bool :=
  s.launches.any (fun (l : Launch) => l.ctx == u && !l.complete && bitsOf (l.record.getD 0 0).toNat 0 8 == k) ||
    s.ports.any fun (p : Port) => p.ctx == u && p.launch && p.queue.any fun m => bitsOf (m.words.getD 0 0).toNat 0 8 == k

/-- Whether a census that names a responder entry of a kernel is pending: its RESP lies in the kernel's responder table, and it has matched
an entry of the kernel that has not ended, or its key matches one of the context that it looks at on a device that it reaches (R379). -/
def State.censusNeeds (s : State) (u : Nat) (k : Kernel) : Bool :=
  s.censuses.any fun (c : Census) => c.st == .collecting && c.resp < k.responders.length &&
    s.tiles.any fun (t : TileEnt) => t.ctx == u && t.kernel == k.num &&
      ((c.targets.contains t.dev && s.censusCtx c t.dev == some u && c.keyMatches t) ||
        s.responders.any fun (m : Match) => m.tile == t.uid && m.census == c.uid && !m.ended)

/-- The answer to a request of system software: 0 done, 1 refused. -/
def State.reply (s : State) (dev func : Nat) (refused : Bool) : State :=
  s.updFunc dev func fun f => { f with answer := [if refused then 1 else 0] }

/-- KERNEL_UNLOAD (R119): the number is free again and the frames enter scrubbing. -/
def execKernelUnload (s : State) : Host.Outcome State Fault Refusal :=
  match s.turn with
  | .event (.kernelUnload u n) =>
    .next (match s.ctx? u with
      | none => s
      | some x =>
        match x.kernel? n with
        | none => s.reply x.dev x.func true
        | some k =>
          if s.launchNeeds u n || s.censusNeeds u k then s.reply x.dev x.func true
          else
            let s := k.frames.foldl (fun (s : State) f => s.retireFrame x.dev x.part f (framePages f)) s
            (s.updCtx u fun x => { x with kernels := x.kernels.filter (·.num != n) }).reply x.dev x.func false)
  | _ => .next s

end Sys2Proof.Machine
end

