-- ==== Sys2Proof/Machine/Context.lean ====
section
/-!
DEFINITION. What system software does to contexts (R96 to R99, R104, R112 to R115).
-/

namespace Sys2Proof.Machine

/-- A creation request that is refused (R96, R104, R105, R426, R450): no such function, a limit passed, a field out of its range, or SVC
asked for by another than the service core of the function's partition. That a misaligned spill base or root, and a slot size out of its
range, are refused is the model's choice: the manual names no outcome (DESIGN CHOICE, log entry 49). -/
def State.createRefused (s : State) (dev : Nat) (x : ContextSpec) : Bool :=
  let live := s.ctxs.filter fun (c : Ctx) => c.dev == dev && c.st != .dead
  ((s.func? dev x.func).map fun f => f.draining || f.tornDown || f.part == 0).getD true ||
    (x.svc && x.bySvc ≠ ((s.func? dev x.func).map (·.part)).getD 0) || 4096 ≤ (live.filter (·.func == x.func)).length || 16384 ≤ live.length ||
    x.slice < 64 || 1048576 < x.slice || 2 ^ 20 < (live.map (·.slice)).sum + x.slice ||
    x.spillBase % 4096 != 0 || x.slotSize % 4096 != 0 || 1048576 < x.slotSize || 7 < x.launchCeiling || x.root1 % 2048 != 0

/-- A new context (R96, R98): created, with the default weight and threshold and its counters zero (R109, R112, R356). -/
def newContext (u dev num part : Nat) (x : ContextSpec) : Ctx :=
  { uid := u, dev, func := x.func, num, part, svc := x.svc, st := .created, before := .created, deviceParked := false, faulting := 0,
    weight := 16, credit := 0, slice := x.slice, quota := x.quota, quotaUsed := 0, ceiling := x.launchCeiling, root1 := x.root1,
    spillBase := x.spillBase, slotSize := x.slotSize, slotCount := x.slotCount, slotsUsed := [], kernels := [],
    counters := { cycles := 0, swords := 0, lwords := 0, mjops := 0, xbytes := 0, traps := 0, evicts := 0, throttle := 0,
                  replays := 0 },
    threshold := 256, migPort := none, meshes := [], buckets := [] }

/-- CONTEXT_CREATE (R96, R97): the lowest context number of the function that no live context has; the rule leaves open which free
number it is (DESIGN CHOICE, log entry 49). -/
def execContextCreate (s : State) : Host.Outcome State Fault Refusal :=
  match s.turn with
  | .event (.contextCreate dev x) =>
    .next (if s.createRefused dev x then s.reply dev x.func true
      else
        let used := (s.ctxs.filter fun (c : Ctx) => c.dev == dev && c.func == x.func && c.st != .dead).map (·.num)
        let part := ((s.func? dev x.func).map (·.part)).getD 0
        let (u, s) := s.fresh
        { s.reply dev x.func false with ctxs := s.ctxs ++ [newContext u dev (lowestFree used 0 4096) part x] })
  | _ => .next s

/-- CONTEXT_ENABLE (R98, R112): the weight is set; a loaded context is runnable. -/
def execContextEnable (s : State) : Host.Outcome State Fault Refusal :=
  match s.turn with
  | .event (.contextEnable u weight) =>
    .next (match s.ctx? u with
      | none => s
      | some c =>
        if weight = 0 || 255 < weight || c.st == .created || c.st == .terminating || c.st == .dead then s.reply c.dev c.func true
        else
          (s.updCtx u fun c =>
            { c with weight, st := if c.st == .loaded then .runnable else c.st,
                     credit := if c.st == .loaded then max c.credit 0 else c.credit }).reply c.dev c.func false)
  | _ => .next s

/-- CONTEXT_PARK (R98, R114). -/
def execContextPark (s : State) : Host.Outcome State Fault Refusal :=
  match s.turn with
  | .event (.contextPark u) =>
    .next (match s.ctx? u with
      | none => s
      | some c => if c.st == .runnable || c.st == .active then s.parkCtx u false else s)
  | _ => .next s

/-- A parked or released context in a state that it goes on in: what its timers missed is recorded, and its evicted clusters are entered
in run lists (R98, R114, R133). -/
def State.resumeCtx (s : State) (u : Nat) (st : CtxState) : State :=
  let s := (s.updCtx u fun c => { c with st, deviceParked := false }).recordTimers u
  let cs := s.clusters.filter fun (x : Cluster) => x.ctx == u && x.st == .parked
  (cs.foldl (fun (s : State) x => s.reenter x) s).settleCtx u

/-- CONTEXT_RESUME (R98, R111, R114). A request waits until the park's last copy has ended (R113), as `inputWaits` says. -/
def execContextResume (s : State) : Host.Outcome State Fault Refusal :=
  match s.turn with
  | .event (.contextResume u) =>
    .next (match s.ctx? u with
      | none => s
      | some c => if c.st == .parked && !c.deviceParked && !s.copiesRun u then s.resumeCtx u c.before else s)
  | _ => .next s

/-- CONTEXT_TERMINATE (R98, R115). -/
def execContextTerminate (s : State) : Host.Outcome State Fault Refusal :=
  match s.turn with
  | .event (.contextTerminate u) => .next (s.terminate u)
  | _ => .next s

/-- CONTEXT_RELEASE (R98, R112): the faulting wave of a faulted context is killed and the context is runnable again; with no wave left
to be ready its deficit is cleared. -/
def execContextRelease (s : State) : Host.Outcome State Fault Refusal :=
  match s.turn with
  | .event (.contextRelease u) =>
    .next (match s.ctx? u with
      | none => s
      | some c =>
        if c.st != .faulted then s
        else
          let s := s.endWave c.faulting 1
          let left := s.allWaves.any fun w => w.ctx == u && w.st != .exited
          (s.updCtx u fun c => { c with faulting := 0, credit := if left then c.credit else max c.credit 0 }).resumeCtx u .runnable)
  | _ => .next s

end Sys2Proof.Machine
end

