-- ==== Sys2Proof/Machine/Launch.lean ====
section
/-!
DEFINITION. Launches and placement: launch records (R120 to R125), run lists and clusters (R127 to R134, R142), pre-emption (R146 to
R148), time slices (R113).
-/

namespace Sys2Proof.Machine

/-! ## Launch records (R120, R121) -/

def recOrder (r : List Word) : Bool := bitAt (r.getD 0 0).toNat 24
def recGrid (r : List Word) (i : Nat) : Nat := bitsOf (r.getD 1 0).toNat (16 * i) 16

/-- CMASK as a 512-bit mask. -/
def recMask (r : List Word) : Nat := ((List.range 8).map fun i => (r.getD (5 + i) 0).toNat * 2 ^ (64 * i)).sum

/-- The clusters of a record. -/
def recClusters (r : List Word) : Nat := recGrid r 0 * recGrid r 1 * recGrid r 2

/-- A reserved field of a record that is not zero. -/
def recReserved (r : List Word) : Bool :=
  let w0 := (r.getD 0 0).toNat
  bitsOf w0 8 8 != 0 || bitsOf w0 25 39 != 0 || bitsOf (r.getD 1 0).toNat 48 16 != 0 || 2 ^ 32 ≤ (r.getD 3 0).toNat ||
    (r.drop 13).any (· != 0)

/-- Whether a context's waves may be placed (R98, R113, R429): it is enabled, its function has the partition and its slice is not
over, and the device runs. -/
def State.placeable (s : State) (u : Nat) : Bool :=
  match s.ctx? u with
  | none => false
  | some c =>
    (c.st == .runnable || c.st == .active) && !((s.dev? c.dev).map (·.parked)).getD true && s.hasSlice c

/-- The mask of a record within its partition (R130). -/
def State.recordMask (s : State) (c : Ctx) (r : List Word) : Nat :=
  if recMask r = 0 then s.partMask c.dev c.part else recMask r &&& s.partMask c.dev c.part

/-- Whether a mask holds a rectangle for a kernel, FIFO banks apart (R121). What holdings are fixed is not stated: the model counts the banks
in FIFO mode and nothing else (DESIGN CHOICE, log entry 36). -/
def State.anyPlace (s : State) (dev mask : Nat) (k : Kernel) : Bool :=
  (List.range 512).any fun corner =>
    match rectangle corner k.rows k.cols k.lc1 with
    | none => false
    | some cores =>
      cores.all (maskHas mask) && ((cores.map (· / 8)).eraseDups).all fun h =>
        k.banks * (cores.filter fun c => c / 8 == h).length ≤ (s.banksWhere dev h fun b => b.mode != .fifo).length

/-- The status that ends a launch at once (R121); 0 when the record is good. Which one a record gets that meets several conditions is not
stated: the model judges status 1, then 2, then 3, the team count once its kernel is known (DESIGN CHOICE, log entry 36). -/
def State.recordStatus (s : State) (c : Ctx) (r : List Word) : Nat :=
  let g := recClusters r
  if recReserved r || g = 0 || (r.getD 2 0).toNat % 64 ≠ 0 then 1
  else
    match c.kernel? (recKernel r) with
    | none => 2
    | some k =>
      if 2 ^ 32 - 1 < g * k.rows * k.cols then 1
      else if k.entries.length ≤ recEntry r then 2
      else if !s.anyPlace c.dev (s.recordMask c r) k then 3 else 0

/-! ## Expansion (R125, R130) -/

/-- The entry registers of a wave of a launch (R125). -/
def entryRegs (r : List Word) (k : Kernel) (cluster tpos index : Nat) : List (Nat × Word) :=
  let n := k.rows * k.cols
  [(1, r.getD 2 0), (2, .ofNat 64 index), (3, .ofNat 64 (cluster * n + tpos)), (4, .ofNat 64 cluster),
   (5, .ofNat 64 (recClusters r * n)), (6, .ofNat 64 scratchWindow), (7, .ofNat 64 (recCompl r))]

/-- GRIDPOS of a cluster (R107). -/
def gridPos (r : List Word) (cluster : Nat) : Word :=
  let gx := recGrid r 0
  let gy := recGrid r 1
  .ofNat 64 (cluster % gx + cluster / gx % gy * 2 ^ 16 + cluster / (gx * gy) * 2 ^ 32)

/-- One team of a cluster of a launch, with its waves. -/
def State.expandTeam (s : State) (l : Launch) (c : Ctx) (k : Kernel) (cu tpos : Nat) : Nat × State :=
  let n := k.rows * k.cols
  let (tu, s) := s.newTeam { Team.blank with dev := l.dev, ctx := l.ctx, kernel := k.num, cluster := cu, tpos, acc := k.acc,
                                             banks := k.banks, vregs := k.vregs }
  let wave (s : State) (i : Nat) : State :=
    (s.birth { ctx := c.uid, team := tu, kernel := k.num, entry := k.entries.getD (recEntry l.record) 0, index := i, tpos,
               teamIndex := l.next * n + tpos, clusterIndex := l.next, gridpos := gridPos l.record l.next,
               regs := entryRegs l.record k l.next tpos i, prio := l.prio, ceiling := l.prio, launch := some l.uid,
               ofLaunch := true, responder := none, joinable := false, dev := l.dev, core := 0, st := .created }).2.2
  (tu, (List.range k.waves).foldl wave s)

/-- The teams of a cluster, in the order of TPOS. -/
def State.expandTeams (s : State) (l : Launch) (c : Ctx) (k : Kernel) (cu : Nat) : List Nat → List Nat × State
  | [] => ([], s)
  | p :: rest =>
    let (t, s) := s.expandTeam l c k cu p
    let (ts, s) := s.expandTeams l c k cu rest
    (t :: ts, s)

/-- The next cluster of a launch expanded and entered in a run list (R130, R132), once its waves have entries and spill slots
(R104). One cluster of a launch stands unplaced at a time. -/
def State.expandNext (s : State) (u : Nat) : State :=
  match s.launch? u with
  | none => s
  | some l =>
    match s.ctx? l.ctx with
    | none => s
    | some c =>
      match c.kernel? (recKernel l.record) with
      | none => s
      | some k =>
        let n := k.rows * k.cols * k.waves
        let waiting := s.clusters.any fun x => x.launch == some u && x.fresh && x.st != .placed &&
          s.allWaves.any fun w => x.teams.contains w.team && w.ofLaunch
        if l.complete || l.total ≤ l.next || waiting || !s.roomForWaves c n then s
        else
          let (cu, s) := s.fresh
          let (home, s) := s.someHoop (s.maskFor l.dev c.part (some u)) k.rows k.cols k.lc1
          let (ts, s) := s.expandTeams l c k cu (List.range (k.rows * k.cols))
          let x : Cluster :=
            { uid := cu, dev := l.dev, ctx := l.ctx, launch := some u, kernel := k.num, rows := k.rows, cols := k.cols, lc1 := k.lc1,
              teams := ts, st := .inTable, home, corner := 0, prio := l.prio, since := if l.next = 0 then l.since else s.time l.dev,
              arrival := cu, hold := none,
              fresh := true, bar := .idle }
          let s := { s with clusters := s.clusters ++ [x] }
          (s.updLaunch u fun l => { l with next := l.next + 1, created := l.created + n }).enlist cu

/-- Whether a launch is over: it has completed, and no store of its waves stands in a write-combining buffer, since its completion is a
release at system scope (R123). -/
def State.launchOver (s : State) (l : Launch) : Bool :=
  let own (u : Nat) : Bool := match s.wave? u with
    | some w => w.ofLaunch && w.launch == some l.uid
    | none => false
  l.complete && !s.wcb.any fun e => e.bytes.any fun b => own b.wave

/-- Whether a launch has no memory effect to come: it is over, and no started copy of a wave of it, killed meanwhile, still runs (R122, R158,
R273). -/
def State.launchQuiet (s : State) (l : Launch) : Bool :=
  s.launchOver l && !s.copies.any fun (c : Copy) => c.st == CopyState.started &&
    ((s.wave? c.wave).map fun w => w.ofLaunch && w.launch == some l.uid).getD false

/-- A launch that ends at once (R121). -/
def newLaunch (u : Nat) (p : Port) (r : List Word) (mask since now : Nat) (status : Nat) : Launch :=
  { uid := u, dev := p.dev, ctx := p.ctx, port := p.uid, record := r, prio := .ofNat 3 p.prio, mask, removed := [], order := u,
    next := 0, since, created := 0, ended := 0, killed := 0, started := 0, status, teams := 0, complete := status != 0, sent := false,
    done := if status = 0 then 0 else now }

/-- LAUNCH_RECORD_HEAD (R121, R122): the record at the head of a launch port is checked, and its launch ends at once or begins; one with
ORDER begins once the earlier launches of its port are over and have no memory effect to come. -/
def execLaunchRecordHead (s : State) : Host.Outcome State Fault Refusal :=
  match s.turn with
  | .event (.launchRecordHead port) =>
    .next (match s.port? port with
      | none => s
      | some p =>
        match p.queue, s.ctx? p.ctx with
        | m :: _, some c =>
          let earlier := s.launches.any fun (l : Launch) => l.port == p.uid && !s.launchQuiet l
          let status := s.recordStatus c m.words
          let k := (c.kernel? (recKernel m.words)).getD default
          if !p.launch || p.st == .closed || !s.placeable c.uid then s
          else if status = 0 && recOrder m.words && earlier then s
          else if status = 0 && !s.roomForWaves c (k.rows * k.cols * k.waves) then s
          else
            let (u, s) := s.fresh
            let l := newLaunch u p m.words (s.recordMask c m.words) m.stamp (s.time c.dev) status
            let s := { s with launches := s.launches ++ [l] }
            (s.dequeue p.uid m).expandNext u
        | _, _ => s)
  | _ => .next s

/-! ## Run lists -/

/-- The corners in a cluster's own hoop on which it may be placed: team TPOS 0 stands in the hoop whose run list holds the entry
(R132). -/
def State.homeCorners (s : State) (c : Cluster) : List Nat := (s.cornersFor c (s.clusterMask c)).filter fun x => x / 8 == c.home

/-- An entry that no rectangle of its hoop can take, while another hoop's can, goes to the run list of one that can: placement is
work-conserving (R132, R142; log entry 36). -/
def State.moveEntry (s : State) (c : Cluster) : State :=
  let cs := s.cornersFor c (s.clusterMask c)
  let (n, s) := s.draw
  match cs[Config.pick n % cs.length]? with
  | some x => if (cs.all fun y => y / 8 != c.home) && c.hold.isNone then (s.updCluster c.uid fun c => { c with home := x / 8 }).enlist c.uid else s
  | none => s

/-- RUN_LIST_ADMIT (R132, R133): an entry that waits in the object table, or a cluster that was evicted, enters its run list; one in a
run list goes to another hoop's; a launch expands its next cluster. -/
def execRunListAdmit (s : State) : Host.Outcome State Fault Refusal :=
  match s.turn with
  | .event (.runListAdmit u) =>
    .next (match s.cluster? u with
      | some c =>
        if !s.placeable c.ctx then s
        else
          match c.st with
          | .inTable => s.admitted u
          | .parked => s.reenter c
          | .inRunList => s.moveEntry c
          | .placed => s
      | none =>
        match s.launch? u with
        | some l => if s.placeable l.ctx then s.expandNext u else s
        | none => s)
  | _ => .next s

/-! ## Placement (R129, R130, R142) -/

/-- The contexts of a function that hold ready waves (R112). -/
def State.readyCtxs (s : State) (dev func : Nat) : List Ctx :=
  s.ctxs.filter fun (c : Ctx) => c.dev == dev && c.func == func && s.placeable c.uid &&
    s.allWaves.any fun w => w.ctx == c.uid && w.st == .ready

/-- Rounds of R112 begin until some context that holds ready waves has credit. -/
def State.creditRounds (s : State) (dev func : Nat) : State :=
  let cs := s.readyCtxs dev func
  if cs.isEmpty || cs.any (0 < ·.credit) then s
  else
    let need (c : Ctx) : Nat := (-c.credit).toNat / (c.weight * 4096) + 1
    let n := cs.foldl (fun m c => min m (need c)) (need (cs.headD default))
    let us := cs.map (·.uid)
    let grant := fun (c : Ctx) => if us.contains c.uid then { c with credit := c.credit + (n * c.weight * 4096 : Nat) } else c
    { s with ctxs := s.ctxs.map grant }

/-- Whether the first teams of earlier records of the launch port are placed (R122). -/
def State.launchTurn (s : State) (c : Cluster) : Bool :=
  match c.launch.bind s.launch? with
  | none => true
  | some l => s.launches.all fun (x : Launch) => !(x.port == l.port && x.order < l.order && !x.complete && x.started == 0)

/-- A cluster that waits in a run list and has a rectangle of its hoop free. -/
def State.canPlace (s : State) (c : Cluster) : Bool :=
  c.st == .inRunList && s.placeable c.ctx && s.launchTurn c && !(s.homeCorners c).isEmpty

/-- What orders the work of a function (R142): its context and the credit of that, its EFF, and since when it waits. -/
structure Rank where
  ctx : Nat
  credit : Int
  eff : Nat
  since : Nat
  deriving DecidableEq, Repr, Inhabited

/-- Whether work goes before other work of its function (R142): more credit, then higher EFF, then older. -/
def Rank.before (x y : Rank) : Bool :=
  if x.credit ≠ y.credit then decide (y.credit < x.credit)
  else if x.ctx ≠ y.ctx then false
  else if x.eff ≠ y.eff then decide (y.eff < x.eff)
  else decide (x.since < y.since)

/-- The rank of work of a context with a BASE. -/
def State.rankOf (s : State) (dev ctx base since : Nat) : Rank :=
  { ctx, credit := ((s.ctx? ctx).map (·.credit)).getD 0, eff := s.effSince dev base since, since }

/-- The rank of a cluster. -/
def State.clusterRank (s : State) (c : Cluster) : Rank := s.rankOf c.dev c.ctx c.prio.toNat c.since

/-- Whether a cluster goes before another (R142). -/
def State.goesBefore (s : State) (x c : Cluster) : Bool := (s.clusterRank x).before (s.clusterRank c)

/-- What the teams of a kernel need at first. -/
def kernelNeeds (k : Kernel) : List Need :=
  List.replicate (k.rows * k.cols) { team := 0, waves := k.waves, vregs := k.vregs, acc := k.acc, banks := k.banks, split := 0, copies := 0 }

/-- Whether the record at the head of a launch port could start now and have its first cluster placed. -/
def State.headPlaceable (s : State) (p : Port) : Bool :=
  match p.queue, s.ctx? p.ctx with
  | m :: _, some c =>
    match c.kernel? (recKernel m.words) with
    | none => false
    | some k =>
      p.launch && p.st != .closed && s.placeable c.uid && s.recordStatus c m.words == 0 &&
        !(recOrder m.words && s.launches.any fun (l : Launch) => l.port == p.uid && !s.launchQuiet l) &&
        s.roomForWaves c (k.rows * k.cols * k.waves) &&
        (List.range 512).any fun corner => match rectangle corner k.rows k.cols k.lc1 with
          | some cores => s.fits c.dev 0 (s.recordMask c m.words) (kernelNeeds k) cores
          | none => false
  | _, _ => false

/-- The rank of the record at the head of a launch port (R142). -/
def State.headRank (s : State) (p : Port) : Rank := s.rankOf p.dev p.ctx p.prio ((p.queue.map (·.stamp)).headD 0)

/-- Whether no other placeable work of the function goes before a cluster: no entry of a run list and no launch record (R142). -/
def State.isBest (s : State) (c : Cluster) : Bool :=
  let func (u : Nat) : Nat := ((s.ctx? u).map (·.func)).getD 0
  (s.clusters.all fun x =>
    !(x.uid != c.uid && x.dev == c.dev && func x.ctx == func c.ctx && s.goesBefore x c && s.canPlace x)) &&
  s.ports.all fun p =>
    !(p.dev == c.dev && func p.ctx == func c.ctx && (s.headRank p).before (s.clusterRank c) && s.headPlaceable p)

/-- Free scratchpad banks of a hoop given to a team. -/
def State.takeBanks (s : State) (dev hoop team n : Nat) : State :=
  ((s.banksWhere dev hoop Bank.freeScratch).take n).foldl (fun (s : State) b => s.setBank { b with owner := some team }) s

/-- Cache ways of a hoop set to change to scratchpad, so that `n` banks will be free (R129, R229). -/
def State.wantBanks (s : State) (dev hoop n : Nat) : State :=
  let have' := (s.banksWhere dev hoop fun b => b.freeScratch || (b.mode == .cacheWay && b.pending == some .scratchpad)).length
  ((s.banksWhere dev hoop Bank.freeWay).take (n - have')).foldl
    (fun (s : State) b => s.setBank { b with pending := some .scratchpad }) s

/-- The teams of a cluster on the cores of a rectangle: their waves are resident, at the level that they held (R133), and their copies
count there (R262). -/
def State.seat (s : State) (c : Cluster) (corner : Nat) (cores : List Nat) : State :=
  let s := (c.teams.zip cores).foldl (fun (s : State) (x : Nat × Nat) =>
    let banks := ((s.team? x.1).map (·.banks)).getD 0
    let s := (s.updTeam x.1 fun t => { t with core := x.2 }).takeBanks c.dev (x.2 / 8) x.1 banks
    let s := { s with copies := s.copies.map fun (y : Copy) => if y.team == x.1 && y.inFlight then { y with core := x.2, hoop := x.2 / 8 } else y }
    s.mapWaves (fun w => w.team == x.1 && w.st != .exited) fun w =>
      { w with core := x.2, st := if w.level == .handler then .handler else .resident }) s
  s.updCluster c.uid fun c => { c with st := .placed, corner, home := corner / 8, hold := none, fresh := false }

/-- What the launch of a cluster records when the cluster is first placed (R124), and its next cluster. -/
def State.launchPlaced (s : State) (c : Cluster) : State :=
  match c.fresh, c.launch with
  | true, some u =>
    if (s.allWaves.any fun w => c.teams.contains w.team && w.ofLaunch) then
      (s.updLaunch u fun l =>
        { l with started := if l.started = 0 then s.time l.dev else l.started, teams := l.teams + c.teams.length }).expandNext u
    else s
  | _, _ => s

/-- CLUSTER_PLACE (R129, R130, R142): the best work that can be placed takes a rectangle that is free; while its hoops lack
scratchpad banks, cache ways change their mode first. A census responder in the queue of its core starts there (R379). -/
def execClusterPlace (s : State) : Host.Outcome State Fault Refusal :=
  match s.turn with
  | .event (.clusterPlace u corner) =>
    .next (match s.cluster? u with
      | none => s.tryResponder u
      | some c =>
        let s := s.creditRounds c.dev (((s.ctx? c.ctx).map (·.func)).getD 0)
        let ns := s.needOf c
        match rectangle corner c.rows c.cols c.lc1 with
        | none => s
        | some cores =>
          if c.st != .inRunList || !s.placeable c.ctx || !s.launchTurn c || !s.isBest c || corner / 8 != c.home ||
              (c.hold.isSome && c.hold != some corner) || !s.fits c.dev c.uid (s.clusterMask c) ns cores then s
          else if s.banksFit c.dev cores ns false then (s.seat c corner cores).launchPlaced c
          else
            ((cores.map (· / 8)).eraseDups).foldl (fun (s : State) h =>
              s.wantBanks c.dev h (banksOn h cores ns)) s)
  | _ => .next s

/-! ## Pre-emption (R146, R147) and idle teams (R134) -/

/-- Whether a running launch qualifies as a victim for a waiting cluster of another (R146, R147). -/
def State.qualifies (s : State) (l : Launch) (c : Cluster) : Bool :=
  match s.ctx? l.ctx, s.ctx? c.ctx with
  | some v, some w =>
    c.launch != some l.uid && l.dev == c.dev && v.func == w.func && !l.complete && l.started != 0 &&
      ((v.uid == w.uid && l.prio.toNat < s.effOf c) || (v.uid != w.uid && v.credit ≤ 0 && 0 < w.credit))
  | _, _ => false

/-- Whether a launch is the victim: of lowest EFF, on a tie started most recently (R146). -/
def State.isVictim (s : State) (l : Launch) (c : Cluster) : Bool :=
  s.qualifies l c && s.launches.all fun (x : Launch) => !(x.uid != l.uid && s.qualifies x c &&
    (x.prio.toNat < l.prio.toNat || (x.prio == l.prio && l.started < x.started)))

/-- The cores of every hoop that a rectangle touches. -/
def hoopsMask (cores : List Nat) : Nat :=
  maskOfCores (((cores.map (· / 8)).eraseDups).flatMap fun h => (List.range 8).map fun i => 8 * h + i)

/-- The placed clusters of a victim that have a team on a removed core. -/
def State.victims (s : State) (l : Launch) (removed : Nat) : List Cluster :=
  s.clusters.filter fun (c : Cluster) => c.launch == some l.uid && c.st == .placed &&
    (c.teams.filterMap s.team?).any fun t => maskHas removed t.core

/-- Whether a wave has installed a TMOVE that has not committed: its commit comes before its save (R386). -/
def Wave.moving (w : Wave) : Bool := (w.wait.or w.abandoned).any fun r => r.kind == .move

/-- A cluster with a handler-level wave in class 1 is not evicted (R134, R145, R147), nor one with a move to commit (R386). -/
def State.protectedCluster (s : State) (c : Cluster) : Bool :=
  s.allWaves.any fun w => c.teams.contains w.team && w.st != .exited && ((w.level == .handler && w.entered != 0) || w.moving)

/-- The rectangles on which a waiting cluster would fit without the victim's teams, with the teams each would evict (R147). -/
def State.preemptCorners (s : State) (l : Launch) (c : Cluster) : List (Nat × Nat) :=
  (List.range 512).filterMap fun corner =>
    match rectangle corner c.rows c.cols c.lc1 with
    | none => none
    | some cores =>
      let vs := s.victims l (hoopsMask cores)
      let s' := vs.foldl (fun (s : State) v => s.evictCluster v.uid) s
      let gone := { s' with copies := [] }
      if gone.fits c.dev c.uid (s.clusterMask c) (s.needOf c) cores then some (corner, (vs.map fun v => (v.teams.filterMap s.team?).length).sum) else none

/-- Whether a corner is the one that R147 prefers. -/
def preferred (corner : Nat) (xs : List (Nat × Nat)) : Bool :=
  match xs.find? (·.1 == corner) with
  | none => false
  | some x => xs.all fun y => x.2 < y.2 || (x.2 == y.2 && x.1 ≤ y.1)

/-- The victim's cores removed and the rectangle held; teams that no handler protects are evicted (R147). -/
def State.preempt (s : State) (l : Launch) (c : Cluster) (by' corner : Nat) (cores : List Nat) : State :=
  let m := hoopsMask cores
  let vs := (s.victims l m).filter fun v => !s.protectedCluster v
  let s := s.updLaunch l.uid fun l => if l.removed.contains (by', m) then l else { l with removed := l.removed ++ [(by', m)] }
  let s := vs.foldl (fun (s : State) v => s.evictCluster v.uid) s
  s.updCluster c.uid fun c => { c with hold := some corner, home := corner / 8 }

/-- PREEMPTION (R146, R147). -/
def execPreemption (s : State) : Host.Outcome State Fault Refusal :=
  match s.turn with
  | .event (.preemption victim u corner) =>
    .next (match s.launch? victim, s.cluster? u with
      | some l, some c =>
        match (c.launch.bind s.launch?).filter (!·.complete), rectangle corner c.rows c.cols c.lc1 with
        | some own, some cores =>
          let begun := c.hold == some corner && l.removed.contains (own.uid, hoopsMask cores)
          if c.st != .inRunList || !s.placeable c.ctx then s
          else if begun then s.preempt l c own.uid corner cores
          else if c.hold.isSome || !(s.cornersFor c (s.clusterMask c)).isEmpty || !s.isVictim l c ||
              !preferred corner (s.preemptCorners l c) then s
          else s.preempt l c own.uid corner cores
        | _, _ => s
      | _, _ => s)
  | _ => .next s

/-- Whether a wave waits, and has for 100 µs (R134): at a blocking wait of its scalar stream, with a path at a rendezvous move (R133), or for
a page (R353). -/
def Wave.waitsLong (w : Wave) (now : Nat) : Bool :=
  (w.st == .waiting &&
    ((w.wait.any fun r => r.blocking && decide (r.since + 100000 ≤ now)) || w.eng.paths.any fun p => match p.wait with
      | .slot _ since _ _ => since + 100000 ≤ now
      | _ => false)) ||
    (w.pageWait.isSome && decide (w.pageSince + 100000 ≤ now))

/-- IDLE_TEAM_EVICT (R134). -/
def execIdleTeamEvict (s : State) : Host.Outcome State Fault Refusal :=
  match s.turn with
  | .event (.idleTeamEvict team) =>
    .next (match (s.team? team).bind fun t => (s.cluster? t.cluster).map fun c => (t, c) with
      | none => s
      | some (t, c) =>
        let now := s.time t.dev
        let idle := (s.allWaves.filter fun w => w.team == team && w.st != .exited).all (·.waitsLong now)
        let wanted := s.clusters.any fun x => x.dev == t.dev && x.st == .inRunList && x.home == t.core / 8 &&
          c.prio.toNat ≤ s.effOf x && s.placeable x.ctx && (s.homeCorners x).isEmpty
        if c.st == .placed && idle && wanted && !s.protectedCluster c then s.evictCluster c.uid else s)
  | _ => .next s

/-! ## Completion messages (R124) -/

/-- COMPLETION_MESSAGE (R124): once the launch is over it is sent, dropped, or waits while the port is full. -/
def execCompletionMessage (s : State) : Host.Outcome State Fault Refusal :=
  match s.turn with
  | .event (.completionMessage u) =>
    .next (match s.launch? u with
      | none => s
      | some l => if !s.launchOver l || l.sent then s else s.sendCompletion l)
  | _ => .next s

/-! ## Time slices (R113) -/

/-- The function that follows in a partition's turn. -/
def State.nextFunc (s : State) (p : Part) : Nat :=
  let fs := (s.funcs.filter fun f => f.dev == p.dev && f.part == p.num && !f.tornDown).map (·.num)
  match fs.filter (p.running < ·) with
  | [] => fs.foldl min (fs.headD p.running)
  | later => later.foldl min (later.headD p.running)

/-- Whether a device has full function (R427). -/
def State.devFull (s : State) (dev : Nat) : Bool := ((s.dev? dev).map (·.stage)) == some .full

/-- Whether a device is parked (R430). -/
def State.devParked (s : State) (dev : Nat) : Bool := ((s.dev? dev).map (·.parked)).getD false

/-- Whether a park entry of a device is in progress (R429). -/
def State.devParking (s : State) (dev : Nat) : Bool := ((s.dev? dev).map (·.parking)).getD false

/-- TIME_SLICE_SWITCH (R113): the outgoing function's waves are saved and its write-combining entries drain; once its started copies
have ended, the next function has the partition, and what its timers missed is recorded. Moves to commit come before the save (R386).
A device that parks or is parked holds new switches (R429). -/
def execTimeSliceSwitch (s : State) : Host.Outcome State Fault Refusal :=
  match s.turn with
  | .event (.timeSliceSwitch dev part) =>
    .next (match s.part? dev part with
      | none => s
      | some p =>
        let cs := (s.ctxs.filter fun (c : Ctx) => c.dev == dev && c.part == part && c.func == p.running).map (·.uid)
        let moving := s.allWaves.any fun w => cs.contains w.ctx && w.st.onCore && w.moving
        if !s.sliceOver p || s.devParked dev || s.devParking dev || moving then s
        else
          let ws := (s.allWaves.filter fun w => cs.contains w.ctx).map (·.uid)
          let s := cs.foldl (fun (s : State) c => s.evictCtx c) s
          let s := s.drainWhere fun e => e.bytes.any fun b => ws.contains b.wave
          if cs.any s.copiesRun then s
          else
            let f := s.nextFunc p
            let s := s.updPart dev part fun p => { p with running := f, sliceFrom := s.time dev }
            (s.ctxs.filter fun (c : Ctx) => c.dev == dev && c.func == f).foldl (fun (s : State) c => s.recordTimers c.uid) s)
  | _ => .next s

end Sys2Proof.Machine
end

