-- ==== Sys2Proof/Machine/Pages.lean ====
section
/-!
DEFINITION. What changes below the accesses of programs: invalidation (R339, R340), frame ownership and lending (R341 to R345),
access counters (R355, R356), hoop banks (R229), the write-combining buffer (R237, R415), token buckets (R235, R236), and what
system software sets for ports and contexts through the control port.
-/

namespace Sys2Proof.Machine

/-! ## Invalidation (R339, R340) -/

/-- Whether two ranges share a byte; length 0 names the whole space. -/
def covers (first len a n : Nat) : Bool := len == 0 || (a < first + len && first < a + n)

/-- The context that a stage-1 request names. -/
def State.numbered (s : State) (dev func num : Nat) : Option Nat :=
  (s.ctxs.find? fun (c : Ctx) => c.dev == dev && c.func == func && c.num == num && c.st != .dead).map (·.uid)

/-- Whether a request covers an address of a port's receive window: that of a closed port is gone but for the pages still mapped (R307). -/
def Invalidation.inWindow (r : Invalidation) (p : Port) : Bool :=
  if p.st == .closed then p.window.any fun e => covers r.first r.len e.va e.grant.size
  else p.winSize != 0 && covers r.first r.len p.winBase p.winSize

/-- A request that completes HELD (R339, R354): it covers a byte of a held page, or at stage 1 an address of a receive window. -/
def State.invalHeld (s : State) (r : Invalidation) : Bool :=
  match r.ctx with
  | some u =>
    (s.holds.any fun h => h.ctx == u && covers r.first r.len h.page.toNat h.size) ||
      s.ports.any fun (p : Port) => p.ctx == u && r.inWindow p
  | none =>
    r.code == 0x21 && s.holds.any fun h =>
      match s.ctx? h.ctx with
      | some c => c.dev == r.dev && c.func == r.func && h.size2 != 0 && covers r.first r.len h.ia h.size2
      | none => false

/-- Whether a combined entry was built from an entry that a request covers (R339, R340): its stage-1 leaf; or its stage-2 leaf or that of
a stage-1 table that the walk read, each by the whole of its page. -/
def State.entryCovered (s : State) (r : Invalidation) (e : TlbEntry) : Bool :=
  e.dev == r.dev && ((s.ctx? e.ctx).map (·.func)) == some r.func &&
    match r.code with
    | 0x20 => r.ctx == some e.ctx && covers r.first r.len (e.va / e.size1 * e.size1) e.size1
    | _ => ((e.ia, e.size2) :: e.tables).any fun t => covers r.first r.len (t.1 / t.2 * t.2) t.2

/-- The completion record of a request (R339). -/
def State.completeInval (s : State) (r : Invalidation) (held : Bool) : State :=
  { s with invals := s.invals.filter fun x => x.uid != r.uid }.post r.dev r.func
    [r.word0, if held then Config.statusHeld else 0, 0, 0, 0, 0, 0, 0]

/-- While invalidations of both stages of a function overlap, no entry that joins a new stage-1 leaf to an old stage-2 leaf serves
(R340): what they cover is dropped as the later one is taken. -/
def State.dropMixed (s : State) (r : Invalidation) : State :=
  let open' := s.invals.filter fun x => x.dev == r.dev && x.func == r.func
  if open'.any (·.code != r.code) then s.dropTlb fun e => open'.any fun x => s.entryCovered x e else s

/-- An invalidation request taken (R339), with bits [63:8] of its word 0: one that is HELD completes at once. -/
def State.requestInval (s : State) (dev func code tag : Nat) (ctx : Option Nat) (first len : Nat) : State :=
  let (u, s) := s.fresh
  let r : Invalidation := { uid := u, dev, func, code, ctx, first, len, word0 := .ofNat 64 (tag * 256 + code) }
  if s.invalHeld r then s.completeInval r true else { s with invals := s.invals ++ [r] }.dropMixed r

/-- INVALIDATE_STAGE_1 (R339): request 0x20. -/
def execInvalidateStage1 (s : State) : Host.Outcome State Fault Refusal :=
  match s.turn with
  | .event (.invalidateStage1 dev func tag num first len) =>
    .next (s.requestInval dev func 0x20 tag (s.numbered dev func num) first len)
  | _ => .next s

/-- INVALIDATE_STAGE_2 (R339): request 0x21. -/
def execInvalidateStage2 (s : State) : Host.Outcome State Fault Refusal :=
  match s.turn with
  | .event (.invalidateStage2 dev func tag first len) => .next (s.requestInval dev func 0x21 tag none first len)
  | _ => .next s

/-- INVALIDATION_COMPLETE (R339): the covered entries are dropped on every core, their counts added (R355), the stores that used
them drained, and the record posted. -/
def execInvalidationComplete (s : State) : Host.Outcome State Fault Refusal :=
  match s.turn with
  | .event (.invalidationComplete u) =>
    .next (match s.invals.find? (·.uid == u) with
      | none => s
      | some r =>
        if s.invalHeld r then s.completeInval r true
        else
          let s := s.dropTlb (s.entryCovered r)
          let s := s.drainWhere fun e => e.dev == r.dev && e.bytes.any fun b =>
            (((s.wave? b.wave).bind fun w => s.ctx? w.ctx).map (·.func)) == some r.func
          s.completeInval r false)
  | _ => .next s

/-- ACCESS_COUNT_ADD (R355): an entry of a core's TLB is dropped, or its count has reached 16. -/
def execAccessCountAdd (s : State) : Host.Outcome State Fault Refusal :=
  match s.turn with
  | .event (.accessCountAdd dev core page drop) =>
    .next (match s.tlb.find? fun (e : TlbEntry) => e.dev == dev && e.core == core && e.va == page with
      | some e => if drop || 16 ≤ e.count then s.addCount e drop else s
      | none => s)
  | _ => .next s

/-! ## Frames (R341 to R345) -/

/-- The frames of a device's 1,536 GB (R341). -/
def frameCount : Nat := 23437500

/-- Whether every frame of a range has a code. -/
def State.framesAre (s : State) (dev first count : Nat) (code : BitVec 8) : Bool :=
  first + count ≤ frameCount && (List.range count).all fun i => s.frameCode dev (first + i) == code

/-- The function whose control port a partition's service core answers on: the one that runs (R113). -/
def State.replyPart (s : State) (dev part : Nat) (refused : Bool) : State :=
  s.reply dev (((s.part? dev part).map (·.running)).getD 0) refused

/-- FREE_FRAMES (R342): request 0x24, by a local address; refused whole unless the partition owns every frame. -/
def execFreeFrames (s : State) : Host.Outcome State Fault Refusal :=
  match s.turn with
  | .event (.freeFrames dev part first count) =>
    .next (if first % 65536 == 0 && 1 ≤ part && part ≤ 20 && s.framesAre dev (first / 65536) count (.ofNat 8 part) then
        (s.setFrames dev (first / 65536) count 0xFE).replyPart dev part false
      else s.replyPart dev part true)
  | _ => .next s

/-- ASSIGN_FRAMES (R342): free frames to a partition or to the system, or system frames to scrubbing; `first` is a frame number.
Any other change is refused. -/
def execAssignFrames (s : State) : Host.Outcome State Fault Refusal :=
  match s.turn with
  | .event (.assignFrames dev first count code) =>
    let owner := (1 ≤ code.toNat && code.toNat ≤ 20) || code == 0xFF
    .next (if (owner && s.framesAre dev first count 0) || (code == 0xFE && s.framesAre dev first count 0xFF) then
        s.setFrames dev first count code
      else s)
  | _ => .next s

/-- A system bucket of 14 tokens at the ports that a frame's lines lie at, where none is held yet (R235). -/
def State.withSystem (s : State) (dev frame : Nat) : State :=
  let ports := ((List.range 512).map fun i => agentOf (frame * 65536 + 128 * i)).eraseDups
  let new : List Bucket := ports.map fun port =>
    { dev, port, part := 0, alloc := 14, tokens := 14, lendable := 0, queue := [], window := s.time dev / 1000 }
  { s with buckets := s.buckets ++ new.filter fun b => (s.bucket? dev b.port 0).isNone }

/-- FRAME_SCRUB_COMPLETE (R344): a frame in scrubbing is zeros and free; the work is charged to the system (R235). -/
def execFrameScrubComplete (s : State) : Host.Outcome State Fault Refusal :=
  match s.turn with
  | .event (.frameScrubComplete dev frame) =>
    .next (if s.frameCode dev frame == 0xFE then
        let a := physOf dev (frame * 65536)
        (((s.withSystem dev frame).chargeBytes dev 0 0 a 65536).zeroBytes a 65536).seeWrite a 65536 |>.setFrames dev frame 1 0
      else s)
  | _ => .next s

/-- A lent page leaves the lent table and is scrubbed (R345). -/
def State.endLoan (s : State) (l : Lent) : State :=
  { s with lent := s.lent.filter fun x => !(x == l) }.scrubPage l.dev l.part l.addr l.size

/-- LENT_FRAME_RELEASE (R345): the owning device receives the holder's release. -/
def execLentFrameRelease (s : State) : Host.Outcome State Fault Refusal :=
  match s.turn with
  | .event (.lentFrameRelease dev addr) =>
    .next (match s.lent.find? fun l => l.dev == dev && l.addr == addr && l.released with
      | some l => s.endLoan l
      | none => s)
  | _ => .next s

/-- LENT_FRAME_RECLAIM (R345): the root monitor scrubs every page lent to a device that has restarted or left the fabric domain. -/
def execLentFrameReclaim (s : State) : Host.Outcome State Fault Refusal :=
  match s.turn with
  | .event (.lentFrameReclaim dev holder) =>
    .next ((s.lent.filter fun l => l.dev == dev && l.holder == holder && l.lost).foldl (fun (s : State) l => s.endLoan l) s)
  | _ => .next s

/-! ## Hoop banks (R229) -/

/-- HOOP_BANK_CONTROL (R229): a change of mode is noted. With the mode that the bank has, the request assigns a FIFO to a context or takes it
from one, and a change that waits then waits on; a request that changes neither withdraws the change. -/
def execHoopBankControl (s : State) : Host.Outcome State Fault Refusal :=
  match s.turn with
  | .event (.hoopBankControl dev hoop bank mode ctx) =>
    let b := s.bank dev hoop bank
    let known := (s.parts.any fun (p : Part) => p.dev == dev && p.hoops.contains hoop &&
      match ctx with
      | none => true
      | some u => mode == .fifo && ((s.ctx? u).map fun c => c.dev == dev && c.part == p.num).getD false)
    .next (if !known || 64 ≤ bank then s
      else if b.mode == mode then
        if mode == .fifo && b.owner != ctx then s.setBank { b with owner := ctx }
        else s.setBank { b with pending := none, pendingOwner := none }
      else s.setBank { b with pending := some mode, pendingOwner := ctx })
  | _ => .next s

/-- Whether a change of mode may take effect (R229). -/
def Bank.mayChange (b : Bank) : Bool :=
  match b.mode with
  | .cacheWay => true
  | .scratchpad => b.owner.isNone
  | .fifo => b.fifo.isEmpty && b.owner.isNone

/-- BANK_DRAIN_COMPLETE (R229). -/
def execBankDrainComplete (s : State) : Host.Outcome State Fault Refusal :=
  match s.turn with
  | .event (.bankDrainComplete dev hoop bank) =>
    let b := s.bank dev hoop bank
    .next (match b.pending with
      | some m =>
        if b.mayChange then
          s.setBank { b with mode := m, owner := if m == .fifo then b.pendingOwner else none, fifo := [], pending := none,
                             pendingOwner := none }
        else s
      | none => s)
  | _ => .next s

/-! ## The write-combining buffer (R237, R415) -/

/-- SET_AGEING_TIMER (R237): 250 ns to 64 µs. -/
def execSetAgeingTimer (s : State) : Host.Outcome State Fault Refusal :=
  match s.turn with
  | .event (.setAgeingTimer dev part ns) =>
    .next (if 250 ≤ ns && ns ≤ 64000 then s.updPart dev part fun p => { p with ageing := ns } else s)
  | _ => .next s

/-- The write-combining entry of a line. -/
def State.wcbAt (s : State) (dev core line : Nat) : Option WcbEntry :=
  s.wcb.find? fun (e : WcbEntry) => e.dev == dev && e.core == core && e.line == line

/-- The ageing timer of a core (R237). -/
def State.ageingOf (s : State) (dev core : Nat) : Nat :=
  ((s.parts.find? fun (p : Part) => p.dev == dev && p.hoops.contains (core / 8)).map (·.ageing)).getD 2000

/-- WCB_AGEING_EXPIRE (R237): an entry as old as its timer drains. -/
def execWcbAgeingExpire (s : State) : Host.Outcome State Fault Refusal :=
  match s.turn with
  | .event (.wcbAgeingExpire dev core line) =>
    .next (match s.wcbAt dev core line with
      | some e => if e.born + s.ageingOf dev core ≤ s.time dev then s.drain e (s.drainRefusal e) else s
      | none => s)
  | _ => .next s

/-- Whether a line lies in a frame of a partition with a function in teardown (R415, R426). -/
def State.lineTornDown (s : State) (line : Nat) : Bool :=
  let d := line / 2 ^ 43
  let code := (s.frameCode d (line % 2 ^ 43 / 65536)).toNat
  s.funcs.any fun (f : Func) => f.dev == d && f.part == code && (f.draining || f.tornDown)

/-- WCB_DRAIN_REFUSED (R415): the peer refuses the drain of an entry, by its frame check or as its function is torn down. -/
def execWcbDrainRefused (s : State) : Host.Outcome State Fault Refusal :=
  match s.turn with
  | .event (.wcbDrainRefused dev core line teardown) =>
    .next (match s.wcbAt dev core line with
      | some e =>
        if teardown then (if s.lineTornDown line then s.drain e (some FABRIC_POISON) else s)
        else
          match s.drainRefusal e with
          | some cause => s.drain e (some cause)
          | none => s
      | none => s)
  | _ => .next s

/-! ## Token buckets (R235, R236) -/

/-- TOKEN_ALLOCATION (R235): for one of the 20 partitions at one of the 512 ports; refused when the allocations of the port would sum to
more than 1,386. -/
def execTokenAllocation (s : State) : Host.Outcome State Fault Refusal :=
  match s.turn with
  | .event (.tokenAllocation dev port part tokens) =>
    let others := (s.buckets.filter fun b => b.dev == dev && b.port == port && b.part != part && b.part != 0).map (·.alloc)
    .next (if part = 0 || 20 < part || 512 ≤ port || 1386 < others.sum + tokens then s
      else if (s.bucket? dev port part).isSome then s.updBucket dev port part fun b => { b with alloc := tokens }
      else
        { s with buckets := s.buckets ++
            [{ dev, port, part, alloc := tokens, tokens, lendable := 0, queue := [], window := s.time dev / 1000 }] })
  | _ => .next s

/-- CONTEXT_BUCKET (R235): the buckets of a partition's contexts at a port stay within the partition's allocation. -/
def execContextBucket (s : State) : Host.Outcome State Fault Refusal :=
  match s.turn with
  | .event (.contextBucket u port tokens) =>
    .next (match s.ctx? u with
      | none => s
      | some c =>
        let alloc := ((s.buckets.find? fun (b : Bucket) => b.dev == c.dev && b.port == port && b.part == c.part).map (·.alloc)).getD 0
        let others := (s.ctxs.filter fun (x : Ctx) => x.dev == c.dev && x.part == c.part && x.uid != u).flatMap fun x =>
          (x.buckets.filter fun b => b.1 == port).map fun b => b.2.1
        if alloc < others.sum + tokens then s.replyPart c.dev c.part true
        else
          (s.updCtx u fun c =>
            { c with buckets := (c.buckets.filter fun b => b.1 != port) ++ [(port, tokens, tokens)] }).replyPart c.dev c.part false)
  | _ => .next s

/-- Whether the window of a bucket is over (R235). -/
def State.windowOver (s : State) (b : Bucket) : Bool := b.window < s.time b.dev / 1000

/-- A bucket at the start of a window (R235, R236): refilled, and a partition with no queued request may lend half its allocation. -/
def Bucket.refill (window : Nat) (b : Bucket) : Bucket :=
  { b with tokens := b.alloc, lendable := if b.queue.isEmpty && b.part ≠ 0 then b.alloc / 2 else 0, queue := [], window }

/-- A window of a port begins: the buckets that are not in it yet are refilled, the contexts' own too, what was queued is paid, and lenders
lend to the partitions whose requests still wait (R235, R236). -/
def State.beginWindow (dev port window : Nat) (s : State) : State :=
  let due := s.buckets.filter fun (b : Bucket) => b.dev == dev && b.port == port && b.window < window
  let own := fun (x : Nat × Nat × Nat) => if x.1 == port then (x.1, x.2.1, x.2.1) else x
  let s := { s with
    buckets := s.buckets.map fun (b : Bucket) => if due.contains b then b.refill window else b,
    ctxs := s.ctxs.map fun (c : Ctx) => if c.dev == dev then { c with buckets := c.buckets.map own } else c }
  let s := due.foldl (fun (s : State) b => State.payQueue dev port b.part b.queue s) s
  s.lend dev port (s.lendable dev port)

/-- The windows of a port up to number `last` begun in turn, `n` of them at most before it; where no request waits, the last one alone
shows. -/
def State.beginWindows (dev port last : Nat) : Nat → State → State
  | 0, s => s.beginWindow dev port last
  | n + 1, s =>
    if s.buckets.any fun (b : Bucket) => b.dev == dev && b.port == port && !b.queue.isEmpty then
      State.beginWindows dev port last n (s.beginWindow dev port (last - (n + 1)))
    else s.beginWindow dev port last

/-- TOKEN_WINDOW_REFILL (R235, R236): the windows of 1 µs that have begun at a port since its last. -/
def execTokenWindowRefill (s : State) : Host.Outcome State Fault Refusal :=
  match s.turn with
  | .event (.tokenWindowRefill dev port) =>
    let due := s.buckets.filter fun (b : Bucket) => b.dev == dev && b.port == port && s.windowOver b
    let last := s.time dev / 1000
    .next (if due.isEmpty then s
      else State.beginWindows dev port last (last - 1 - (due.map (·.window)).foldl min last) s)
  | _ => .next s

/-! ## Ports and contexts, through the control port -/

/-- LAUNCH_PORT_CREATE (R310): a launch port for the host, under the checks of PCREATE (R301). -/
def execLaunchPortCreate (s : State) : Host.Outcome State Fault Refusal :=
  match s.turn with
  | .event (.launchPortCreate ctx depth prio) =>
    .next (match s.ctx? ctx with
      | none => s
      | some c =>
        if !portArgsOk c true depth prio 0 0 || c.quota < c.quotaUsed + 128 * depth || s.sliceFull c || c.st == .dead ||
            c.st == .terminating then s.reply c.dev c.func true
        else
          let (u, s) := s.fresh
          let s := s.updCtx ctx fun c => { c with quotaUsed := c.quotaUsed + 128 * depth }
          let s := { s with ports := s.ports ++ [newPort u c.dev ctx true depth prio 0 0] }
          let (_, s) := s.newHandle ctx kPORT u
          s.reply c.dev c.func false)
  | _ => .next s

/-- PORT_WINDOW_PLACE (R310, R419): a port of a context of the function placed in a slot of its window. -/
def execPortWindowPlace (s : State) : Host.Outcome State Fault Refusal :=
  match s.turn with
  | .event (.portWindowPlace dev func slot port) =>
    let ok := slot < 4096 &&
      match (s.port? port).bind fun p => s.ctx? p.ctx with
      | some c => c.dev == dev && c.func == func
      | none => false
    .next (if ok then
        (s.updFunc dev func fun f => { f with slots := (slot, port) :: f.slots.filter fun x => x.1 != slot }).reply dev func false
      else s.reply dev func true)
  | _ => .next s

/-- MSIX_BIND (R416, R419): 2,048 vectors for the physical function, which is function 0, and 64 for each virtual one. -/
def execMsixBind (s : State) : Host.Outcome State Fault Refusal :=
  match s.turn with
  | .event (.msixBind dev func port vector) =>
    let ok := vector < (if func = 0 then 2048 else 64) &&
      match (s.port? port).bind fun p => s.ctx? p.ctx with
      | some c => c.dev == dev && c.func == func
      | none => false
    .next (if ok then (s.updPort port fun p => { p with vector := some vector }).reply dev func false else s.reply dev func true)
  | _ => .next s

/-- WINDOW_UNMAP (R307, R345): a page of a receive window is unmapped; a page lent by another device is released to it. -/
def execWindowUnmap (s : State) : Host.Outcome State Fault Refusal :=
  match s.turn with
  | .event (.windowUnmap port va) =>
    .next (match s.port? port with
      | none => s
      | some p =>
        match p.window.find? fun (e : WinEntry) => e.va ≤ va.toNat && va.toNat < e.va + e.grant.size && !e.granted with
        | none => s
        | some e =>
          let s := s.updPort port fun p => { p with window := p.window.filter fun x => !(x == e) }
          if s.lent.any fun l => l.dev == e.grant.dev && l.addr == e.grant.addr then s.dropGrant (s.portPart p) e.grant else s)
  | _ => .next s

/-- SET_TIME_SLICE (R113): 250 µs to 64 ms. -/
def execSetTimeSlice (s : State) : Host.Outcome State Fault Refusal :=
  match s.turn with
  | .event (.setTimeSlice dev part ns) =>
    .next (if 250000 ≤ ns && ns ≤ 64000000 then (s.updPart dev part fun p => { p with sliceNs := ns }).replyPart dev part false
      else s.replyPart dev part true)
  | _ => .next s

/-- SET_MIGRATION_THRESHOLD (R356): T from 1 to 4,095, and the notification port or none. -/
def execSetMigrationThreshold (s : State) : Host.Outcome State Fault Refusal :=
  match s.turn with
  | .event (.setMigrationThreshold ctx threshold port) =>
    .next (match s.ctx? ctx with
      | none => s
      | some c =>
        if threshold = 0 || 4095 < threshold then s.reply c.dev c.func true
        else (s.updCtx ctx fun c => { c with threshold, migPort := port }).reply c.dev c.func false)
  | _ => .next s

end Sys2Proof.Machine
end

