-- ==== Sys2Proof/Machine/Link.lean ====
section
/-!
DEFINITION. The link: flits and their replay (R402 to R404), routing (R405 to R408), requests without a response (R411 to R413), and the
host links (R310, R418 to R420).
-/

namespace Sys2Proof.Machine

/-! ## Flits (R402, R403) -/

/-- One byte of the CRC-64 of R403: polynomial 0x42F0_E1EB_A9EA_3693, most significant bit first. -/
def crc64Byte (crc : BitVec 64) (b : Byte) : BitVec 64 :=
  (List.range 8).foldl (fun c _ => if c.msb then (c <<< 1) ^^^ 0x42F0E1EBA9EA3693 else c <<< 1) (crc ^^^ (b.setWidth 64 <<< 56))

/-- The CRC-64 of header and payload: initial value 0, no final XOR (R403). -/
def crc64 (bytes : List Byte) : BitVec 64 := bytes.foldl crc64Byte 0

/-- Fields of a header (R402). -/
def hKIND (h : Nat) : Nat := bitsOf h 124 4
def hDST (h : Nat) : Nat := bitsOf h 116 8
def hSRC (h : Nat) : Nat := bitsOf h 108 8
def hGROUP (h : Nat) : Nat := bitsOf h 103 5
def hHOP (h : Nat) : Nat := bitsOf h 100 2
def hTAG (h : Nat) : Nat := bitsOf h 80 16
def hLEN (h : Nat) : Nat := bitsOf h 72 8
def hADDR (h : Nat) : Nat := bitsOf h 0 56

/-- A field of a number set. -/
def setField (h lo n x : Nat) : Nat := h - bitsOf h lo n * 2 ^ lo + x % 2 ^ n * 2 ^ lo

/-- A packet as a flit of 160 bytes with its trailer (R402, R403). The byte order of the CRC is that of the header (log entry 26). -/
def flitOf (header : Nat) (payload : List Byte) (lseq lack : BitVec 12) : List Byte :=
  let body := leBytes header 16 ++ (payload ++ List.replicate (128 - payload.length) 0)
  body ++ leBytes lseq.toNat 2 ++ leBytes lack.toNat 2 ++ leBytes (crc64 body).toNat 8 ++ [0, 0, 0, 0]

/-- Numbers that a flit holds. -/
def flitField (f : List Byte) (i n : Nat) : Nat := ofLeBytes ((f.drop i).take n)
def flitHeader (f : List Byte) : Nat := flitField f 0 16
def flitLseq (f : List Byte) : BitVec 12 := .ofNat 12 (flitField f 144 2)
def flitLack (f : List Byte) : BitVec 12 := .ofNat 12 (flitField f 146 2)
def flitOk (f : List Byte) : Bool := f.length == 160 && flitField f 148 8 == (crc64 (f.take 144)).toNat

/-! ## Ports -/

def State.rimPort? (s : State) (dev port : Nat) : Option RimPort :=
  s.rimPorts.find? fun (p : RimPort) => p.dev == dev && p.port == port
def State.updRim (s : State) (dev port : Nat) (f : RimPort → RimPort) : State :=
  { s with rimPorts := s.rimPorts.map fun (p : RimPort) => if p.dev == dev && p.port == port then f p else p }

/-! ## Virtual channels and input slots (R409, R410) -/

/-- The number of a virtual channel: 8 for each of the 21 groups, a class of requests and one of responses in four hop classes
(R409). -/
def vcOf (h hop : Nat) : Nat := 8 * hGROUP h + 4 * bitsOf h 102 1 + hop

/-- Slots of the shared pool that the channels of a list of channels have taken (R410): each has 4 slots of its own. -/
def RimPort.sharedOf (p : RimPort) (vcs : List Nat) : Nat := (vcs.map fun v => p.slots.count v - 4).sum

/-- Free input slots of a virtual channel (R410): what is left of its 4 reserved slots, and of the 352 shared ones as far as its group
holds fewer than 176. -/
def RimPort.freeFor (p : RimPort) (v : Nat) : Nat :=
  (4 - p.slots.count v) +
    min (352 - p.sharedOf (List.range 168)) (176 - p.sharedOf ((List.range 8).map (v / 8 * 8 + ·)))

/-- The place of a port among the parallel links of its device to one peer (R401). -/
def State.linkRank (s : State) (p : RimPort) : Nat :=
  (s.rimPorts.filter fun (q : RimPort) =>
    q.dev == p.dev && q.peer == p.peer && q.isY == p.isY && q.st != RimState.off && q.port < p.port).length

/-- The port at the other end of a link: parallel links join the ports of both devices in the order of their numbers (log entry 26).
A peer that the state does not hold has none. -/
def State.farPort (s : State) (p : RimPort) : Option RimPort :=
  s.rimPorts.find? fun (q : RimPort) =>
    q.dev == p.peer && q.peer == p.dev && q.isY == p.isY && q.st != RimState.off && s.linkRank q == s.linkRank p

/-- Free downstream slots of a port in a virtual channel, as its credits tell (R410). The credits of a peer outside the state are
whole. -/
def State.downstream (s : State) (dev port v : Nat) : Nat :=
  match s.rimPort? dev port with
  | none => 0
  | some p =>
    match s.farPort p with
    | some q => if q.st == RimState.up then q.freeFor v else 0
    | none => 4 + 176

/-- An input slot of a port taken by a virtual channel (R410). -/
def State.takeSlot (s : State) (dev port v : Nat) : State := s.updRim dev port fun p => { p with slots := v :: p.slots }

/-- An input slot of a port given back (R410). -/
def State.freeSlot (s : State) (dev port v : Nat) : State := s.updRim dev port fun p => { p with slots := p.slots.erase v }

/-- The input slot that a packet holds given back: it has left the device or is taken there. -/
def State.freeInput (s : State) (x : Packet) : State :=
  match x.input with
  | some (port, v) => s.freeSlot x.dev port v
  | none => s

/-- A packet sent at a port when its downstream slot is free (R410) and the replay buffer of 256 flits has room (R404); else it is
held. -/
def State.egress (s : State) (x : Packet) (port : Nat) : State :=
  match s.rimPort? x.dev port with
  | some p =>
    let v := vcOf x.header.toNat (hHOP x.header.toNat)
    if p.st == .up && p.replay.length < 256 && 0 < s.downstream x.dev port v then
      let s := (s.freeInput x).updRim x.dev port fun p =>
        { p with replay := p.replay ++ [flitOf x.header.toNat x.payload p.lseq (p.expect - 1)], lseq := p.lseq + 1 }
      match s.farPort p with
      | some q => s.takeSlot q.dev q.port v
      | none => s
    else { s with packets := s.packets ++ [{ x with port := some port }] }
  | none => s.freeInput x

/-! ## Routing (R405 to R407) -/

/-- The best of a list of ports: most free slots, then the shortest queue, then the lowest number (R405). -/
def bestPort (free queued : Nat → Nat) (ports : List Nat) : Option Nat :=
  ports.foldl (fun best p => match best with
    | none => some p
    | some b =>
      if free p > free b || (free p == free b && (queued p < queued b || (queued p == queued b && p < b))) then some p else some b)
    none

/-- The trained ports of a device in a dimension to a peer. -/
def portsTo (ports : List RimPort) (dev peer : Nat) (isY : Bool) : List Nat :=
  (ports.filter fun (p : RimPort) => p.dev == dev && p.peer == peer && p.isY == isY && p.st == .up).map (·.port)

/-- The egress of a packet at a device: the port and the header with its new hop class (R405 to R407). `free p c` is the number of
free downstream slots of port `p` in hop class `c`. -/
def routePacket (ports : List RimPort) (dev h : Nat) (free : Nat → Nat → Nat) (queued : Nat → Nat) : Option (Nat × Nat) :=
  let dst := hDST h
  let isY := dst % 16 == dev % 16
  let target := if isY then dst else dev / 16 * 16 + dst % 16
  let cls := if isY then 3 else 1
  let flag := if isY then 97 else 98
  let minimal := portsTo ports dev target isY
  let crowded := minimal.all fun p => free p cls < 4 || 48 < queued p
  let mids := ((ports.filter fun (p : RimPort) => p.dev == dev && p.isY == isY && p.st == .up && p.peer != target).map (·.peer)).eraseDups
  let midFree (m : Nat) : Nat := ((portsTo ports dev m isY).map fun p => free p (cls - 1)).foldl max 0
  let detour := crowded && !bitAt h flag && hHOP h ≤ cls - 1
  match if detour then bestPort midFree (fun _ => 0) mids else none with
  | some m =>
    (bestPort (free · (cls - 1)) queued (portsTo ports dev m isY)).map fun p => (p, setField (setField h 100 2 (cls - 1)) flag 1 1)
  | none => (bestPort (free · cls) queued minimal).map fun p => (p, setField h 100 2 cls)

/-- A packet routed at its device by the free downstream slots of its virtual channel (R405, R410); without a route it is dropped
(R413). -/
def State.forward (s : State) (x : Packet) : State :=
  let free := fun p c => s.downstream x.dev p (vcOf x.header.toNat c)
  let queued := fun p => (s.packets.filter fun y => y.dev == x.dev && y.port == some p).length
  match routePacket s.rimPorts x.dev x.header.toNat free queued with
  | some (p, h) => s.egress { x with header := .ofNat 128 h } p
  | none => s.freeInput x

/-! ## Requests (R412, R414) -/

/-- A request completes poisoned (R412): its wave traps FABRIC_POISON at its next boundary, its copy stops, its census aborts. -/
def State.poisonReq (s : State) (r : RimReq) : State :=
  let s := { s with rimReqs := s.rimReqs.filter fun x => !(x == r) }
  let s := if r.wave = 0 then s else s.updWave r.wave fun w => { w with poisonWait := true }
  let s := match s.copy? r.copy with
    | some c => s.poisonCopy c
    | none => s
  if r.census = 0 then s else s.abortCensus r.census

/-- A request of a tag answered: a response ends it, a hold response restarts its 1 ms, and a poisoned one completes it poisoned
(R402, R412). -/
def State.respond (s : State) (dev tag : Nat) (hold poison : Bool) : State :=
  match s.rimReqs.find? fun (r : RimReq) => r.dev == dev && r.tag == tag with
  | none => s
  | some r =>
    if hold then { s with rimReqs := s.rimReqs.map fun x => if x == r then { x with issued := s.time dev } else x }
    else if poison then s.poisonReq r
    else { s with rimReqs := s.rimReqs.filter fun x => !(x == r) }

/-- REQUEST_TIMEOUT (R412). -/
def execRequestTimeout (s : State) : Host.Outcome State Fault Refusal :=
  match s.turn with
  | .event (.requestTimeout dev tag) =>
    .next (match s.rimReqs.find? fun (r : RimReq) => r.dev == dev && r.tag == tag with
      | none => s
      | some r =>
        if s.reachable dev r.dst then s.respond dev tag false false
        else if r.issued + 1000000 ≤ s.time dev then s.poisonReq r else s)
  | _ => .next s

/-- Whether the member context that a transfer's request waits for is being torn down (R412, R426). -/
def State.holderDrains (s : State) (r : RimReq) : Bool :=
  match ((s.copy? r.copy).bind (·.peerWait)).bind fun w => s.ctx? w.1 with
  | some c => c.st == .terminating || c.st == .dead || ((s.func? c.dev c.func).map fun f => f.draining || f.tornDown).getD true
  | none => false

/-- HOLD_RESPONSE (R412): a target that is parked, down or being torn down sends none. -/
def execHoldResponse (s : State) : Host.Outcome State Fault Refusal :=
  match s.turn with
  | .event (.holdResponse dev tag) =>
    .next (match s.rimReqs.find? fun (r : RimReq) => r.dev == dev && r.tag == tag with
      | none => s
      | some r => if s.reachable dev r.dst && !s.holderDrains r then s.respond dev tag true false else s)
  | _ => .next s

/-- A packet of a device's own, routed. -/
def State.sendPacket (s : State) (dev header : Nat) (payload : List Byte) : State :=
  s.forward { dev, header := .ofNat 128 header, payload, port := none, input := none }

/-- The header of the response to a request (R402, R409): data or none. -/
def responseHeader (h : Nat) (data poison : Bool) : Nat :=
  (if data then 3 else 4) * 2 ^ 124 + hSRC h * 2 ^ 116 + hDST h * 2 ^ 108 + hGROUP h * 2 ^ 103 + 2 ^ 102 +
    (if poison then 2 ^ 99 else 0) + hTAG h * 2 ^ 80 + (if data then hLEN h * 2 ^ 72 else 0) + hADDR h

/-- A packet delivered at its destination: reads and writes are performed at the home agent after the check of R343, responses end
their requests; what answers a poisoned request is poisoned too (R31, R399). The payloads of the other kinds, an atomic's among them, have
no layout in the manual and are handed to their engine as they are (log entry 26). -/
def State.deliverPacket (s : State) (dev h : Nat) (payload : List Byte) : State :=
  let n := 8 * hLEN h
  let a := physOf dev (hADDR h % 2 ^ 43)
  let ok := s.ownerInDomain (hSRC h) (hGROUP h) a
  let s := if ok && hKIND h < 2 then s.moved dev (s.frameCode dev (a % 2 ^ 43 / 65536)).toNat 0 a n else s
  match hKIND h with
  | 0 =>
    if ok then s.sendPacket dev (responseHeader h true (bitAt h 99 || s.poisonedMem a n)) (Memory.readBytes s.mem a n)
    else s.sendPacket dev (responseHeader h false (bitAt h 99)) []
  | 1 =>
    let s := if ok then
        let s := s.writePhys a (payload.take n)
        if bitAt h 99 then { s with poison := s.poison ++ (List.range (hLEN h)).map fun i => .memWord ((a / 8 + i) * 8) } else s
      else s
    s.sendPacket dev (responseHeader h false (bitAt h 99)) []
  | 3 => s.respond dev (hTAG h) false (bitAt h 99)
  | 4 => s.respond dev (hTAG h) (hLEN h == 0 && hADDR h == 2 ^ 56 - 1) (bitAt h 99)
  | _ => { s with packets := s.packets ++ [{ dev, header := .ofNat 128 h, payload, port := none, input := none }] }

/-! ## Receiving (R402 to R404) -/

/-- The flits of a replay buffer that an acknowledgement releases (R404): up to the one that it names. -/
def acknowledged (replay : List (List Byte)) (lack : BitVec 12) : List (List Byte) :=
  if replay.any fun f => flitLseq f == lack then (replay.dropWhile fun f => flitLseq f != lack).drop 1 else replay

/-- Packets held for a port sent, in their order, as its credits and its replay buffer allow (R404, R410). -/
def State.sendHeld (s : State) (dev port : Nat) : State :=
  let mine := fun (x : Packet) => x.dev == dev && x.port == some port
  (s.packets.filter mine).foldl (fun (s : State) x => s.egress x port) { s with packets := s.packets.filter fun x => !mine x }

/-- Every held packet that credits allow goes on: returned credits reach the senders as time passes (R410). -/
def State.moveHeld (s : State) : State :=
  s.rimPorts.foldl (fun (s : State) p => if p.st == RimState.up then s.sendHeld p.dev p.port else s) s

/-- A flit accepted in its order (R402): delivered, routed on, or dropped with an error counted. It holds an input slot of its virtual
channel, which its sender's credit took, until it leaves the device (R410). -/
def State.acceptFlit (s : State) (dev port : Nat) (f : List Byte) : State :=
  let h := flitHeader f
  let v := vcOf h (hHOP h)
  let s := s.updRim dev port fun p => { p with expect := p.expect + 1, resync := false, fails := 0 }
  let s := if ((s.rimPort? dev port).bind s.farPort).isSome then s else s.takeSlot dev port v
  if 9 < hKIND h || 16 < hLEN h then (s.freeSlot dev port v).updRim dev port fun p => { p with errors := p.errors + 1 }
  else if hDST h = dev then (s.freeSlot dev port v).deliverPacket dev h ((f.drop 16).take 128)
  else s.forward { dev, header := .ofNat 128 h, payload := (f.drop 16).take 128, port := none, input := some (port, v) }

/-- A flit that fails its CRC (R404): it and every later one are dropped until it comes again; the 16th failure in turn retrains
the port. -/
def State.rejectFlit (s : State) (dev port : Nat) : State :=
  s.updRim dev port fun p =>
    if p.fails + 1 = 16 then { p with st := .training, fails := 0, since := s.time dev }
    else { p with resync := true, fails := p.fails + 1 }

/-- FLIT_RECEIVE (R402 to R404). -/
def execFlitReceive (s : State) : Host.Outcome State Fault Refusal :=
  match s.turn with
  | .event (.flitReceive dev port f) =>
    .next (match s.rimPort? dev port with
      | none => s
      | some p =>
        if p.st != .up then s
        else if !flitOk f then (if p.resync && flitLseq f != p.expect then s else s.rejectFlit dev port)
        else
          let s := s.updRim dev port fun p => { p with replay := acknowledged p.replay (flitLack f) }
          let s := s.sendHeld dev port
          if flitLseq f == p.expect then s.acceptFlit dev port f else s)
  | _ => .next s

/-- The flits of a replay buffer that the far end has not accepted (R404). -/
def State.inFlight (s : State) (p : RimPort) : List (List Byte) :=
  match s.farPort p with
  | some q => p.replay.filter fun f => (flitLseq f - q.expect).toNat < 2048
  | none => p.replay

/-- A rim port goes down and what is held for it, and its flits that the far end has not accepted, are routed again (R413); its link starts
from sequence number 0 when it is trained again. -/
def State.takeDown (s : State) (p : RimPort) (flying : List (List Byte)) : State :=
  let sent := flying.map fun f =>
    ({ dev := p.dev, header := .ofNat 128 (flitHeader f), payload := (f.drop 16).take 128, port := none, input := none } : Packet)
  let s := match s.farPort p with
    | some q => flying.foldl (fun (s : State) f => s.freeSlot q.dev q.port (vcOf (flitHeader f) (hHOP (flitHeader f)))) s
    | none => s
  let mine := fun (x : Packet) => x.dev == p.dev && x.port == some p.port
  let held := sent ++ s.packets.filter mine
  let down := fun (p : RimPort) =>
    if p.st == .off then p else { p with st := .down, replay := [], lseq := 0, expect := 0, again := false, full := false }
  let s := s.updRim p.dev p.port down
  let s := { s with packets := s.packets.filter fun x => !mine x }
  held.foldl (fun (s : State) x => s.forward { x with port := none }) s

/-- Rim ports go down together: what each has in flight is judged before either end of a link has forgotten it. -/
def State.takeDowns (s : State) (ps : List RimPort) : State :=
  (ps.map fun p => (p, s.inFlight p)).foldl (fun (s : State) x => s.takeDown x.1 x.2) s

/-- Both ends of a link go down. -/
def State.linkDown (s : State) (p : RimPort) : State := s.takeDowns (p :: (s.farPort p).toList)

/-- A device with all its dies joined and no port of its map in training, or in a full retrain, has full function (R427). -/
def State.tryFull (s : State) (dev : Nat) : State :=
  let trains := s.rimPorts.any fun (p : RimPort) => p.dev == dev && (p.st == .training || p.full)
  s.updDev dev fun d => if d.stage == .stageB && d.dies.length = 8 && !trains then { d with stage := .full } else d

/-- PORT_DOWN (R404, R413, R436): a port that has not trained again in 10 ms is down, and the far end of its link with it; the packets held
for them are routed again. Where its stored parameters were tried at a start or at a request, a full retrain follows. -/
def execPortDown (s : State) : Host.Outcome State Fault Refusal :=
  match s.turn with
  | .event (.portDown dev port) =>
    .next (match s.rimPort? dev port with
      | none => s
      | some p =>
        if p.st != .training || p.full || s.time dev < p.since + 10000000 then s
        else
          let s := s.linkDown p
          let s := if p.again then s.updRim dev port fun x => { x with full := true, since := s.time dev } else s
          s.tryFull dev)
  | _ => .next s

/-! ## The port map and training (R24, R401, R404, R436) -/

/-- PORT_MAP_WRITE (R401): the port has an entry and trains, from its stored parameters first (R428). -/
def execPortMapWrite (s : State) : Host.Outcome State Fault Refusal :=
  match s.turn with
  | .event (.portMapWrite dev port peer isY) =>
    .next (if 32 ≤ port then s
      else
        { s with rimPorts := (s.rimPorts.filter fun (p : RimPort) => !(p.dev == dev && p.port == port)) ++
            [{ dev, port, peer, isY, st := .training, lseq := 0, expect := 0, replay := [], errors := 0, fails := 0, resync := false,
               since := s.time dev, slots := [], again := true, full := false }] })
  | _ => .next s

/-- The port that the fixed map of a 16 × 16 pod gives a peer in a dimension (R26, R401). -/
def fixedPort (dev peer : Nat) (isY : Bool) : Nat :=
  let (mine, other) := if isY then (dev / 16, peer / 16) else (dev % 16, peer % 16)
  (if isY then 15 else 0) + (if other < mine then other else other - 1)

/-- Whether a map entry joins row peers in X or column peers in Y inside the pod (R400, R401), in a 16 × 16 pod on the port that the
fixed map names. -/
def State.mapOk (s : State) (p : RimPort) : Bool :=
  p.peer != p.dev && p.peer % 16 < s.podW && p.peer / 16 < s.podH && p.dev % 16 < s.podW && p.dev / 16 < s.podH &&
    (if p.isY then p.peer % 16 == p.dev % 16 else p.peer / 16 == p.dev / 16) &&
    (!(s.podW == 16 && s.podH == 16) || p.port == fixedPort p.dev p.peer p.isY)

/-- A device behind the largest counter among its trained peers steps forward to it, and every timer of the device whose deadline the
step passes fires at once (R24). -/
def State.alignTime (s : State) (dev : Nat) : State :=
  let peers := (s.rimPorts.filter fun (p : RimPort) => p.dev == dev && p.st == .up).map fun p => s.time p.peer
  let old := s.time dev
  let s := s.updDev dev fun d => { d with time := peers.foldl max d.time }
  let now := s.time dev
  if now = old then s
  else (s.timers.filter fun (x : Timer) => x.dev == dev && x.armed && x.deadline.toNat ≤ now).foldl (fun (s : State) x => s.fireTimer x) s

/-- A device and every trained peer of it exchange their time bases (R24). -/
def State.exchangeTime (s : State) (dev : Nat) : State :=
  (s.rimPorts.filter fun (p : RimPort) => p.dev == dev && p.st == .up).foldl (fun (s : State) p => s.alignTime p.peer) (s.alignTime dev)

/-- Whether the other end of a link can lock (R24, R430): its device is on and not parked, and its port is up or trains, or with `down` is down
and is taken along. A device that the state does not hold always can. -/
def State.peerReady (s : State) (p : RimPort) (down : Bool) : Bool :=
  match s.dev? p.peer with
  | none => true
  | some d =>
    d.answers && !d.iodError &&
      match s.farPort p with
      | some q => s.mapOk q && !q.full && (q.st == .up || q.st == .training || (down && q.st == .down))
      | none => false

/-- A link locks when its other end can: both ports are up, and the devices exchange their time bases (R24). -/
def State.lockLink (s : State) (p : RimPort) (down : Bool) : State :=
  if !s.peerReady p down then s
  else
    let up := fun (x : RimPort) => { x with st := .up, fails := 0, resync := false, again := false, full := false }
    let s := s.updRim p.dev p.port up
    let s := match s.farPort p with
      | some q => if q.st == RimState.up then s else s.updRim q.dev q.port up
      | none => s
    ((s.exchangeTime p.dev).tryFull p.dev).tryFull p.peer

/-- A port that is down trains: from its stored parameters, and then fully when they do not lock (R436). -/
def RimPort.tryAgain (p : RimPort) (now : Nat) : RimPort :=
  if p.st == .down && !p.full then { p with st := .training, again := true, since := now } else p

/-- PORT_RETRAIN_REQUEST (R436): a down port trains again, and the far end of its link where that device is on and not parked. -/
def execPortRetrainRequest (s : State) : Host.Outcome State Fault Refusal :=
  match s.turn with
  | .event (.portRetrainRequest dev port) =>
    .next (match s.rimPort? dev port, s.dev? dev with
      | some p, some d =>
        if !d.answers || d.iodError || p.st != .down || p.full then s
        else
          let s' := s.updRim dev port fun p => p.tryAgain (s.time dev)
          match s.farPort p with
          | some q =>
            if ((s.dev? q.dev).map fun d => d.answers && !d.iodError).getD false then
              s'.updRim q.dev q.port fun q => q.tryAgain (s.time q.dev)
            else s'
          | none => s'
      | _, _ => s)
  | _ => .next s

/-! ## Host links (R310, R418 to R420, R430) -/

/-- HDM_RANGE (R418): one of 20 ranges. -/
def execHdmRange (s : State) : Host.Outcome State Fault Refusal :=
  match s.turn with
  | .event (.hdmRange dev range part base size) =>
    .next (if 20 ≤ range then s
      else s.updDev dev fun d => { d with hdm := (range, part, base, size) :: d.hdm.filter fun x => x.1 != range })
  | _ => .next s

/-- HOST_CXL_MEM_ACCESS (R418, R343, R430): every frame belongs to the partition of the range; a failing access returns no data
and writes nothing. -/
def execHostCxlMemAccess (s : State) : Host.Outcome State Fault Refusal :=
  match s.turn with
  | .event (.hostCxlMemAccess dev range addr len data) =>
    .next (match s.dev? dev with
      | none => s
      | some d =>
        let n := (data.map (·.length)).getD len
        let ok := d.answers && (match d.hdm.find? fun x => x.1 == range with
          | some (_, part, base, size) =>
            base ≤ addr && addr + n ≤ base + size && 1 ≤ part && part ≤ 20 &&
              (List.range n).all fun i => s.frameCode dev ((addr + i) / 65536) == .ofNat 8 part
          | none => false)
        if !ok then s.updDev dev fun d => { d with reply := [] }
        else
          let a := physOf dev addr
          let s := s.moved dev (s.frameCode dev (a % 2 ^ 43 / 65536)).toNat 0 a n
          match data with
          | some bytes => s.writePhys a bytes
          | none => s.updDev dev fun d => { d with reply := Memory.readBytes s.mem a len })
  | _ => .next s

/-- HOST_SNOOP (R248, R420): the host snoops a line of its memory that the device may hold, and stores to it; a snoop alone stores no
bytes. The device answers; no line is cached in the model (log entry 7). -/
def execHostSnoop (s : State) : Host.Outcome State Fault Refusal :=
  match s.turn with
  | .event (.hostSnoop _ addr data) =>
    .next (if data.isEmpty || 2 ^ 51 < addr + data.length then s else s.writePhys (hostBase + addr) data)
  | _ => .next s

/-- A host write that is discarded and reported as an error to the function (R310). -/
def State.hostError (s : State) (dev func : Nat) : State := s.updFunc dev func fun f => { f with errors := f.errors + 1 }

/-- A host write of `words` to a slot that takes writes of `n` words: launch ports 16, others 8 (R310, R426, R430). -/
def State.hostWrite (s : State) (dev func slot n : Nat) (words : List Word) : State :=
  match s.func? dev func with
  | none => s
  | some f =>
    if f.draining || f.tornDown then s
    else
      match ((f.slots.find? (·.1 == slot)).map (·.2)).bind s.port? with
      | none => s.hostError dev func
      | some p =>
        let drop := fun (p : Port) => { p with drops := min 511 (p.drops + 1) }
        if ((s.dev? dev).map (·.parked)).getD false then s.updPort p.uid drop
        else if s.shut p || words.length ≠ n || n ≠ (if p.launch then 16 else 8) then s.hostError dev func
        else if p.freeSlots = 0 then s.updPort p.uid drop
        else s.enqueue p.uid (.own words)

/-- HOST_PORT_WRITE (R310): 64 bytes. -/
def execHostPortWrite (s : State) : Host.Outcome State Fault Refusal :=
  match s.turn with
  | .event (.hostPortWrite dev func slot words) => .next (s.hostWrite dev func slot 8 words)
  | _ => .next s

/-- HOST_LAUNCH_WRITE (R310): 128 bytes. -/
def execHostLaunchWrite (s : State) : Host.Outcome State Fault Refusal :=
  match s.turn with
  | .event (.hostLaunchWrite dev func slot words) => .next (s.hostWrite dev func slot 16 words)
  | _ => .next s

/-- Words that a host read returns. -/
def State.hostAnswer (s : State) (dev func : Nat) (ws : List Word) : State := s.updFunc dev func fun f => { f with answer := ws }

/-- HOST_PORT_READ (R419): the head message, or ones. Grants are given up, and so is a reply that the host cannot send
(log entry 27). -/
def execHostPortRead (s : State) : Host.Outcome State Fault Refusal :=
  match s.turn with
  | .event (.hostPortRead dev func slot bytes) =>
    .next (match s.func? dev func with
      | none => s
      | some f =>
        let ones := s.hostAnswer dev func (List.replicate 8 (BitVec.allOnes 64))
        match ((f.slots.find? (·.1 == slot)).map (·.2)).bind s.port? with
        | none => ones
        | some p =>
          match p.queue with
          | [] => ones
          | m :: _ =>
            if bytes ≠ 64 || p.launch || p.st == .closed || ((s.dev? dev).map (·.parked)).getD false then ones
            else ((s.dequeue p.uid m).discardMsg (s.portPart p) m).hostAnswer dev func m.words)
  | _ => .next s

/-! ## Errors of the IOD (R31) -/

/-- A flit with its data marked poisoned (R402, R403). -/
def poisonFlit (f : List Byte) : List Byte :=
  flitOf (flitHeader f ||| 2 ^ 99) ((f.drop 16).take 128) (flitLseq f) (flitLack f)

/-- Whether a request or its response passes a device on its minimal route, X first and then Y (R405). -/
def RimReq.passes (r : RimReq) (dev : Nat) : Bool :=
  r.dev == dev || r.dst == dev || r.dev / 16 * 16 + r.dst % 16 == dev || r.dst / 16 * 16 + r.dev % 16 == dev

/-- Whether a request or its response may pass a device by a detour (R406): in the row that it leaves, or the column that it arrives in. -/
def RimReq.mayPass (r : RimReq) (dev : Nat) : Bool :=
  r.dev / 16 == dev / 16 || r.dst % 16 == dev % 16 || r.dst / 16 == dev / 16 || r.dev % 16 == dev % 16

/-- The packets in flight through a device's IOD are poisoned: those that it holds and those that its links, in both directions, have not
delivered. -/
def State.poisonPackets (s : State) (dev : Nat) : State :=
  { s with
    packets := s.packets.map fun (x : Packet) => if x.dev == dev then { x with header := x.header ||| 1 <<< 99 } else x,
    rimPorts := s.rimPorts.map fun (p : RimPort) =>
      if p.dev == dev || p.peer == dev then
        { p with replay := p.replay.map fun f => if (s.inFlight p).contains f then poisonFlit f else f }
      else p }

/-- IOD_UNCORRECTABLE_ERROR (R31): packets in flight are poisoned, what waits on one completes poisoned, and the event is reported
through the physical function by a record of no stated contents (log entry 2). Whether a request that may have taken a detour was in
the device is a free value. -/
def execIodUncorrectableError (s : State) : Host.Outcome State Fault Refusal :=
  match s.turn with
  | .event (.iodUncorrectableError dev) =>
    let s := (s.updDev dev fun d => { d with iodError := true }).poisonPackets dev
    let (m, s) := s.draw
    let through := fun (r : RimReq) => r.passes dev || (r.mayPass dev && (Config.undef64 m r.tag).toNat % 2 == 1)
    let s := (s.rimReqs.filter through).foldl (fun (s : State) r => s.poisonReq r) s
    let waits := s.copies.filter fun (c : Copy) => c.st == CopyState.started &&
      match c.peerWait with
      | some (x, _, _) => c.dev == dev || ((s.ctx? x).map (·.dev)) == some dev
      | none => false
    let s := waits.foldl (fun (s : State) c => s.poisonCopy c) s
    let (n, s) := s.draw
    .next (s.post dev 0 ((List.range 8).map (Config.undef64 n)))
  | _ => .next s

end Sys2Proof.Machine
end

