-- ==== Sys2Proof/Machine/Region.lean ====
section
/-!
DEFINITION. Idempotent regions (R349 to R354): IRB, IRC, and the answers to page requests.
-/

namespace Sys2Proof.Machine

/-- IRB (R350). -/
def execIrb (d : SReg) (s : State) : Host.Outcome State Fault Refusal :=
  (runOp · s) do
    let w := (← get).cw
    if w.level = .handler || w.region.isSome then trap REGION_ILLEGAL
    laneWait
    modify fun s => { s with cw := { s.cw with region := some { irb := s.cw.pc, buf := [] } } }
    result d (.ofNat 64 w.replays)

/-- The buffered bytes of one line of 128 bytes. -/
def lineBytes (buf : List Host.Cell) (line : Nat) : List Host.Cell := buf.filter fun c => c.1 / 128 == line

/-- One buffered line translated and checked, without the region's leave to buffer at a write-blocked page (R352, R357). -/
def checkLine (line : Nat) : Op (Nat × Resolved) := do
  let s ← get
  let w := s.cw
  let first := ((lineBytes ((w.region.map (·.buf)).getD []) line).map (·.1)).foldl min (128 * line + 127)
  let (r, s) := s.locate { w with region := none } .store first 1
  set s
  match r with
  | .bad t => throw (.trap t)
  | r => pure (first, r)

/-- The buffered bytes of a line written where its first one was found to lie, `first` being that one's generic address: to memory as
one write, through the write-combining buffer, or to a scratchpad (R352). -/
def State.storeLine (s : State) (first : Nat) (l : Loc) (bytes : List Host.Cell) : State :=
  let cells := bytes.map fun b => (b.1 % 128, b.2)
  match l with
  | .phys p _ =>
    let who := s.whoOf s.cw
    let line := p / 128 * 128
    if isPeer who.dev p then s.wcbMerge who s.cw.uid false line cells
    else (s.writeLine line cells).hbm who p cells.length
  | .scratch t off => s.writeScratchCells t s.cw.uid (cells.map fun b => (off - first % 128 + b.1, b.2))
  | .fifo _ => s

/-- The checked lines of a region in the order of their writes, which is open where two of them lie on one line (R352). -/
def lineOrder (checked : List (Nat × Resolved)) : Op (List (Nat × Resolved)) := do
  let spots := checked.map fun c => match c.2 with
    | .ok l => (l.spot.1, l.spot.2 / 128 * 128)
    | _ => (0, c.1)
  if overlaps 128 spots then
    let n ← draw
    pure ((freeOrder n (List.range checked.length)).filterMap fun i => checked[i]?)
  else pure checked

/-- IRC (R352): every line is checked before any is written. -/
def execIrc (s : State) : Host.Outcome State Fault Refusal :=
  (runOp · s) do
    match (← get).cw.region with
    | none => trap REGION_ILLEGAL
    | some r => do
      laneWait
      let checked ← (regionLines r.buf).mapM checkLine
      if checked.any fun c => c.2 == .blocked then stall
      let ordered ← lineOrder checked
      modify fun s =>
        let s := ordered.foldl (fun (s : State) c =>
          match c.2 with
          | .ok l => s.storeLine c.1 l (lineBytes r.buf (c.1 / 128))
          | _ => s) s
        { s.dropHolds s.cw.uid with cw := { s.cw with region := none, replays := 0 } }

/-- Whether a wave waits for a page, `size` bytes about an address (R353). -/
def Wave.waitsForPage (w : Wave) (ctx : Nat) (va : Word) (size : Nat) : Bool :=
  w.ctx == ctx &&
    match w.pageWait with
    | some a => a.toNat / size == va.toNat / size
    | none => false

/-- Whether a transfer waits for a page of a peer's member context (R368). -/
def Copy.waitsAt (c : Copy) (ctx : Nat) (va : Word) (size : Nat) : Bool :=
  match c.peerWait with
  | some (x, page, _) => x == ctx && page / size == va.toNat / size
  | none => false

/-- The leaves of both stages that map an address of a context: the pages by virtual and by intermediate address, and their sizes. An
address that the tables do not map is one page of 4 KiB. -/
def State.leavesAt (s : State) (ctx va : Nat) : Hold :=
  let w := s.engineOf ctx
  let none' : Hold := { ctx, wave := 0, page := .ofNat 64 (va / 4096 * 4096), size := 4096, ia := 0, size2 := 0 }
  match walk1 s w va 4 w.root1 with
  | .error _ => none'
  | .ok (l1, _, _) =>
    let h := { none' with page := .ofNat 64 (va / l1.size * l1.size), size := l1.size }
    match walk2 s w.dev l1.addr 3 w.root2 with
    | .error _ => h
    | .ok l2 => { h with ia := l1.addr / l2.size * l2.size, size2 := l2.size }

/-- PAGE_READY (R353, R354): request 0x22. The page, with its whole size, is held for each wave that waits for it, and the wave goes on at
its IRB. -/
def execPageReady (s : State) : Host.Outcome State Fault Refusal :=
  match s.turn with
  | .event (.pageReady ctx va) =>
    let h := s.leavesAt ctx va.toNat
    let mine := s.allWaves.filter fun w => w.waitsForPage ctx va h.size
    let s := s.mapWaves (fun w => w.waitsForPage ctx va h.size) fun w =>
      { w with pageWait := none, replays := w.replays + 1, st := if w.st = .waiting then .resident else w.st }
    let s := s.updCtx ctx fun c =>
      { c with counters := { c.counters with replays := c.counters.replays + .ofNat 64 mine.length } }
    .next { s with
      holds := s.holds ++ mine.map fun w => { h with wave := w.uid },
      copies := s.copies.map fun (c : Copy) => if c.waitsAt ctx va h.size then { c with peerWait := none } else c }
  | _ => .next s

/-- PAGE_REFUSED (R353, R368): request 0x23. Each wave that waits for the page traps PAGE_FAULT with REASON 6 and RGN; a transfer
that waits for it at this peer stops. -/
def execPageRefused (s : State) : Host.Outcome State Fault Refusal :=
  match s.turn with
  | .event (.pageRefused ctx va) =>
    let s := s.mapWaves (fun w => w.waitsForPage ctx va 4096) fun w =>
      let t : Trap := { cause := PAGE_FAULT, addr := w.pageWait.getD 0, info := w.pageInfo ||| .ofNat 64 (2 ^ 48 + 6 * 2 ^ 44),
                        boundary := true, seq := w.seq }
      { w with pageWait := none, st := if w.st = .waiting then .resident else w.st, pending := w.pending ++ [t],
               seq := w.seq + 1 }
    let refuse := fun (c : Copy) => if c.waitsAt ctx va 4096 then { c with peerWait := some (ctx, va.toNat, true) } else c
    .next { s with copies := s.copies.map refuse }
  | _ => .next s

/-- HOLD_REPORT (R354): the pages that are held for a context's waves. -/
def execHoldReport (s : State) : Host.Outcome State Fault Refusal :=
  match s.turn with
  | .event (.holdReport ctx) =>
    match s.ctx? ctx with
    | some c =>
      let pages := (s.holds.filter fun h => h.ctx == ctx).map (·.page)
      .next (s.updFunc c.dev c.func fun f => { f with answer := pages })
    | none => .next s
  | _ => .next s

end Sys2Proof.Machine
end

