-- ==== Sys2Proof/Machine/Return.lean ====
section
/-!
DEFINITION. The return from the handler (R391, R393): TRET and TRET.SKIP.
-/

namespace Sys2Proof.Machine

/-- The scalar resumption of R391, for TRET or TRET.SKIP, where HPC was not redirected. A transfer's FABRIC_POISON that abandoned a wait is
passed over with it, as row 0x70 says of both (DEDUCED, log entry 60). -/
def State.resumption (s : State) (skip : Bool) : Word :=
  let w := s.cw
  match w.trapIrb with
  | some irb => irb
  | none =>
    if w.causeCode = POOL_EXEC then
      match skip, s.kernelOf w with
      | true, some k =>
        if k.dataLine w.haddr.toNat then .ofNat 64 (k.afterPools w.haddr.toNat (k.swords / 8 + 1)) else w.haddr + 4
      | _, _ => w.haddr
    else if w.causeLane || (w.causeXfer && w.causeCode ≠ FABRIC_POISON) then w.hpc
    else if w.trapBoundary || w.causeXfer then
      if skip && w.abandoned.isSome then w.hpc + 4 else w.hpc
    else if skip then w.hpc + 4 else w.hpc

/-- The trapping path of a lane trap passes over its word, or issues it again (R391); after FP_TRAP it has moved on. -/
def Wave.resumeLane (w : Wave) (skip : Bool) : Wave :=
  if w.causeLane && skip && w.causeCode ≠ FP_TRAP && w.trapIrb.isNone then
    let stall := bitsOf w.trapWord 92 4
    let f := fun (p : Path) =>
      { p with lpc := p.lpc + 1, fixed := p.fixed.map fun x => { x with left := x.left - (stall + 1) } }
    { w with held := { w.held with paths := updBy Path.id w.trapPath f w.held.paths } }
  else w

/-- The trapping copy restarts at the faulting chunk, or fails (R261, R267). A TCONV, which the rim interface runs (R371), takes no engine and
goes on at once; another waits for one (R262). -/
def State.resumeCopy (s : State) (skip : Bool) : State :=
  if s.cw.causeXfer then
    s.updCopy s.cw.trapCopy fun c =>
      if c.st = .stopped then
        { c with st := if skip then .failed else if c.job == .tconv then .started else .stopped,
                 restart := !skip && c.job != .tconv, trap := none }
      else c
  else s

/-! ## The destinations of a word that consumed poison (R391, R399) -/

/-- The scalar registers that a scalar word writes: its field d, and the run of a received message (R61, R307). -/
def scalarDests (n : Nat) : List SReg :=
  let major := bitsOf n 26 6
  let d : List SReg := [.ofNat 6 (n / 2 ^ 20)]
  match decodeScalar n with
  | .ok (.precv _ _ b) | .ok (.ppeek _ _ b) => d ++ (List.range 11).map (SReg.plus b)
  | .ok (.sqrd _ _) | .ok (.ktos _ _) | .ok (.kpop _ _) | .ok (.kfirst _ _) => d
  | .ok _ => if (1 ≤ major && major ≤ 0x0D) || major == 0x13 || major == 0x18 || major == 0x1A || 0x28 ≤ major then d else []
  | .error _ => []

/-- The mask register that a scalar word writes (R173). -/
def scalarKDest (n : Nat) : Option KReg :=
  match decodeScalar n with
  | .ok (.kand d _ _) | .ok (.kor d _ _) | .ok (.kxor d _ _) | .ok (.kandn d _ _) | .ok (.knot d _) | .ok (.kfroms d _) => some d
  | _ => none

/-- The operations of a lane word. -/
def laneOpsOf (n : Nat) : List (LaneCode × LaneOp) :=
  let short (o : ShortOp) := (LaneCode.ofOp9 o.op9.toNat).map fun c => (c, o.long 0)
  match decodeLane n with
  | .ok (.laneWordPair _ x y) => [short x, short y].reduceOption
  | .ok _ => ((LaneCode.ofOp9 (bitsOf n 80 9)).map fun c => (c, longOp n)).toList
  | .error _ => []

/-- A lane destination left undefined in the lanes of `m`, but for the bits of `keep`; a mask register keeps its other lanes (R6). -/
def Wave.undefLanes (w : Wave) (n : Nat) (m : BitVec 32) (keep : Word) (r : RegRef) : Wave :=
  let x (l : Nat) : Word := Config.undef64 n l
  w.writePend { reg := r, lanes := m, keep, vals := (List.range 32).map x }

/-- The destinations of a scalar word undefined; a system register takes values that it may hold (R108). HPC is written at handler level
alone, where the trap would have faulted the context (R388). -/
def State.undefScalar (s : State) (n word : Nat) : State :=
  let s := (scalarDests word).zipIdx.foldl (fun (s : State) x => s.ws x.1 (Config.undef64 n x.2)) s
  let x := Config.undef64 n 32
  let w := match scalarKDest word with
    | some k => s.cw.wk k (x.setWidth 32)
    | none => s.cw
  { s with cw := match decodeScalar word with
    | .ok (.syswr _ r) => if r == 0x021 || sysRwMask r.toNat == 0 || sysBadValue r.toNat x then w else w.sysWrite r.toNat x
    | _ => w }

/-- The bits of a destination that an operation leaves as they are: those outside its part of the register (R189, R200, R204, R205, R251). -/
def laneKeep (c : LaneCode) (o : LaneOp) : Word :=
  let field (lo n : Nat) : Word := .ofNat 64 ((2 ^ n - 1) * 2 ^ lo)
  let x := LaneX o
  let width := tyWidth o.ty.toNat
  match c with
  | .vld => vmKeep o
  | .vbfi => ~~~(ofSubs width (List.replicate (tyCount o.ty.toNat) ((2 ^ bfLen o - 1) * 2 ^ bfPos o)))
  | .vcvt =>
    let n := tyCount o.c.toNat
    if n ≤ tyCount o.ty.toNat then ~~~(field (width * n * (x % 16)) (width * n)) else 0
  | .vbscale => ~~~(field (8 * (x % 8)) 8)
  | .vbquant => ~~~(field (32 * (x % 2)) 32)
  | _ => 0

/-- The lanes in which an operation of a path writes: those of the path that its predicate leaves (R182). -/
def Wave.lanesOf (w : Wave) (m : BitVec 32) (o : LaneCode × LaneOp) : BitVec 32 :=
  if (laneShape o.1 o.2 128).pred && o.2.k != 0 then m &&& w.rk o.2.k else m

/-- The destinations of a lane word undefined: what it would have written of its registers, and its tiles. -/
def State.undefLane (s : State) (n word : Nat) (m : BitVec 32) : State :=
  let ops := laneOpsOf word
  let w := ops.foldl (fun (w : Wave) o =>
    (laneWrites o.1 o.2).foldl (fun (w : Wave) r => w.undefLanes n (s.cw.lanesOf m o) (laneKeep o.1 o.2) r) w) s.cw
  let tiles := (ops.filter fun o => (laneShape o.1 o.2 128).d == .acc).map (·.2.d.toNat)
  { s with cw := w }.undefTiles w.team tiles

/-- The destinations of a passed-over word that consumed poison are undefined (R391). -/
def State.undefDest (s : State) (skip : Bool) : State :=
  let w := s.cw
  if skip && w.causeCode == SOFT_ERROR_UNCORRECTED && !w.causeXfer then
    let (n, s) := s.draw
    if w.causeLane then
      s.undefLane n w.trapWord (((w.held.paths.find? (·.id == w.trapPath)).map (·.mask)).getD 0)
    else s.undefScalar n w.trapWord
  else s

/-- The arrivals of a wave that TRET.SKIP leaves when it has passed over a word: all but that at the word's own barrier (R332). -/
def State.keptArrivals (s : State) : List Arrival :=
  match s.passedBar with
  | some n => s.cw.arrivals.filter fun a => a.bar != n
  | none => s.cw.arrivals

/-- TRET and TRET.SKIP (R393). A recorded arrival goes when TRET.SKIP passes over its word or wait (R332); after a lane trap, or another of
a copy, the scalar stream resumes at HPC in both cases (R180, R391), and an arrival there is kept (DEDUCED, log entry 60). A TMOVE that
waits for its commit is the same one when it executes again (R376). -/
def State.returnFrom (s : State) (skip : Bool) : Host.Outcome State Fault Refusal :=
  let w := s.cw
  if w.level ≠ .handler then .next (s.takeTrap { cause := PRIV })
  else if !w.eng.queue.isEmpty then .next (s.suspend .plain 0 0 false)
  else
    let pc := if w.causeRedir then w.hpc else s.resumption skip
    if pc.toNat % 4 ≠ 0 then .next (s.takeTrap { cause := MISALIGN, addr := pc })
    else if !s.inCode pc then .next (s.takeTrap { cause := PROTECTION, addr := pc })
    else
      let s := ((s.resumeCopy skip).undefDest skip)
      let w := s.cw.resumeLane skip
      let passed := skip && !w.causeRedir && pc == w.hpc + 4
      let w' := { w.awake with
        level := .ordinary, st := .resident, eng := w.held, held := .empty, pc, prev := pc, swords := w.swords + 1,
        wait := if w.causeRedir || passed then none else w.abandoned.filter fun r => r.kind == .move || r.kind == .moved
        arrivals := if passed then s.keptArrivals else w.arrivals, trapIrb := none, abandoned := none }
      .next { s with cw := w', cp := .blank }

/-- TRET (R393). -/
def execTret (s : State) : Host.Outcome State Fault Refusal := s.returnFrom false

/-- TRET.SKIP (R393). -/
def execTretSkip (s : State) : Host.Outcome State Fault Refusal := s.returnFrom true

end Sys2Proof.Machine
end

