-- ==== Sys2Proof/Machine/Start.lean ====
section
/-!
DEFINITION. Start, park, resume and restart of a device (R427 to R431, R437), training records (R428), wear (R432), power (R28), background
work and telemetry (R433, R434), and errors in stored data (R398, R399).
-/

namespace Sys2Proof.Machine

/-- A record on the physical function's control port whose contents the manual does not give (log entry 2). -/
def State.openRecord (s : State) (dev : Nat) : State :=
  let (n, s) := s.draw
  s.post dev 0 ((List.range 8).map (Config.undef64 n))

/-! ## Service cores (R17, R30) -/

def State.svc? (s : State) (dev core : Nat) : Option SvcCore := s.svcCores.find? fun (c : SvcCore) => c.dev == dev && c.core == core
def State.updSvc (s : State) (dev core : Nat) (f : SvcCore → SvcCore) : State :=
  { s with svcCores := s.svcCores.map fun (c : SvcCore) => if c.dev == dev && c.core == core then f c else c }

/-- Whether the image of a service core runs (R30). -/
def State.svcRuns (s : State) (dev core : Nat) : Bool := ((s.svc? dev core).map (·.running)).getD false

/-- The service core of the root monitor, and the housekeeping core (R17). -/
def rootMonitor : Nat := 20
def housekeeping : Nat := 21

/-! ## Wear (R432) -/

/-- A saturating count. -/
def satAdd {n : Nat} (x : BitVec n) (k : Nat) : BitVec n := .ofNat n (min (2 ^ n - 1) (x.toNat + k))

/-- The wear record (R432). -/
def Wear.record (w : Wear) : BitVec 256 :=
  .ofNat 256 (w.thermal.toNat * 2 ^ 224 + w.power.toNat * 2 ^ 192 + w.park.toNat * 2 ^ 160 +
    ((w.hours.take 5).zipIdx.map fun x => x.1.toNat * 2 ^ (24 * x.2)).sum)

/-- The sum of the HOURS bands (R428). -/
def Wear.hoursSum (w : Wear) : Nat := ((w.hours.take 5).map (·.toNat)).sum

/-- Wear accounting up to now: whole hours since the last account, with what that left over, in the band of the hottest junction, which a
sensor gives (log entry 10). -/
def State.accountHours (s : State) (dev : Nat) : State :=
  let (n, s) := s.draw
  s.updDev dev fun d =>
    let ns := d.hoursPart + (d.time - d.hoursFrom)
    let h := ns / 3600000000000
    let band := Config.sensor 0 n % 5
    { d with hoursFrom := d.time, hoursPart := ns % 3600000000000,
             wear := { d.wear with hours := d.wear.hours.zipIdx.map fun x => if x.2 == band then satAdd x.1 h else x.1 } }

/-- The wear record written to flash, with the part of an hour that HOURS does not show. -/
def Dev.toFlash (d : Dev) : Dev := { d with flash := d.wear, flashPart := d.hoursPart }

/-- HOURS_WRITE (R432), by the housekeeping core (R17), every 10 minutes at least. -/
def execHoursWrite (s : State) : Host.Outcome State Fault Refusal :=
  match s.turn with
  | .event (.hoursWrite dev) => .next (if s.svcRuns dev housekeeping then (s.accountHours dev).updDev dev Dev.toFlash else s)
  | _ => .next s

/-- THERMAL_CYCLE (R432): the hottest junction, as its sensor tells, has risen by 30 °C and has fallen by as much (log entry 10). The
housekeeping core (R17) counts it at once; its flash write is in progress for 1 s at most. -/
def execThermalCycle (s : State) : Host.Outcome State Fault Refusal :=
  match s.turn with
  | .event (.thermalCycle dev) =>
    .next (if s.svcRuns dev housekeeping then s.updDev dev fun d =>
        { d with flash := { d.flash with thermal := d.wear.thermal }, wear := { d.wear with thermal := satAdd d.wear.thermal 1 },
                 thermalAt := d.time }
      else s)
  | _ => .next s

/-- WEAR_COUNTER_READ (R432): the record, four words from its lowest. -/
def execWearCounterRead (s : State) : Host.Outcome State Fault Refusal :=
  match s.turn with
  | .event (.wearCounterRead dev) =>
    .next (match s.dev? dev with
      | some d => s.hostAnswer dev 0 ((List.range 4).map fun i => .ofNat 64 (bitsOf d.wear.record.toNat (64 * i) 64))
      | none => s)
  | _ => .next s

/-! ## Training records (R428) -/

/-- The junction temperature of a device as a sensor gives it (log entry 10). -/
def junction (n : Nat) : Int := (Config.sensor 1 n : Int) - 64

/-- One byte of a CRC-32C: the reflected polynomial 0x82F6_3B78. -/
def crc32cByte (crc : BitVec 32) (b : Byte) : BitVec 32 :=
  (List.range 8).foldl (fun c _ => if c.getLsbD 0 then (c >>> 1) ^^^ 0x82F63B78 else c >>> 1) (crc ^^^ b.setWidth 32)

/-- The CRC-32C of bytes (R428). -/
def crc32c (bytes : List Byte) : BitVec 32 := ~~~(bytes.foldl crc32cByte (BitVec.allOnes 32))

/-- The CRC-32C that a training record should have; in which layout the record's fields enter it is not stated (DESIGN CHOICE, log entry
41). -/
def Training.check (t : Training) : BitVec 32 :=
  crc32c (leBytes t.params.toNat 8 ++ leBytes (BitVec.ofInt 16 t.temp).toNat 2 ++ leBytes t.thermal 4 ++ leBytes t.hours 8)

/-- Whether a stored training record is accepted (R428). -/
def Training.accepted (t : Training) (temp : Int) (w : Wear) : Bool :=
  t.crc == t.check && (temp - t.temp).natAbs ≤ 15 && decide (w.thermal.toNat < t.thermal + 64) && decide (w.hoursSum < t.hours + 2000)

/-- A training record of now, of the parameters that the training found. -/
def State.retrain (s : State) (dev : Nat) (iface : Interface) : State :=
  match s.dev? dev with
  | none => s
  | some d =>
    let (n, s) := s.draw
    let t : Training :=
      { dev, iface, params := Config.undef64 n 0, temp := junction n, thermal := d.wear.thermal.toNat, hours := d.wear.hoursSum, crc := 0 }
    { s with trainings := (s.trainings.filter fun (t : Training) => !(t.dev == dev && t.iface == iface)) ++ [{ t with crc := t.check }] }

/-- Whether the stored record of an interface is accepted at the junction temperature of draw `n` (R428). -/
def State.accepts (s : State) (dev : Nat) (iface : Interface) (n : Nat) : Bool :=
  match s.dev? dev, s.trainings.find? fun (t : Training) => t.dev == dev && t.iface == iface with
  | some d, some t => t.accepted (junction n) d.wear
  | _, _ => false

/-- The interfaces of a compute die and of its two stacks, and the host links (R16, R428). -/
def dieInterfaces (die : Nat) : List Interface :=
  .ucie die :: (List.range 64).map fun i => .hbmChannel (2 * die + i / 32) (i % 32)
def hostInterfaces : List Interface := [.hostLink 0, .hostLink 1]

/-- Every interface of a device but its rim ports. -/
def allInterfaces : List Interface := hostInterfaces ++ (List.range 8).flatMap dieInterfaces

/-- Whether interfaces have all been trained since the start. -/
def Dev.ready (d : Dev) (is : List Interface) : Bool := is.all fun i => d.trained.contains i

/-- The interfaces that lock from their stored records at a start: an accepted record may still fail to lock, by draw `n` (R428). -/
def State.lockedAtStart (s : State) (dev n : Nat) : List Interface :=
  (allInterfaces.zipIdx.filter fun x => s.accepts dev x.1 n && (Config.undef64 n x.2).toNat % 2 == 0).map (·.1)

/-- Whether a device trains its interfaces: it is on, not parked, and no error of the IOD has been reported (R437). -/
def Dev.trains (d : Dev) : Bool := d.stage != .off && !d.parked && !d.iodError

/-- FULL_RETRAIN_COMPLETE (R428, R431, R436): the record is rewritten, and the interface is trained. -/
def execFullRetrainComplete (s : State) : Host.Outcome State Fault Refusal :=
  match s.turn with
  | .event (.fullRetrainComplete dev iface) =>
    .next (if !((s.dev? dev).map (·.trains)).getD false then s
      else
        let s := s.retrain dev iface
        match iface with
        | .rimPort port =>
          match s.rimPort? dev port with
          | some p =>
            if p.full then
              let s := s.updRim dev port fun p => { p with st := .training, again := false, full := false, since := s.time dev }
              s.lockLink p true
            else s
          | none => s
        | i => s.updDev dev fun d => { d with trained := i :: d.trained.filter (· != i) })
  | _ => .next s

/-- RIM_LINK_TRAINED (R24, R401, R404, R428): a port that trains from its stored parameters. A map that is not valid is refused here; a
record that is refused takes a full retrain; else the link locks once its other end can, what its replay buffer keeps is sent again, and
the time bases are exchanged. -/
def execRimLinkTrained (s : State) : Host.Outcome State Fault Refusal :=
  match s.turn with
  | .event (.rimLinkTrained dev port) =>
    .next (match s.rimPort? dev port, s.dev? dev with
      | some p, some d =>
        if p.st != .training || p.full || !d.answers || d.iodError || p.since + 10000000 < s.time dev then s
        else if !s.mapOk p then (s.updRim dev port fun p => { p with st := .off }).tryFull dev
        else if p.again then
          let (n, s) := s.draw
          if s.accepts dev (.rimPort port) n then s.lockLink p false
          else s.updRim dev port fun p => { p with full := true, since := s.time dev }
        else s.lockLink p false
      | _, _ => s)
  | _ => .next s

/-! ## Start (R427) -/

/-- A function whose control port answers, bound to no partition. -/
def newFunc (dev num : Nat) : Func :=
  { dev, num, part := 0, root2 := 0, records := [], slots := [], signals := [], errors := 0, answer := [], draining := false,
    drainFrom := 0, tornDown := false }

/-- Whether the image of a service core passes its SLH-DSA-SHA2-128s verification (R425). -/
def imageOk (core : Nat) : Bool := Config.slhDsaVerify 256 (Config.serviceImage core) (Config.imageSignature core)

/-- The firmware record: the SHA-256 over the SHA-256 measurements of the 22 images in turn. How it is made of them is not stated (DESIGN
CHOICE, log entry 9). -/
def firmwareRecord : BitVec 256 :=
  ofRecordBytes (Sha.digest ((List.range 22).flatMap fun i => Sha.digest (Config.serviceImage i)))

/-- A partition with nothing assigned: the ageing timer, the slice length and the firmware's attestation record at their defaults
(R113, R237, R118). -/
def newPart (dev num : Nat) : Part :=
  { dev, num, hoops := [], domain := 0, nextDomain := none, ageing := 2000, sliceNs := 4000000, running := 0, sliceFrom := 0,
    hbmBytes := 0, lentBytes := 0, attest := 0 }

/-- Stage A (R427): the interfaces with accepted records lock, the control ports of all functions answer, and the 22 service cores run the
images that pass their verification, once measured (R425). What other devices had lent to the device may be reclaimed (R345). The power cap and
what is withheld under it stay as they were, also through a loss of power: the manual gives them no value at a start (DESIGN CHOICE, log
entry 41). -/
def State.stageA (s : State) (dev : Nat) : State :=
  let (n, s) := s.draw
  let s := s.updDev dev fun d =>
    { d with stage := .stageA, dies := [], parked := false, parking := false, iodError := false, trained := s.lockedAtStart dev n, startAt := d.time,
             fwRecord := firmwareRecord }
  { s with
    lent := s.lent.map fun (l : Lent) => if l.holder == dev then { l with lost := true } else l,
    funcs := (s.funcs.filter fun (f : Func) => f.dev != dev) ++ (List.range 129).map (newFunc dev),
    svcCores := (s.svcCores.filter fun (c : SvcCore) => c.dev != dev) ++
      (List.range 22).map fun i => { dev, core := i, running := imageOk i, window := [], fault := none, reply := [], records := [] } }

/-- POWER_GOOD (R24, R427, R432): the time base is zero, the event is counted and written to flash, and stage A runs. A device that the state
did not hold joins it so (R400). -/
def execPowerGood (s : State) : Host.Outcome State Fault Refusal :=
  match s.turn with
  | .event (.powerGood dev) =>
    let s := if dev < 256 && (s.dev? dev).isNone then { s with devs := s.devs ++ [.reset dev] } else s
    .next (match s.dev? dev with
      | none => s
      | some d =>
        if d.stage != .off then s
        else
          let wear := { d.flash with power := satAdd d.flash.power 1 }
          (s.updDev dev fun d => { d with time := 0, slew := 0, tick := 0, hoursFrom := 0, wear, flash := wear }).stageA dev)
  | _ => .next s

/-- The frames of the safe partition: those of 192 GB of HBM that lie whole in it (R427). Which local addresses CD0's stacks 0 and 1
have is not stated; the model takes the lowest (DESIGN CHOICE, log entry 52). -/
def safeFrames : Nat := 192000000000 / 65536

/-- Whether stage B can end (R427): stage A has, and the interfaces of CD0 and of its stacks are trained. -/
def Dev.readyForB (d : Dev) : Bool := d.stage == .stageA && d.ready hostInterfaces && d.ready (dieInterfaces 0)

/-- The root monitor's pod: W × H devices, where the device's own coordinates lie in it (R400). -/
def State.inPod (s : State) (dev w h : Nat) : State :=
  if w ≤ 16 && h ≤ 16 && dev % 16 < w && dev / 16 < h then { s with podW := w, podH := h } else s

/-- START_STAGE_B (R427): CD0 has joined, and partition 1 is the safe partition, bound to the physical function. The root monitor
keeps a range of frames for the system's tables and gives the function's stage-2 root (log entry 28), and the size of the pod (R400). The
safe partition's frames are the lowest of the device (log entry 52). -/
def execStartStageB (s : State) : Host.Outcome State Fault Refusal :=
  match s.turn with
  | .event (.startStageB dev root2 sysFirst sysCount w h) =>
    .next (match s.dev? dev with
      | none => s
      | some d =>
        if !d.readyForB || d.iodError then s
        else
          let s := s.inPod dev w h
          let s := s.updDev dev fun d => { d with stage := .stageB, dies := [0] }
          let s := (s.setFrames dev 0 safeFrames 1).setFrames dev sysFirst sysCount 0xFF
          let s := { s with parts := (s.parts.filter fun (p : Part) => !(p.dev == dev && p.num == 1)) ++
            [{ newPart dev 1 with hoops := List.range 8, sliceFrom := d.time, attest := 0 }] }
          s.updFunc dev 0 fun f => { f with part := 1, root2 })
  | _ => .next s

/-- Whether a die joins its device (R427): in stage C, as soon as its own interfaces are trained. -/
def State.mayJoin (s : State) (d : Dev) (die : Nat) : Bool :=
  d.stage == .stageB && die != 0 && decide (die < 8) && !d.dies.contains die && s.svcRuns d.id rootMonitor && !d.iodError &&
    d.ready (dieInterfaces die)

/-- DIE_JOIN (R427): a die joins with its stacks once its own interfaces are trained, and a record reports it; with the last one, once the rim
has trained, the device has full function. -/
def execDieJoin (s : State) : Host.Outcome State Fault Refusal :=
  match s.turn with
  | .event (.dieJoin dev die) =>
    .next (match s.dev? dev with
      | none => s
      | some d =>
        if !s.mayJoin d die then s
        else ((s.updDev dev fun d => { d with dies := d.dies ++ [die] }).tryFull dev).openRecord dev)
  | _ => .next s

/-! ## The end of what a device holds (R437) -/

/-- The far ends of a device's links go down, and what they held for it is routed again (R413). -/
def State.unlink (s : State) (dev : Nat) : State :=
  s.takeDowns (s.rimPorts.filter fun (p : RimPort) => p.peer == dev && p.st == .up)

/-- Everything that a device holds is gone: objects, memory, tables and requests (R437); its links are down for its peers (R413). -/
def State.wipe (s : State) (dev : Nat) : State :=
  let s := s.unlink dev
  let mine := (s.ctxs.filter fun (c : Ctx) => c.dev == dev).map (·.uid)
  let of' := fun c => mine.contains c
  let base := physOf dev 0
  { s with
    cw := if s.cw.dev == dev then .blank 0 else s.cw,
    cp := if s.cw.dev == dev then .blank else s.cp,
    waves := s.waves.filter fun w => w.dev != dev,
    teams := s.teams.filter fun t => t.dev != dev,
    clusters := s.clusters.filter fun c => c.dev != dev,
    launches := s.launches.filter fun l => l.dev != dev,
    ctxs := s.ctxs.filter fun c => c.dev != dev,
    handles := s.handles.filter fun h => !of' h.ctx,
    ports := s.ports.filter fun p => p.dev != dev,
    remotes := s.remotes.filter fun r => !of' r.ctx,
    waitSets := s.waitSets.filter fun w => !of' w.ctx,
    timers := s.timers.filter fun t => t.dev != dev,
    watches := s.watches.filter fun w => !of' w.ctx,
    copies := s.copies.filter fun c => c.dev != dev,
    tensors := s.tensors.filter fun t => t.dev != dev,
    tiles := s.tiles.filter fun t => t.dev != dev,
    censuses := s.censuses.filter fun c => c.dev != dev,
    responders := s.responders.filter fun m => m.dev != dev,
    latch := s.latch.filter fun e => (s.teams.any fun t => t.uid == e.team && t.dev != dev),
    jointOps := s.jointOps.filter fun j => j.dev != dev,
    products := s.products.filter fun j => j.dev != dev,
    mem := s.mem.filter fun c => !(base ≤ c.1 && c.1 < base + 2 ^ 43),
    owners := s.owners.filter fun o => o.dev != dev,
    lent := s.lent.filter fun l => l.dev != dev,
    holds := s.holds.filter fun h => !of' h.ctx,
    tlb := s.tlb.filter fun e => e.dev != dev,
    wcb := s.wcb.filter fun e => e.dev != dev,
    invals := s.invals.filter fun i => i.dev != dev,
    banks := s.banks.filter fun b => b.dev != dev,
    gated := s.gated.filter fun g => g.1 != dev,
    rimPorts := s.rimPorts.filter fun p => p.dev != dev,
    rimReqs := s.rimReqs.filter fun r => r.dev != dev,
    packets := s.packets.filter fun p => p.dev != dev,
    buckets := s.buckets.filter fun b => b.dev != dev,
    parts := s.parts.filter fun p => p.dev != dev,
    funcs := s.funcs.filter fun f => f.dev != dev,
    svcCores := s.svcCores.filter fun c => c.dev != dev,
    issuePorts := s.issuePorts.filter fun p => p.dev != dev,
    inputs := s.inputs.filter fun e => !(e == .parkRequest dev && s.devParking dev),
    poison := s.poison.filter fun u => match u with
      | .memWord a => !(base ≤ a && a < base + 2 ^ 43)
      | .sReg w _ | .kReg w _ | .qReg w _ | .vReg w _ _ => ((s.wave? w).map fun x => x.dev != dev).getD false
      | .tileElem t _ _ | .scratchWord t _ => ((s.team? t).map fun x => x.dev != dev).getD false
      | .contextState c => !of' c }

/-- RESTART (R437): the device starts again from stage A; its time base counts on. -/
def execRestart (s : State) : Host.Outcome State Fault Refusal :=
  match s.turn with
  | .event (.restart dev) =>
    .next (match s.dev? dev with
      | none => s
      | some d => if d.stage == .off then s else (s.wipe dev).stageA dev)
  | _ => .next s

/-- POWER_LOSS (R432): HOURS not yet in flash is lost; a thermal cycle is in flash 1 s after the fall that ended it, and whether one whose write
is in progress is lost is open. -/
def execPowerLoss (s : State) : Host.Outcome State Fault Refusal :=
  match s.turn with
  | .event (.powerLoss dev) =>
    let (n, s) := s.draw
    .next ((s.wipe dev).updDev dev fun d =>
      let lost := Config.pick n % 2 = 0 && d.time < d.thermalAt + 1000000000
      let flash := if lost then d.flash else { d.flash with thermal := d.wear.thermal }
      { d with stage := .off, dies := [], parked := false, parking := false, iodError := false, trained := [], wear := flash, flash,
               hoursPart := d.flashPart })
  | _ => .next s

/-- ORDERLY_POWER_OFF (R432): HOURS is written first. -/
def execOrderlyPowerOff (s : State) : Host.Outcome State Fault Refusal :=
  match s.turn with
  | .event (.orderlyPowerOff dev) =>
    .next (((s.accountHours dev).wipe dev).updDev dev fun d =>
      { d.toFlash with stage := .off, dies := [], parked := false, parking := false, iodError := false, trained := [] })
  | _ => .next s

/-! ## Park and resume (R429 to R431) -/

/-- Whether started copies of a device still run. -/
def State.devCopiesRun (s : State) (dev : Nat) : Bool := s.copies.any fun (c : Copy) => c.dev == dev && c.st == CopyState.started

/-- The last steps of a park entry (R429): the write-combining buffers drain, the training records and the wear record are rewritten, and
the device is gated, its ports down for its peers (R430). -/
def State.gateDevice (s : State) (dev : Nat) : State :=
  let s := s.drainWhere fun e => e.dev == dev
  let s := (s.trainings.filter fun (t : Training) => t.dev == dev).foldl (fun (s : State) t => s.retrain dev t.iface) s
  let s := (s.accountHours dev).updDev dev fun d =>
    { d with parked := true, parking := false, wear := { d.wear with park := satAdd d.wear.park 1 } }.toFlash
  s.takeDowns (s.rimPorts.filter fun (p : RimPort) => (p.dev == dev || p.peer == dev) && p.st != .off)

/-- PARK_REQUEST (R429): every context that runs is parked; once no started copy runs, the device is gated. Until then the entry is in
progress and the request stands. -/
def execParkRequest (s : State) : Host.Outcome State Fault Refusal :=
  match s.turn with
  | .event (.parkRequest dev) =>
    .next (match s.dev? dev with
      | none => s
      | some d =>
        if d.stage != .full || d.parked || d.iodError then s
        else
          let s := s.updDev dev fun d => { d with parking := true }
          let run := s.ctxs.filter fun (c : Ctx) => c.dev == dev && (c.st == .runnable || c.st == .active)
          let s := run.foldl (fun (s : State) c => s.parkCtx c.uid true) s
          if s.devCopiesRun dev then { s with inputs := .parkRequest dev :: s.inputs } else s.gateDevice dev)
  | _ => .next s

/-- A rim port locks again from its stored record, or is down and takes a full retrain (R431, R436): a record that is refused does not lock,
nor does a port whose map is not valid or whose other end cannot. -/
def State.relock (s : State) (p : RimPort) : State :=
  let (n, s) := s.draw
  if s.mapOk p && s.accepts p.dev (.rimPort p.port) n && Config.pick n % 2 == 0 && s.peerReady p true then s.lockLink p true
  else s.updRim p.dev p.port fun x => { x with full := true, since := s.time p.dev }

/-- RESUME_REQUEST (R431): the rim re-locks, the time bases of the device and its peers are exchanged (R24), and every context that the
device park parked returns. -/
def execResumeRequest (s : State) : Host.Outcome State Fault Refusal :=
  match s.turn with
  | .event (.resumeRequest dev) =>
    .next (match s.dev? dev with
      | none => s
      | some d =>
        if !d.parked || d.iodError then s
        else
          let s := s.updDev dev fun d => { d with parked := false }
          let ports := s.rimPorts.filter fun (p : RimPort) => p.dev == dev && p.st == .down
          let s := ports.foldl (fun (s : State) p => s.relock p) s
          let s := s.exchangeTime dev
          let back := s.ctxs.filter fun (c : Ctx) => c.dev == dev && c.st == .parked && c.deviceParked
          back.foldl (fun (s : State) c => s.resumeCtx c.uid c.before) s)
  | _ => .next s

/-! ## Power (R28) -/

/-- SET_POWER_CAP (R28): at most 3,600 W. -/
def execSetPowerCap (s : State) : Host.Outcome State Fault Refusal :=
  match s.turn with
  | .event (.setPowerCap dev watts) => .next (if watts ≤ 3600 then s.updDev dev fun d => { d with cap := watts } else s)
  | _ => .next s

/-- Whether issue is withheld from a wave at a stage of R28: ordinary waves first, then census responders, handlers never. -/
def withheldFrom (level : Nat) (w : Wave) : Bool :=
  w.st.onCore && w.level == .ordinary && (if w.responder.isSome then 2 ≤ level else 1 ≤ level)

/-- The power at the input, averaged over 1 ms, as the housekeeping core acts on it (R28): above the cap it withholds issue from ordinary
waves, then from census responders too, until the average falls below the cap. When it takes the second class is open: at any
evaluation above the cap (DESIGN CHOICE, log entry 54). -/
def Dev.evaluate (d : Dev) (watts : Nat) (second : Bool) : Dev :=
  let level :=
    if watts < d.cap then 0
    else if d.cap < watts then (if d.withheld = 0 then 1 else if second then 2 else d.withheld)
    else d.withheld
  { d with avg := watts, withheld := level }

/-- POWER_CAP_EVALUATE (R28), by the housekeeping core (R17). -/
def execPowerCapEvaluate (s : State) : Host.Outcome State Fault Refusal :=
  match s.turn with
  | .event (.powerCapEvaluate dev watts) =>
    .next (if s.svcRuns dev housekeeping then
        let (n, s) := s.draw
        s.updDev dev fun d => d.evaluate watts (Config.pick n % 2 == 1)
      else s)
  | _ => .next s

/-! ## Background work and telemetry (R433, R434) -/

/-- Whether background work runs on a device's memory: as the housekeeping core schedules it (R17), and not while it is parked (R429). -/
def State.tends (s : State) (dev : Nat) : Bool := s.svcRuns dev housekeeping && !s.devParked dev

/-- PATROL_SCRUB (R433, R399): a frame is read through and written back, which is charged to the system (R235). The errors that it finds are
those of CORRECTED_ERROR and UNCORRECTED_ERROR; poison is never cleared, and nothing visible changes. -/
def execPatrolScrub (s : State) : Host.Outcome State Fault Refusal :=
  match s.turn with
  | .event (.patrolScrub dev frame) =>
    .next (if s.tends dev then
        ((s.withSystem dev frame).chargeBytes dev 0 0 (physOf dev (frame * 65536)) 131072).updDev dev fun d => { d with scrubbed := frame }
      else s)
  | _ => .next s

/-- HBM_RECALIBRATION (R433, R235): a slice of 1 µs of a channel, whose port is the system's for as long: the 14 tokens of its window are
taken. Nothing visible changes. -/
def execHbmRecalibration (s : State) : Host.Outcome State Fault Refusal :=
  match s.turn with
  | .event (.hbmRecalibration dev chan) => .next (if s.tends dev then s.charge dev 0 0 (chan % 512) 14 else s)
  | _ => .next s

/-- TELEMETRY_SAMPLE (R434), by the housekeeping core (R17): temperature and power of each compute die and of the IOD, from their sensors,
and the THROTTLE total. -/
def execTelemetrySample (s : State) : Host.Outcome State Fault Refusal :=
  match s.turn with
  | .event (.telemetrySample dev) =>
    let (n, s) := s.draw
    .next (if !s.svcRuns dev housekeeping then s else s.updDev dev fun d =>
      { d with telemetry := { d.telemetry with temps := (List.range 9).map fun i => Config.sensor (16 + i) n,
                                               powers := (List.range 9).map fun i => Config.sensor (32 + i) n,
                                               throttle := d.throttled } })
  | _ => .next s

/-- The counts of corrected and of uncorrected errors by store code: of the device, or of what concerns a partition (R434). -/
def Telemetry.errorCounts (x : Telemetry) : Option Nat → List Nat
  | none => x.corrected ++ x.uncorrected
  | some p => [true, false].flatMap fun ok => (List.range 8).map fun store => x.partErrors.count (p, store, ok)

/-- TELEMETRY_READ (R434): all of it for the physical function; for a partition's service core the counts of the errors that concern it. The
layout of the answer is the model's own: temperatures, powers, THROTTLE, corrected and uncorrected counts in turn. -/
def execTelemetryRead (s : State) : Host.Outcome State Fault Refusal :=
  match s.turn with
  | .event (.telemetryRead dev part) =>
    .next (match s.dev? dev with
      | none => s
      | some d =>
        let x := d.telemetry
        match part with
        | none => s.hostAnswer dev 0 ((x.temps ++ x.powers ++ [x.throttle] ++ x.errorCounts none).map (.ofNat 64))
        | some p => s.hostAnswer dev (((s.part? dev p).map (·.running)).getD 0) ((x.errorCounts (some p)).map (.ofNat 64)))
  | _ => .next s

/-! ## Errors in stored data (R398, R399) -/

/-- One more error of a store code. -/
def countError (xs : List Nat) (store : Nat) : List Nat := xs.zipIdx.map fun x => if x.2 == store then x.1 + 1 else x.1

/-- An error of a store code counted (R398), for the partition that it concerns too (R434). -/
def Telemetry.addError (x : Telemetry) (part store : Nat) (ok : Bool) : Telemetry :=
  if ok then { x with corrected := countError x.corrected store, partErrors := (part, store, ok) :: x.partErrors }
  else { x with uncorrected := countError x.uncorrected store, partErrors := (part, store, ok) :: x.partErrors }

/-- The partition of a context; 0 for none. -/
def State.partOf (s : State) (ctx : Nat) : Nat := ((s.ctx? ctx).map (·.part)).getD 0

/-- The partition whose hoop or frame an error's unit is in (R434). -/
def State.unitPart (s : State) (dev : Nat) : ErrUnit → Nat
  | .memWord a => (s.frameCode dev (a % 2 ^ 43 / 65536)).toNat
  | .sReg w _ | .kReg w _ | .qReg w _ | .vReg w _ _ => ((s.wave? w).map fun x => s.partOf x.ctx).getD 0
  | .tileElem t _ _ | .scratchWord t _ => ((s.team? t).map fun x => s.partOf x.ctx).getD 0
  | .contextState c => s.partOf c

/-- CORRECTED_ERROR (R398): counted, and nothing visible changes. -/
def execCorrectedError (s : State) : Host.Outcome State Fault Refusal :=
  match s.turn with
  | .event (.correctedError dev store part) =>
    .next (s.updDev dev fun d => { d with telemetry := d.telemetry.addError part store true })
  | _ => .next s

/-- An uncorrected error in the state of a context: the context is faulted, with a record that names no wave (R399, R449). -/
def State.faultState (s : State) (u : Nat) : State :=
  match s.ctx? u with
  | none => s
  | some c =>
    if c.st == .terminating || c.st == .dead || c.st == .faulted then s
    else
      let s := s.post c.dev c.func [.ofNat 64 (0x32 + c.num * 2 ^ 20), .ofNat 64 (2 ^ 50), 0, 0, 0, 0, 0, 0]
      (s.updCtx u fun c => { c with st := .faulted, before := c.st, faulting := 0 }).evictCtx u false

/-- UNCORRECTED_ERROR (R398, R399): the unit is poisoned, or the context whose state it is is faulted. -/
def execUncorrectedError (s : State) : Host.Outcome State Fault Refusal :=
  match s.turn with
  | .event (.uncorrectedError dev store unit) =>
    let part := s.unitPart dev unit
    let s := s.updDev dev fun d => { d with telemetry := d.telemetry.addError part store false }
    .next (match unit with
      | .contextState u => s.faultState u
      | .memWord a => if s.poison.contains (.memWord (a / 8 * 8)) then s else { s with poison := .memWord (a / 8 * 8) :: s.poison }
      | u => if s.poison.contains u then s else { s with poison := u :: s.poison })
  | _ => .next s

end Sys2Proof.Machine
end

