-- ==== Sys2Proof/Machine/Service.lean ====
section
/-!
DEFINITION. The root monitor and the service cores: partitions, functions and domains (R311, R423, R435), teardown (R426), measurement
(R425) and windowed pointers (R424, R30).
-/

namespace Sys2Proof.Machine

/-! ## Partitions (R423, R435) -/

/-- The record of a partition, made when it is first named. -/
def State.withPart (s : State) (dev num : Nat) : State :=
  if (s.part? dev num).isSome then s else { s with parts := s.parts ++ [newPart dev num] }

/-- A hoop taken from its partition is gated; what its banks held is gone, and entries of its run list go to the run list of another
hoop (R132, R421, R435). -/
def State.gateHoop (s : State) (dev hoop : Nat) : State :=
  let s := { s with
    banks := s.banks.filter fun (b : Bank) => !(b.dev == dev && b.hoop == hoop),
    gated := (dev, hoop) :: s.gated.filter fun g => g != (dev, hoop) }
  let mine := s.clusters.filter fun (c : Cluster) =>
    c.dev == dev && c.home == hoop && (c.st == ClusterState.inRunList || c.st == ClusterState.inTable)
  mine.foldl (fun (s : State) c => (s.rehome c).enlist c.uid) s

/-- A change of a partition (R423, R435): one that would take a hoop with a placed team or a frame that the partition owns is
refused. -/
def State.changePart (s : State) (dev part : Nat) : PartChange → State
  | .giveHoop hoop =>
    let joined := ((s.dev? dev).map fun d => d.dies.contains (hoop / 8)).getD false
    if 64 ≤ hoop || !joined || s.parts.any fun (p : Part) => p.dev == dev && p.hoops.contains hoop then s
    else
      let s := (s.withPart dev part).updPart dev part fun p => { p with hoops := p.hoops ++ [hoop] }
      { s with gated := s.gated.filter fun g => g != (dev, hoop) }
  | .takeHoop hoop =>
    let held := ((s.part? dev part).map fun p => p.hoops.contains hoop).getD false
    if !held || s.teams.any fun (t : Team) => t.dev == dev && t.core / 8 == hoop && s.placedTeam t then s
    else (s.updPart dev part fun p => { p with hoops := p.hoops.filter (· != hoop) }).gateHoop dev hoop
  | .bindFunction func root2 =>
    match s.func? dev func with
    | none => s
    | some f =>
      if f.part ≠ 0 && f.part ≠ part then s
      else
        let first := !s.funcs.any fun (g : Func) => g.dev == dev && g.part == part && !g.tornDown
        let s := (s.withPart dev part).updFunc dev func fun f => { f with part, root2, tornDown := false }
        if first then s.updPart dev part fun p => { p with running := func, sliceFrom := s.time dev } else s
  | .takeFrames _ _ => s

/-- PARTITION_CHANGE (R435): not while a function of the partition is torn down; a taken frame would be one that the partition
owns, so that change is always refused (R423). -/
def execPartitionChange (s : State) : Host.Outcome State Fault Refusal :=
  match s.turn with
  | .event (.partitionChange dev part change) =>
    .next (if part = 0 || 20 < part || s.funcs.any fun (f : Func) => f.dev == dev && f.part == part && f.draining then s
      else s.changePart dev part change)
  | _ => .next s

/-- DOMAIN_ASSIGN (R311): a domain from 1 to 255; the change takes effect once its names have moved. -/
def execDomainAssign (s : State) : Host.Outcome State Fault Refusal :=
  match s.turn with
  | .event (.domainAssign dev part domain) =>
    .next (if domain = 0 || 255 < domain then s else s.updPart dev part fun p => { p with nextDomain := some domain })
  | _ => .next s

/-! ## Teardown (R426) -/

/-- FUNCTION_TEARDOWN (R426), steps 1 to 3: the function drains and each of its contexts terminates. -/
def execFunctionTeardown (s : State) : Host.Outcome State Fault Refusal :=
  match s.turn with
  | .event (.functionTeardown dev func) =>
    .next (match s.func? dev func with
      | none => s
      | some f =>
        if func = 0 || f.draining || f.tornDown || f.part = 0 then s
        else
          let s := s.updFunc dev func fun f => { f with draining := true, drainFrom := s.time dev }
          let mine := (s.ctxs.filter fun (c : Ctx) => c.dev == dev && c.func == func).map (·.uid)
          mine.foldl (fun (s : State) u => s.terminate u) s)
  | _ => .next s

/-- The frames of a partition given up: they enter scrubbing, but for those that hold a lent or granted page, which stay (R426,
R345, log entry 20). -/
def State.scrubPartition (s : State) (dev part : Nat) : State :=
  let mine := ((s.owners.filter fun r => r.dev == dev && r.code == .ofNat 8 part).flatMap fun r =>
    (List.range r.count).map (r.first + ·)).eraseDups
  (mine.filter fun f => s.frameCode dev f == .ofNat 8 part).foldl (fun (s : State) f => s.retireFrame dev part f (framePages f)) s

/-- Whether the request of a tag of a device is of a context of a function. -/
def State.reqOfFunc (s : State) (dev func srcDev tag : Nat) : Bool :=
  s.rimReqs.any fun (r : RimReq) => r.dev == srcDev && r.tag == tag &&
    match ((s.wave? r.wave).map (·.ctx)).orElse (fun _ => ((s.copy? r.copy).map (·.ctx)).orElse fun _ => (s.census? r.census).map (·.ctx)) with
    | some u => ((s.ctx? u).map fun c => c.dev == dev && c.func == func).getD false
    | none => false

/-- The device whose context a packet is for: a request's source, a response's destination (R402, R409). -/
def packetDev (h : Nat) : Nat := if bitAt h 102 then hDST h else hSRC h

/-- Whether a packet is of a function's contexts: by its request, or by the group of its partition when that has no other function
(R402, R409, R426). -/
def State.packetOf (s : State) (f : Func) (last : Bool) (h : Nat) : Bool :=
  s.reqOfFunc f.dev f.num (hSRC h) (hTAG h) || s.reqOfFunc f.dev f.num (hDST h) (hTAG h) || (last && hGROUP h == f.part && packetDev h == f.dev)

/-- Step 4 of a teardown (R426): the packets of the function's contexts that remain are dropped where they wait for their egress, and
what waits on one, in any function, completes poisoned. -/
def State.dropPackets (s : State) (f : Func) (last : Bool) : State :=
  let gone := s.packets.filter fun (x : Packet) => s.packetOf f last x.header.toNat
  let s := gone.foldl (fun (s : State) x => s.freeInput x) { s with packets := s.packets.filter fun x => !gone.contains x }
  let waits := s.rimReqs.filter fun (r : RimReq) => gone.any fun x =>
    hTAG x.header.toNat == r.tag && (hSRC x.header.toNat == r.dev || hDST x.header.toNat == r.dev)
  waits.foldl (fun (s : State) r => s.poisonReq r) s

/-- Step 5 of a teardown (R426, R410): the slots of the rim ports that the partition's channel group holds are reclaimed. -/
def State.reclaimSlots (s : State) (dev group : Nat) : State :=
  { s with rimPorts := s.rimPorts.map fun (p : RimPort) =>
      if p.dev == dev then { p with slots := p.slots.filter fun v => v / 8 != group } else p }

/-- TEARDOWN_DRAIN_EXPIRE (R426), steps 4 to 6: 100 µs after the last of the function's contexts has ended, the packets that remain and the
write-combining entries left are dropped; with the partition's last function its channel group is reclaimed and its frames are
scrubbed. -/
def execTeardownDrainExpire (s : State) : Host.Outcome State Fault Refusal :=
  match s.turn with
  | .event (.teardownDrainExpire dev func) =>
    .next (match s.func? dev func with
      | none => s
      | some f =>
        let alive := s.ctxs.any fun (c : Ctx) => c.dev == dev && c.func == func && c.st != .dead
        if !f.draining || alive || s.time dev < f.drainFrom + 100000 then s
        else
          let last := !s.funcs.any fun (g : Func) => g.dev == dev && g.part == f.part && g.num != func
          let s := s.dropPackets f last
          let s := { s with
            wcb := s.wcb.filter fun (e : WcbEntry) => !(e.dev == dev && e.bytes.all fun b => s.ended b.wave) }
          let s := s.updFunc dev func fun f => { f with draining := false, tornDown := true, part := 0, slots := [] }
          if last then (s.reclaimSlots dev f.part).scrubPartition dev f.part else s)
  | _ => .next s

/-! ## Measurement (R425) -/

/-- SPDM_REQUEST (R425): block 1 is the firmware record, block 1 + p the attestation record of partition p. -/
def execSpdmRequest (s : State) : Host.Outcome State Fault Refusal :=
  match s.turn with
  | .event (.spdmRequest dev block) =>
    .next (match s.dev? dev with
      | none => s
      | some d =>
        let r : Option (BitVec 256) := if block = 1 then some d.fwRecord else (s.part? dev (block - 1)).map (·.attest)
        let bytes := match r with
          | some r => leBytes r.toNat 32
          | none => []
        s.updDev dev fun d => { d with reply := bytes })
  | _ => .next s

/-! ## Windowed pointers (R30, R424) -/

/-- The fields of a window table entry (R424). -/
def winBase (e : BitVec 128) : Nat := bitsOf e.toNat 80 48 * 16
def winSpan (e : BitVec 128) : Nat := bitsOf e.toNat 44 36 * 16
def winKind (e : BitVec 128) : BitVec 8 := .ofNat 8 (bitsOf e.toNat 36 8)
def winRight (e : BitVec 128) (i : Nat) : Bool := bitAt e.toNat (32 + i)
def winOwner (e : BitVec 128) : Nat := bitsOf e.toNat 20 12

/-- Whether RIGHTS permits an access (R424). -/
def winPermits (e : BitVec 128) : WinAccess → Bool
  | .load | .kindLoad _ => winRight e 3
  | .store | .kindStore _ => winRight e 2
  | .fetch => winRight e 1

/-- Whether the kind that a kind-checked access names is the window's (R424). -/
def winKindOk (e : BitVec 128) : WinAccess → Bool
  | .kindLoad k | .kindStore k => k == winKind e
  | _ => true

/-- The first check that an access through a windowed pointer fails, numbered as R424 lists them. -/
def winFault (table : List (Nat × BitVec 128)) (ptr : Word) (size : Nat) (acc : WinAccess) : Option Nat :=
  let w := bitsOf ptr.toNat 52 12
  let e := ((table.find? (·.1 == w)).map (·.2)).getD 0
  if w = 0 then none
  else if winSpan e = 0 then some 1
  else if winSpan e < bitsOf ptr.toNat 0 52 + size then some 2
  else if !winPermits e acc then some 3
  else if !winKindOk e acc then some 4
  else none

/-- An access of a service core that its window lets through: a load's bytes are the core's, a store writes them; a fetch shows nothing. The
flat window 0 is the image's own memory, which nothing else reaches (R424). -/
def State.winAccess (s : State) (c : SvcCore) (ptr : Word) (size : Nat) (acc : WinAccess) (data : List Byte) : State :=
  match c.window.find? fun x => x.1 != 0 && x.1 == bitsOf ptr.toNat 52 12 with
  | none => s
  | some (_, e) =>
    let a := physOf c.dev ((winBase e + bitsOf ptr.toNat 0 52) % 2 ^ 43)
    match acc with
    | .load | .kindLoad _ => s.updSvc c.dev c.core fun c => { c with reply := Memory.readBytes s.mem a size }
    | .store | .kindStore _ => s.writePhys a (data.take size)
    | .fetch => s

/-- A window fault (R424): recorded with its pointer and the check, it halts the core's image and posts a record to the root monitor. -/
def State.windowFault (s : State) (dev core : Nat) (ptr : Word) (check : Nat) : State :=
  (s.updSvc dev core fun c => { c with running := false, fault := some (ptr, check) }).updSvc dev rootMonitor fun c =>
    { c with records := c.records ++ [(core, ptr, check)] }

/-- WINDOWED_ACCESS (R424). -/
def execWindowedAccess (s : State) : Host.Outcome State Fault Refusal :=
  match s.turn with
  | .event (.windowedAccess dev core ptr size acc data) =>
    .next (match s.svc? dev core with
      | none => s
      | some c =>
        if !c.running then s
        else
          match winFault c.window ptr size acc with
          | none => s.winAccess c ptr size acc data
          | some check => s.windowFault dev core ptr check)
  | _ => .next s

/-- Whether the frames of a region all belong to a partition. -/
def State.regionOwned (s : State) (dev part base n : Nat) : Bool :=
  n == 0 || s.framesAre dev (base / 65536) ((base + n - 1) / 65536 - base / 65536 + 1) (.ofNat 8 part)

/-- Whether another core's table holds an entry that may be copied (R424); a partition's core takes none over another partition. -/
def State.passedTo (s : State) (dev core : Nat) (entry : BitVec 128) : Bool :=
  winRight entry 0 && (20 ≤ core || winOwner entry == core + 1) && s.svcCores.any fun (c : SvcCore) => c.dev == dev && c.core != core && c.window.any fun x => x.2 == entry

/-- WINDOW_INSTRUCTION (R424): core `i` below 20 serves partition `i + 1` and opens windows over frames of its own partition alone, or
copies an entry that another core's table lets it have; the root monitor opens any. -/
def execWindowInstruction (s : State) : Host.Outcome State Fault Refusal :=
  match s.turn with
  | .event (.windowInstruction dev core idx entry) =>
    .next (match s.svc? dev core with
      | none => s
      | some c =>
        let own := core < 20 && winOwner entry == core + 1 && s.regionOwned dev (core + 1) (winBase entry) (winSpan entry)
        if !c.running || idx = 0 || 4096 ≤ idx || !(core == rootMonitor || own || s.passedTo dev core entry) then s
        else s.updSvc dev core fun c => { c with window := (idx, entry) :: c.window.filter fun x => x.1 != idx })
  | _ => .next s

/-- SERVICE_CORE_IMAGE_RESTART (R30), by the root monitor: the image runs again once it passes its verification (R425); its window table
changes by window instructions alone (R424). -/
def execServiceCoreImageRestart (s : State) : Host.Outcome State Fault Refusal :=
  match s.turn with
  | .event (.serviceCoreImageRestart dev core) =>
    .next (if s.svcRuns dev rootMonitor then s.updSvc dev core fun c => { c with running := imageOk core } else s)
  | _ => .next s

end Sys2Proof.Machine
end

