-- ==== Sys2Proof/Machine/Dispatch.lean ====
section
/-!
DEFINITION. The dispatch: one arm for every constructor of `Instr`, each a direct call of its meaning.
-/

namespace Sys2Proof.Machine

def exec (i : Instr) (s : State) : Host.Outcome State Fault Refusal :=
  match i with
  | .snop => Sys2Proof.Machine.execSnop s
  | .halt => Sys2Proof.Machine.execHalt s
  | .bkpt => Sys2Proof.Machine.execBkpt s
  | .trap n => Sys2Proof.Machine.execTrap n s
  | .tret => Sys2Proof.Machine.execTret s
  | .tretSkip => Sys2Proof.Machine.execTretSkip s
  | .sysrd d n => Sys2Proof.Machine.execSysrd d n s
  | .syswr d n => Sys2Proof.Machine.execSyswr d n s
  | .hpcWrite d => Sys2Proof.Machine.execHpcWrite d s
  | .perfrd d n => Sys2Proof.Machine.execPerfrd d n s
  | .time d => Sys2Proof.Machine.execTime d s
  | .sadd d a b => Sys2Proof.Machine.execSadd d a b s
  | .ssub d a b => Sys2Proof.Machine.execSsub d a b s
  | .smul d a b => Sys2Proof.Machine.execSmul d a b s
  | .smulh d a b => Sys2Proof.Machine.execSmulh d a b s
  | .smulhu d a b => Sys2Proof.Machine.execSmulhu d a b s
  | .sdiv d a b => Sys2Proof.Machine.execSdiv d a b s
  | .sdivu d a b => Sys2Proof.Machine.execSdivu d a b s
  | .srem d a b => Sys2Proof.Machine.execSrem d a b s
  | .sremu d a b => Sys2Proof.Machine.execSremu d a b s
  | .sand d a b => Sys2Proof.Machine.execSand d a b s
  | .sor d a b => Sys2Proof.Machine.execSor d a b s
  | .sxor d a b => Sys2Proof.Machine.execSxor d a b s
  | .sandn d a b => Sys2Proof.Machine.execSandn d a b s
  | .sorn d a b => Sys2Proof.Machine.execSorn d a b s
  | .sshl d a b => Sys2Proof.Machine.execSshl d a b s
  | .sshr d a b => Sys2Proof.Machine.execSshr d a b s
  | .ssra d a b => Sys2Proof.Machine.execSsra d a b s
  | .srol d a b => Sys2Proof.Machine.execSrol d a b s
  | .sror d a b => Sys2Proof.Machine.execSror d a b s
  | .smin d a b => Sys2Proof.Machine.execSmin d a b s
  | .smax d a b => Sys2Proof.Machine.execSmax d a b s
  | .sminu d a b => Sys2Proof.Machine.execSminu d a b s
  | .smaxu d a b => Sys2Proof.Machine.execSmaxu d a b s
  | .sclz d a => Sys2Proof.Machine.execSclz d a s
  | .sctz d a => Sys2Proof.Machine.execSctz d a s
  | .spopc d a => Sys2Proof.Machine.execSpopc d a s
  | .sbrev d a => Sys2Proof.Machine.execSbrev d a s
  | .sbswap d a => Sys2Proof.Machine.execSbswap d a s
  | .saddw d a b => Sys2Proof.Machine.execSaddw d a b s
  | .ssubw d a b => Sys2Proof.Machine.execSsubw d a b s
  | .sceq d a b => Sys2Proof.Machine.execSceq d a b s
  | .scne d a b => Sys2Proof.Machine.execScne d a b s
  | .sclt d a b => Sys2Proof.Machine.execSclt d a b s
  | .scltu d a b => Sys2Proof.Machine.execScltu d a b s
  | .scle d a b => Sys2Proof.Machine.execScle d a b s
  | .scleu d a b => Sys2Proof.Machine.execScleu d a b s
  | .saddi d a imm => Sys2Proof.Machine.execSaddi d a imm s
  | .sandi d a imm => Sys2Proof.Machine.execSandi d a imm s
  | .sori d a imm => Sys2Proof.Machine.execSori d a imm s
  | .sxori d a imm => Sys2Proof.Machine.execSxori d a imm s
  | .sshli d a imm => Sys2Proof.Machine.execSshli d a imm s
  | .sshri d a imm => Sys2Proof.Machine.execSshri d a imm s
  | .ssrai d a imm => Sys2Proof.Machine.execSsrai d a imm s
  | .sroli d a imm => Sys2Proof.Machine.execSroli d a imm s
  | .sclti d a imm => Sys2Proof.Machine.execSclti d a imm s
  | .slui d imm => Sys2Proof.Machine.execSlui d imm s
  | .sadrp d imm => Sys2Proof.Machine.execSadrp d imm s
  | .slit d imm => Sys2Proof.Machine.execSlit d imm s
  | .sbfx d a p len => Sys2Proof.Machine.execSbfx d a p len s
  | .sbfxs d a p len => Sys2Proof.Machine.execSbfxs d a p len s
  | .sbfi d a p len => Sys2Proof.Machine.execSbfi d a p len s
  | .ssel d a b c => Sys2Proof.Machine.execSsel d a b c s
  | .beqz a off => Sys2Proof.Machine.execBeqz a off s
  | .bnez a off => Sys2Proof.Machine.execBnez a off s
  | .bltz a off => Sys2Proof.Machine.execBltz a off s
  | .bgez a off => Sys2Proof.Machine.execBgez a off s
  | .bgtz a off => Sys2Proof.Machine.execBgtz a off s
  | .blez a off => Sys2Proof.Machine.execBlez a off s
  | .bkany a off => Sys2Proof.Machine.execBkany a off s
  | .bknone a off => Sys2Proof.Machine.execBknone a off s
  | .bkall a off => Sys2Proof.Machine.execBkall a off s
  | .jmp imm => Sys2Proof.Machine.execJmp imm s
  | .call imm => Sys2Proof.Machine.execCall imm s
  | .jr a => Sys2Proof.Machine.execJr a s
  | .jalr d a => Sys2Proof.Machine.execJalr d a s
  | .sld d a size off => Sys2Proof.Machine.execSld d a size off s
  | .sst d a size off => Sys2Proof.Machine.execSst d a size off s
  | .satom d a b op wide ord scope => Sys2Proof.Machine.execSatom d a b op wide ord scope s
  | .spref a size off => Sys2Proof.Machine.execSpref a size off s
  | .fence xfer kind scope => Sys2Proof.Machine.execFence xfer kind scope s
  | .lrun imm => Sys2Proof.Machine.execLrun imm s
  | .lwait n => Sys2Proof.Machine.execLwait n s
  | .sqrd d a => Sys2Proof.Machine.execSqrd d a s
  | .kand d a b => Sys2Proof.Machine.execKand d a b s
  | .kor d a b => Sys2Proof.Machine.execKor d a b s
  | .kxor d a b => Sys2Proof.Machine.execKxor d a b s
  | .kandn d a b => Sys2Proof.Machine.execKandn d a b s
  | .knot d a => Sys2Proof.Machine.execKnot d a s
  | .kfroms d a => Sys2Proof.Machine.execKfroms d a s
  | .ktos d a => Sys2Proof.Machine.execKtos d a s
  | .kpop d a => Sys2Proof.Machine.execKpop d a s
  | .kfirst d a => Sys2Proof.Machine.execKfirst d a s
  | .kact d => Sys2Proof.Machine.execKact d s
  | .wspawn d a det team nb => Sys2Proof.Machine.execWspawn d a det team nb s
  | .wexit => Sys2Proof.Machine.execWexit s
  | .wyield => Sys2Proof.Machine.execWyield s
  | .wself d => Sys2Proof.Machine.execWself d s
  | .wprio d a b => Sys2Proof.Machine.execWprio d a b s
  | .wkill a => Sys2Proof.Machine.execWkill a s
  | .wkillCtx a => Sys2Proof.Machine.execWkillCtx a s
  | .wjoin d a nb => Sys2Proof.Machine.execWjoin d a nb s
  | .pcreate d a nb launch => Sys2Proof.Machine.execPcreate d a nb launch s
  | .pclose d a now => Sys2Proof.Machine.execPclose d a now s
  | .psend d a b rep st nb => Sys2Proof.Machine.execPsend d a b rep st nb s
  | .psendg d a b rep st nb => Sys2Proof.Machine.execPsendg d a b rep st nb s
  | .precv d a b => Sys2Proof.Machine.execPrecv d a b s
  | .ppeek d a b => Sys2Proof.Machine.execPpeek d a b s
  | .pinfo d a => Sys2Proof.Machine.execPinfo d a s
  | .nreg d a b => Sys2Proof.Machine.execNreg d a b s
  | .nlookup d a st => Sys2Proof.Machine.execNlookup d a st s
  | .ndrop d a => Sys2Proof.Machine.execNdrop d a s
  | .wsnew d nb => Sys2Proof.Machine.execWsnew d nb s
  | .wsadd d a b batch => Sys2Proof.Machine.execWsadd d a b batch s
  | .wsdel d a b => Sys2Proof.Machine.execWsdel d a b s
  | .wswait d a nb => Sys2Proof.Machine.execWswait d a nb s
  | .watch d a nb => Sys2Proof.Machine.execWatch d a nb s
  | .tarm d a b nb abs => Sys2Proof.Machine.execTarm d a b nb abs s
  | .tdisarm d a => Sys2Proof.Machine.execTdisarm d a s
  | .oclose d a => Sys2Proof.Machine.execOclose d a s
  | .xcopy d a nb h => Sys2Proof.Machine.execXcopy d a nb h s
  | .xstore d a nb h => Sys2Proof.Machine.execXstore d a nb h s
  | .xgather d a b nb h => Sys2Proof.Machine.execXgather d a b nb h s
  | .xbatch d => Sys2Proof.Machine.execXbatch d s
  | .xwaitb d a nb => Sys2Proof.Machine.execXwaitb d a nb s
  | .xwaitc d a b nb => Sys2Proof.Machine.execXwaitc d a b nb s
  | .xcancel d a batch => Sys2Proof.Machine.execXcancel d a batch s
  | .xstat d a batch => Sys2Proof.Machine.execXstat d a batch s
  | .tdecl d a nb => Sys2Proof.Machine.execTdecl d a nb s
  | .tdeclDrop d a nb => Sys2Proof.Machine.execTdeclDrop d a nb s
  | .tload d a nb h => Sys2Proof.Machine.execTload d a nb h s
  | .tstore d a nb h => Sys2Proof.Machine.execTstore d a nb h s
  | .tconv d a nb h => Sys2Proof.Machine.execTconv d a nb h s
  | .tseal d a b => Sys2Proof.Machine.execTseal d a b s
  | .tsealOpen d a b => Sys2Proof.Machine.execTsealOpen d a b s
  | .tinfo d a b => Sys2Proof.Machine.execTinfo d a b s
  | .meshdef d a => Sys2Proof.Machine.execMeshdef d a s
  | .treg d a nb => Sys2Proof.Machine.execTreg d a nb s
  | .tdrop d a => Sys2Proof.Machine.execTdrop d a s
  | .tmove d a b nb => Sys2Proof.Machine.execTmove d a b nb s
  | .solicit d a nb => Sys2Proof.Machine.execSolicit d a nb s
  | .reply a => Sys2Proof.Machine.execReply a s
  | .cwait d a st nb => Sys2Proof.Machine.execCwait d a st nb s
  | .barw d => Sys2Proof.Machine.execBarw d s
  | .barc d => Sys2Proof.Machine.execBarc d s
  | .barn d a b => Sys2Proof.Machine.execBarn d a b s
  | .gangset a => Sys2Proof.Machine.execGangset a s
  | .irb d => Sys2Proof.Machine.execIrb d s
  | .irc => Sys2Proof.Machine.execIrc s
  | .barinit d a b => Sys2Proof.Machine.execBarinit d a b s
  | .spool len => Sys2Proof.Machine.execSpool len s
  | .laneWordPair stall x y => Sys2Proof.Machine.execLaneWordPair stall x y s
  | .vadd o => Sys2Proof.Machine.execVadd o s
  | .vsub o => Sys2Proof.Machine.execVsub o s
  | .vmul o => Sys2Proof.Machine.execVmul o s
  | .vmulh o => Sys2Proof.Machine.execVmulh o s
  | .vmad o => Sys2Proof.Machine.execVmad o s
  | .vabs o => Sys2Proof.Machine.execVabs o s
  | .vneg o => Sys2Proof.Machine.execVneg o s
  | .vmin o => Sys2Proof.Machine.execVmin o s
  | .vmax o => Sys2Proof.Machine.execVmax o s
  | .vavg o => Sys2Proof.Machine.execVavg o s
  | .vsad o => Sys2Proof.Machine.execVsad o s
  | .vdot4 o => Sys2Proof.Machine.execVdot4 o s
  | .vand o => Sys2Proof.Machine.execVand o s
  | .vor o => Sys2Proof.Machine.execVor o s
  | .vxor o => Sys2Proof.Machine.execVxor o s
  | .vandn o => Sys2Proof.Machine.execVandn o s
  | .vnot o => Sys2Proof.Machine.execVnot o s
  | .vshl o => Sys2Proof.Machine.execVshl o s
  | .vshr o => Sys2Proof.Machine.execVshr o s
  | .vsra o => Sys2Proof.Machine.execVsra o s
  | .vrol o => Sys2Proof.Machine.execVrol o s
  | .vclz o => Sys2Proof.Machine.execVclz o s
  | .vpopc o => Sys2Proof.Machine.execVpopc o s
  | .vbfx o => Sys2Proof.Machine.execVbfx o s
  | .vbfi o => Sys2Proof.Machine.execVbfi o s
  | .vsel o => Sys2Proof.Machine.execVsel o s
  | .vmov o => Sys2Proof.Machine.execVmov o s
  | .vmovi o => Sys2Proof.Machine.execVmovi o s
  | .vlaneid o => Sys2Proof.Machine.execVlaneid o s
  | .vcmp o => Sys2Proof.Machine.execVcmp o s
  | .vcmpk o => Sys2Proof.Machine.execVcmpk o s
  | .vfadd o => Sys2Proof.Machine.execVfadd o s
  | .vfsub o => Sys2Proof.Machine.execVfsub o s
  | .vfmul o => Sys2Proof.Machine.execVfmul o s
  | .vfma o => Sys2Proof.Machine.execVfma o s
  | .vfmin o => Sys2Proof.Machine.execVfmin o s
  | .vfmax o => Sys2Proof.Machine.execVfmax o s
  | .vfabs o => Sys2Proof.Machine.execVfabs o s
  | .vfneg o => Sys2Proof.Machine.execVfneg o s
  | .vfcpsgn o => Sys2Proof.Machine.execVfcpsgn o s
  | .vfcmp o => Sys2Proof.Machine.execVfcmp o s
  | .vfcmpk o => Sys2Proof.Machine.execVfcmpk o s
  | .vfclass o => Sys2Proof.Machine.execVfclass o s
  | .vfdot2 o => Sys2Proof.Machine.execVfdot2 o s
  | .vfsumh o => Sys2Proof.Machine.execVfsumh o s
  | .vfrcp o => Sys2Proof.Machine.execVfrcp o s
  | .vfrsq o => Sys2Proof.Machine.execVfrsq o s
  | .vfsqrt o => Sys2Proof.Machine.execVfsqrt o s
  | .vfexp2 o => Sys2Proof.Machine.execVfexp2 o s
  | .vflog2 o => Sys2Proof.Machine.execVflog2 o s
  | .vfsin o => Sys2Proof.Machine.execVfsin o s
  | .vfcos o => Sys2Proof.Machine.execVfcos o s
  | .vftanh o => Sys2Proof.Machine.execVftanh o s
  | .vfdiv o => Sys2Proof.Machine.execVfdiv o s
  | .vcvt o => Sys2Proof.Machine.execVcvt o s
  | .vpack o => Sys2Proof.Machine.execVpack o s
  | .vunpk o => Sys2Proof.Machine.execVunpk o s
  | .vbscale o => Sys2Proof.Machine.execVbscale o s
  | .vbquant o => Sys2Proof.Machine.execVbquant o s
  | .vswz o => Sys2Proof.Machine.execVswz o s
  | .vperm o => Sys2Proof.Machine.execVperm o s
  | .vbcast o => Sys2Proof.Machine.execVbcast o s
  | .vshfl o => Sys2Proof.Machine.execVshfl o s
  | .vrfal o => Sys2Proof.Machine.execVrfal o s
  | .vred o => Sys2Proof.Machine.execVred o s
  | .vscan o => Sys2Proof.Machine.execVscan o s
  | .vballot o => Sys2Proof.Machine.execVballot o s
  | .vld o => Sys2Proof.Machine.execVld o s
  | .vst o => Sys2Proof.Machine.execVst o s
  | .vatom o => Sys2Proof.Machine.execVatom o s
  | .vpref o => Sys2Proof.Machine.execVpref o s
  | .lbr o => Sys2Proof.Machine.execLbr o s
  | .ljoin o => Sys2Proof.Machine.execLjoin o s
  | .lend o => Sys2Proof.Machine.execLend o s
  | .lnop o => Sys2Proof.Machine.execLnop o s
  | .lkill o => Sys2Proof.Machine.execLkill o s
  | .lelect o => Sys2Proof.Machine.execLelect o s
  | .ljmp o => Sys2Proof.Machine.execLjmp o s
  | .mj o => Sys2Proof.Machine.execMj o s
  | .mfence o => Sys2Proof.Machine.execMfence o s
  | .mwait o => Sys2Proof.Machine.execMwait o s
  | .amovr o => Sys2Proof.Machine.execAmovr o s
  | .amovw o => Sys2Proof.Machine.execAmovw o s
  | .azero o => Sys2Proof.Machine.execAzero o s
  | .astore o => Sys2Proof.Machine.execAstore o s
  | .vpass o => Sys2Proof.Machine.execVpass o s
  | .vtake o => Sys2Proof.Machine.execVtake o s
  | .reservedScalarOpcode w => Sys2Proof.Machine.execReservedScalarOpcode w s
  | .reservedLaneOpcode w => Sys2Proof.Machine.execReservedLaneOpcode w s
  | .trapEntry => Sys2Proof.Machine.execTrapEntry s
  | .handlerShareExpire => Sys2Proof.Machine.execHandlerShareExpire s
  | .laneBlockEnd => Sys2Proof.Machine.execLaneBlockEnd s
  | .laneResultWrite => Sys2Proof.Machine.execLaneResultWrite s
  | .fragmentReload => Sys2Proof.Machine.execFragmentReload s
  | .jointOperationComplete => Sys2Proof.Machine.execJointOperationComplete s
  | .mjLatchTimeout => Sys2Proof.Machine.execMjLatchTimeout s
  | .rendezvousTimeout => Sys2Proof.Machine.execRendezvousTimeout s
  | .launchRecordHead => Sys2Proof.Machine.execLaunchRecordHead s
  | .clusterPlace => Sys2Proof.Machine.execClusterPlace s
  | .runListAdmit => Sys2Proof.Machine.execRunListAdmit s
  | .preemption => Sys2Proof.Machine.execPreemption s
  | .idleTeamEvict => Sys2Proof.Machine.execIdleTeamEvict s
  | .completionMessage => Sys2Proof.Machine.execCompletionMessage s
  | .timeSliceSwitch => Sys2Proof.Machine.execTimeSliceSwitch s
  | .copyStart => Sys2Proof.Machine.execCopyStart s
  | .chunkComplete => Sys2Proof.Machine.execChunkComplete s
  | .copyStop => Sys2Proof.Machine.execCopyStop s
  | .timerFire => Sys2Proof.Machine.execTimerFire s
  | .watchMatch => Sys2Proof.Machine.execWatchMatch s
  | .watchPoll => Sys2Proof.Machine.execWatchPoll s
  | .nameRehome => Sys2Proof.Machine.execNameRehome s
  | .censusBroadcastArrive => Sys2Proof.Machine.execCensusBroadcastArrive s
  | .censusComplete => Sys2Proof.Machine.execCensusComplete s
  | .tmoveCommit => Sys2Proof.Machine.execTmoveCommit s
  | .tloadReadPoint => Sys2Proof.Machine.execTloadReadPoint s
  | .tconvCheck => Sys2Proof.Machine.execTconvCheck s
  | .tconvCommit => Sys2Proof.Machine.execTconvCommit s
  | .tconvRetire => Sys2Proof.Machine.execTconvRetire s
  | .wcbAgeingExpire => Sys2Proof.Machine.execWcbAgeingExpire s
  | .wcbDrainRefused => Sys2Proof.Machine.execWcbDrainRefused s
  | .tokenWindowRefill => Sys2Proof.Machine.execTokenWindowRefill s
  | .accessCountAdd => Sys2Proof.Machine.execAccessCountAdd s
  | .invalidationComplete => Sys2Proof.Machine.execInvalidationComplete s
  | .frameScrubComplete => Sys2Proof.Machine.execFrameScrubComplete s
  | .lentFrameRelease => Sys2Proof.Machine.execLentFrameRelease s
  | .bankDrainComplete => Sys2Proof.Machine.execBankDrainComplete s
  | .flitReceive => Sys2Proof.Machine.execFlitReceive s
  | .portDown => Sys2Proof.Machine.execPortDown s
  | .requestTimeout => Sys2Proof.Machine.execRequestTimeout s
  | .holdResponse => Sys2Proof.Machine.execHoldResponse s
  | .hostSnoop => Sys2Proof.Machine.execHostSnoop s
  | .hostCxlMemAccess => Sys2Proof.Machine.execHostCxlMemAccess s
  | .hostPortWrite => Sys2Proof.Machine.execHostPortWrite s
  | .hostLaunchWrite => Sys2Proof.Machine.execHostLaunchWrite s
  | .hostPortRead => Sys2Proof.Machine.execHostPortRead s
  | .spdmRequest => Sys2Proof.Machine.execSpdmRequest s
  | .contextCreate => Sys2Proof.Machine.execContextCreate s
  | .kernelLoad => Sys2Proof.Machine.execKernelLoad s
  | .kernelUnload => Sys2Proof.Machine.execKernelUnload s
  | .contextEnable => Sys2Proof.Machine.execContextEnable s
  | .contextPark => Sys2Proof.Machine.execContextPark s
  | .contextResume => Sys2Proof.Machine.execContextResume s
  | .contextTerminate => Sys2Proof.Machine.execContextTerminate s
  | .contextRelease => Sys2Proof.Machine.execContextRelease s
  | .invalidateStage1 => Sys2Proof.Machine.execInvalidateStage1 s
  | .invalidateStage2 => Sys2Proof.Machine.execInvalidateStage2 s
  | .pageReady => Sys2Proof.Machine.execPageReady s
  | .pageRefused => Sys2Proof.Machine.execPageRefused s
  | .freeFrames => Sys2Proof.Machine.execFreeFrames s
  | .hoopBankControl => Sys2Proof.Machine.execHoopBankControl s
  | .setAgeingTimer => Sys2Proof.Machine.execSetAgeingTimer s
  | .tokenAllocation => Sys2Proof.Machine.execTokenAllocation s
  | .contextBucket => Sys2Proof.Machine.execContextBucket s
  | .launchPortCreate => Sys2Proof.Machine.execLaunchPortCreate s
  | .portWindowPlace => Sys2Proof.Machine.execPortWindowPlace s
  | .msixBind => Sys2Proof.Machine.execMsixBind s
  | .windowUnmap => Sys2Proof.Machine.execWindowUnmap s
  | .setTimeSlice => Sys2Proof.Machine.execSetTimeSlice s
  | .setMigrationThreshold => Sys2Proof.Machine.execSetMigrationThreshold s
  | .holdReport => Sys2Proof.Machine.execHoldReport s
  | .hdmRange => Sys2Proof.Machine.execHdmRange s
  | .assignFrames => Sys2Proof.Machine.execAssignFrames s
  | .domainAssign => Sys2Proof.Machine.execDomainAssign s
  | .portMapWrite => Sys2Proof.Machine.execPortMapWrite s
  | .partitionChange => Sys2Proof.Machine.execPartitionChange s
  | .functionTeardown => Sys2Proof.Machine.execFunctionTeardown s
  | .teardownDrainExpire => Sys2Proof.Machine.execTeardownDrainExpire s
  | .lentFrameReclaim => Sys2Proof.Machine.execLentFrameReclaim s
  | .portRetrainRequest => Sys2Proof.Machine.execPortRetrainRequest s
  | .setPowerCap => Sys2Proof.Machine.execSetPowerCap s
  | .powerCapEvaluate => Sys2Proof.Machine.execPowerCapEvaluate s
  | .powerGood => Sys2Proof.Machine.execPowerGood s
  | .startStageB => Sys2Proof.Machine.execStartStageB s
  | .dieJoin => Sys2Proof.Machine.execDieJoin s
  | .fullRetrainComplete => Sys2Proof.Machine.execFullRetrainComplete s
  | .parkRequest => Sys2Proof.Machine.execParkRequest s
  | .resumeRequest => Sys2Proof.Machine.execResumeRequest s
  | .iodUncorrectableError => Sys2Proof.Machine.execIodUncorrectableError s
  | .uncorrectedError => Sys2Proof.Machine.execUncorrectedError s
  | .restart => Sys2Proof.Machine.execRestart s
  | .patrolScrub => Sys2Proof.Machine.execPatrolScrub s
  | .hbmRecalibration => Sys2Proof.Machine.execHbmRecalibration s
  | .telemetrySample => Sys2Proof.Machine.execTelemetrySample s
  | .telemetryRead => Sys2Proof.Machine.execTelemetryRead s
  | .wearCounterRead => Sys2Proof.Machine.execWearCounterRead s
  | .hoursWrite => Sys2Proof.Machine.execHoursWrite s
  | .thermalCycle => Sys2Proof.Machine.execThermalCycle s
  | .powerLoss => Sys2Proof.Machine.execPowerLoss s
  | .orderlyPowerOff => Sys2Proof.Machine.execOrderlyPowerOff s
  | .rimLinkTrained => Sys2Proof.Machine.execRimLinkTrained s
  | .correctedError => Sys2Proof.Machine.execCorrectedError s
  | .windowedAccess => Sys2Proof.Machine.execWindowedAccess s
  | .windowInstruction => Sys2Proof.Machine.execWindowInstruction s
  | .serviceCoreImageRestart => Sys2Proof.Machine.execServiceCoreImageRestart s

end Sys2Proof.Machine
end

