-- ==== Sys2Proof/Machine/Sched.lean ====
section
/-!
DEFINITION. What moves next. Time passes, and one turn is taken among the words that may issue, the events that may be due, and
the oldest input of the world outside (log entry 5).
-/

namespace Sys2Proof.Machine

/-! ## Choice of issue (R140, R143, R144)

Latencies are left out (log entry 7), so which of the ready entities are ready in the cycle is a free value; among those that are, the
port takes the one that R143 and R144 name. A word that waits has issued: what it waits for is looked at again in a turn that is no issue
cycle. -/

/-- A ready entity of an issue port (R143): the scalar stream of a wave, or a path in a slot or in the split table. -/
structure Entity where
  dev : Nat
  core : Nat
  lane : Bool
  cls : Nat
  eff : Nat
  issued : Nat
  turn : Turn

/-- The ready entities of the scalar ports. The work of a placed wave has EFF = BASE (R142). -/
def State.scalarEntities (s : State) : List Entity :=
  (s.allWaves.filter s.scalarIssues).map fun w =>
    { dev := w.dev, core := w.core, lane := false, cls := w.issueClass, eff := w.prio.toNat, issued := w.issued, turn := .scalar w.uid }

/-- Whether a path stands in a slot. -/
def Path.inSlot (p : Path) : Bool := p.place == .slotA || p.place == .slotB

/-- Whether a path may take its wave's turn: when both slots are able to issue, the one that did not issue last (R140). -/
def Wave.slotTurn (w : Wave) (p : Path) : Bool :=
  !(p.inSlot && p.place == w.eng.last && w.eng.paths.any fun x => x.issues && x.inSlot && x.id != p.id)

/-- The ready entities of the lane ports; issue is withheld from some waves (R28). -/
def State.laneEntities (s : State) (withheld : Wave → Bool) : List Entity :=
  (s.allWaves.filter fun w => s.laneReady w && !withheld w).flatMap fun w =>
    (w.eng.paths.filter fun p => p.issues && w.slotTurn p).map fun p =>
      { dev := w.dev, core := w.core, lane := true, cls := w.issueClass, eff := w.prio.toNat, issued := p.issued, turn := .lane w.uid p.id }

/-- The turns of the words that wait, in which what they wait for is looked at again. -/
def State.waitTurns (s : State) : List Turn :=
  ((s.allWaves.filter fun w => s.scalarReady w && w.wait.isSome).map fun w => .scalar w.uid) ++
    (s.allWaves.filter s.laneReady).flatMap fun w =>
      (w.eng.paths.filter fun p => p.ready && !p.issues).map fun p => .lane w.uid p.id

/-- The entity that issued least recently (R143). -/
def leastRecent (es : List Entity) : Option Entity :=
  es.foldl (fun best e => match best with
    | none => some e
    | some b => if e.issued < b.issued then some e else some b) none

/-- A port with no history. -/
def IssuePort.blank (dev core : Nat) (lane : Bool) : IssuePort := { dev, core, lane, missed2 := 0, missed3 := 0, recent := [] }

/-- The history of the port of a core. -/
def State.issuePort (s : State) (dev core : Nat) (lane : Bool) : IssuePort :=
  (s.issuePorts.find? fun p => p.dev == dev && p.core == core && p.lane == lane).getD (.blank dev core lane)

/-- The issue cycles of a class since an entity issued (R144). -/
def IssuePort.since (p : IssuePort) (e : Entity) : Nat := (p.recent.filter fun x => x.1 == e.cls && e.issued < x.2).length

/-- The entity of a class that issues next (R143, R144): first those without an issue in max(63, E − 1) issue cycles of the class, then, in
class 3, those of highest EFF; the least recent of them. -/
def IssuePort.head (p : IssuePort) (es : List Entity) : Option Entity :=
  let owed := es.filter fun e => max 63 (es.length - 1) ≤ p.since e
  let top := (es.map (·.eff)).foldl max 0
  (leastRecent owed).or (leastRecent (es.filter fun e => e.cls != 3 || e.eff == top))

/-- The class that issues next on a port (R143, R144): class 2 or 3 when seven cycles in a row have passed it over, else the first that has
a ready entity. -/
def IssuePort.nextClass (p : IssuePort) (es : List Entity) : Nat :=
  let has (k : Nat) : Bool := es.any (·.cls == k)
  if 7 ≤ p.missed2 && has 2 then 2
  else if 7 ≤ p.missed3 && has 3 then 3
  else if has 1 then 1 else if has 2 then 2 else 3

/-- The entity that issues next on a port, of those that are ready (R143). -/
def IssuePort.chosen (p : IssuePort) (es : List Entity) : Option Entity := p.head (es.filter fun e => e.cls == p.nextClass es)

/-- A port after an issue: `seq` is the number of the issue. The lane port has at most 192 ready entities (R144). -/
def IssuePort.after (p : IssuePort) (es : List Entity) (e : Entity) (seq : Nat) : IssuePort :=
  let missed (k n : Nat) : Nat := if e.cls == k then 0 else if es.any (·.cls == k) then n + 1 else n
  { p with missed2 := missed 2 p.missed2, missed3 := missed 3 p.missed3, recent := ((e.cls, seq) :: p.recent).take 1600 }

/-- The ports that have a ready entity, each with its entities. -/
def portsOf (es : List Entity) : List (List Entity) :=
  ((es.map fun e => (e.dev, e.core, e.lane)).eraseDups).map fun c => es.filter fun e => (e.dev, e.core, e.lane) == c

/-- What each port with a ready entity would issue: the entity, and the history of the port after it. -/
def State.portChoices (s : State) (es : List Entity) : List (Entity × IssuePort) :=
  (portsOf es).filterMap fun xs =>
    match xs with
    | [] => none
    | x :: _ =>
      let p := s.issuePort x.dev x.core x.lane
      (p.chosen xs).map fun e => (e, p.after xs e s.issueSeq)

/-- The entities that are not late: by draw `n`. -/
def onTime (n : Nat) (es : List Entity) : List Entity := (es.zipIdx.filter fun x => !Config.late n x.2).map (·.1)

/-- The words that may issue next on the ports of all cores. -/
def State.wordChoices (s : State) (n m : Nat) (withheld : Wave → Bool) : List (Entity × IssuePort) :=
  s.portChoices (onTime n s.scalarEntities) ++ s.portChoices (onTime m (s.laneEntities withheld))

/-- A word chosen: its turn, and the history of its port. -/
def State.takeChoice (s : State) (c : Entity × IssuePort) : State :=
  let others := s.issuePorts.filter fun p => !(p.dev == c.2.dev && p.core == c.2.core && p.lane == c.2.lane)
  { s with turn := c.1.turn, issuePorts := c.2 :: others }

/-- Whether lane issue is withheld from a wave in a turn (R28): by the classes withheld at its device, in the cycles that draw `n`
says. -/
def State.withholds (s : State) (n : Nat) (w : Wave) : Bool :=
  match s.dev? w.dev with
  | some d => d.withheld != 0 && (Config.undef64 n d.id).toNat % 2 == 1 && withheldFrom d.withheld w
  | none => false

/-- The cycles of 600 MHz that end on a device as nanoseconds pass (R10). -/
def Dev.cycles (d : Dev) (ns : Nat) : Nat := (d.tick + ns * 3) / 5

/-- The cores on which a context has a resident wave. -/
def State.coresOf (s : State) (ctx : Nat) : Nat :=
  ((s.allWaves.filter fun w => w.ctx == ctx && w.st.onCore).map (·.core)).eraseDups.length

/-- The largest time base among a pod's linked devices (R24). -/
def State.podTime (s : State) : Nat :=
  ((s.devs.filter fun (d : Dev) => s.rimPorts.any fun (p : RimPort) => p.dev == d.id && p.st == .up).map (·.time)).foldl max 0

/-- The time base of a device after `ns`: a linked device that is behind slews towards the pod's largest, by at most one part in a
thousand of the time that passes (R24). How much below that it gains is open: draw `n` says (DESIGN CHOICE, log entry 54). -/
def State.timeAfter (s : State) (d : Dev) (ns n : Nat) : Dev :=
  let linked := s.rimPorts.any fun (p : RimPort) => p.dev == d.id && p.st == .up
  let behind := if linked then s.podTime - d.time else 0
  let most := (d.slew + ns) / 1000
  { d with time := d.time + ns + min behind ((Config.undef64 n (256 + d.id)).toNat % (most + 1)), slew := (d.slew + ns) % 1000,
           tick := (d.tick + ns * 3) % 5 }

/-- The cores on which a context loses issue cycles to the power cap (R28). -/
def State.withheldCores (s : State) (n ctx : Nat) : Nat :=
  ((s.allWaves.filter fun w => w.ctx == ctx && s.laneReady w && s.withholds n w).map (·.core)).eraseDups.length

/-- The cycles of a context's device that end as time passes. -/
def State.ctxCycles (s : State) (ns : Nat) (c : Ctx) : Nat := ((s.dev? c.dev).map (·.cycles ns)).getD 0

/-- The issue cycles that a context loses to the power cap as time passes (R28). -/
def State.lostCycles (s : State) (ns n : Nat) (c : Ctx) : Nat := s.withheldCores n c.uid * s.ctxCycles ns c

/-- Time passes: the time bases, the THROTTLE total of each device, and the CYCLES, THROTTLE and credit of every context with a resident
wave (R24, R28, R109, R112, R434). -/
def State.elapse (s : State) (ns n : Nat) : State :=
  { s with
    devs := s.devs.map fun (d : Dev) =>
      let lost := ((s.ctxs.filter fun (c : Ctx) => c.dev == d.id).map (s.lostCycles ns n)).sum
      { s.timeAfter d ns n with throttled := d.throttled + lost },
    ctxs := s.ctxs.map fun (c : Ctx) =>
      let cores := s.coresOf c.uid
      if cores = 0 then c
      else
        { c with
          counters := { c.counters with
            cycles := c.counters.cycles + .ofNat 64 (cores * s.ctxCycles ns c)
            throttle := c.counters.throttle + .ofNat 64 (s.lostCycles ns n c) }
          credit := c.credit - (cores * s.ctxCycles ns c : Nat) } }

/-- The events of the rim that may not come later: a port trains for 10 ms at most from its stored parameters, and for 2 s in a full retrain
(R404, R436); a request waits 1 ms for its response (R412). -/
def State.overdueLinks (s : State) : List Event :=
  ((s.rimPorts.filter fun (p : RimPort) => p.st == .training && !p.full && decide (p.since + 10000000 ≤ s.time p.dev)).map fun p =>
      .portDown p.dev p.port) ++
    ((s.rimPorts.filter fun (p : RimPort) =>
      p.full && ((s.dev? p.dev).map (·.trains)).getD false && decide (p.since + 2000000000 ≤ s.time p.dev)).map fun p =>
      .fullRetrainComplete p.dev (.rimPort p.port)) ++
    (s.rimReqs.filter fun (r : RimReq) => decide (r.issued + 1000000 ≤ s.time r.dev)).map fun r => .requestTimeout r.dev r.tag

/-- The events of a start that may not come later: a die joins as soon as its interfaces are trained (R427), and a full retrain of a whole device
is complete within 90 s (R428). -/
def State.overdueStart (s : State) : List Event :=
  s.devs.flatMap fun (d : Dev) =>
    ((List.range 8).filter (s.mayJoin d)).map (.dieJoin d.id) ++
      if d.trains && decide (d.startAt + 90000000000 ≤ d.time) then
        (allInterfaces.filter fun i => !d.trained.contains i).map (.fullRetrainComplete d.id)
      else []

/-- The events that may not come later: a timer fires within 1 µs of its deadline (R319), a polled watch is read every 1 µs (R322), buckets
are refilled as their window ends (R235), and HOURS is written every 10 minutes (R432). -/
def State.overdue (s : State) : List Event :=
  ((s.timers.filter fun (t : Timer) => t.armed && s.recordsEvents t.ctx && t.deadline.toNat + 1000 ≤ s.time t.dev).map fun t =>
      .timerFire t.uid) ++
    ((s.watches.filter fun (w : Watch) =>
      w.polled && decide (w.polledAt + 1000 ≤ ((s.ctx? w.ctx).map fun c => s.time c.dev).getD 0)).map fun w => .watchPoll w.uid) ++
    (s.buckets.filter s.windowOver).map (fun b => .tokenWindowRefill b.dev b.port) ++ s.overdueLinks ++ s.overdueStart ++
    (s.devs.filter fun (d : Dev) => d.stage != .off && s.svcRuns d.id housekeeping && decide (d.hoursFrom + 600000000000 ≤ d.time)).map fun d =>
      .hoursWrite d.id

/-! ## The events that may be due

Each list holds every event of its kind that may be due, and some that are not: an event that is not due changes nothing. -/

/-- Events of waves, their paths and the cores that they stand on. -/
def State.waveEvents (s : State) : List Event :=
  (s.allWaves.flatMap fun w =>
    [.trapEntry w.uid, .handlerShareExpire w.uid, .laneBlockEnd w.uid, .mjLatchTimeout w.uid] ++
      ((w.eng.paths ++ w.held.paths).flatMap fun p => [.laneResultWrite w.uid p.id, .rendezvousTimeout w.uid p.id])) ++
    ((s.allWaves.map fun w => (w.dev, w.core)).eraseDups.map fun c => .fragmentReload c.1 c.2) ++
    s.jointOps.map fun j => .jointOperationComplete j.uid

/-- Events of the dispatcher. -/
def State.placeEvents (s : State) : List Event :=
  (s.ports.filter (·.launch)).map (fun p => .launchRecordHead p.uid) ++
    (s.clusters.flatMap fun c => .runListAdmit c.uid :: (List.range 512).map (.clusterPlace c.uid)) ++
    s.responders.map (fun m => .clusterPlace m.uid m.core) ++
    (s.launches.flatMap fun l => [.runListAdmit l.uid, .completionMessage l.uid]) ++
    (s.launches.flatMap fun l => s.clusters.flatMap fun c => (List.range 512).map (.preemption l.uid c.uid)) ++
    s.teams.map (fun t => .idleTeamEvict t.uid) ++ s.parts.map fun p => .timeSliceSwitch p.dev p.num

/-- Events of copies, tensors, censuses and objects. -/
def State.objectEvents (s : State) : List Event :=
  (s.copies.flatMap fun c =>
    [.copyStart c.uid, .tloadReadPoint c.uid, .tconvCheck c.uid, .tconvCommit c.uid, .tconvRetire c.uid] ++
      (List.range (chunksOf (s.copyTotal c))).flatMap fun k =>
        [.chunkComplete c.uid k, .copyStop c.uid k] ++ (s.chunkWords c k).map (.chunkWord c.uid k)) ++
    s.timers.map (fun t => .timerFire t.uid) ++ (s.watches.flatMap fun w => [.watchMatch w.uid, .watchPoll w.uid]) ++
    (s.parts.filterMap (·.nextDomain)).map .nameRehome ++
    (s.censuses.flatMap fun c => .censusComplete c.uid ::
      c.targets.flatMap fun d => (List.range 512).map (.censusBroadcastArrive c.uid d)) ++
    s.tiles.map fun t => .tmoveCommit t.uid

/-- Events of memory below the accesses. -/
def State.pageEvents (s : State) (n : Nat) : List Event :=
  (s.wcb.flatMap fun e => [.wcbAgeingExpire e.dev e.core e.line, .wcbDrainRefused e.dev e.core e.line false,
      .wcbDrainRefused e.dev e.core e.line true]) ++
    s.buckets.map (fun b => .tokenWindowRefill b.dev b.port) ++ s.tlb.map (fun e => .accessCountAdd e.dev e.core e.va true) ++
    s.invals.map (fun i => .invalidationComplete i.uid) ++
    (s.owners.filter fun o => o.code == 0xFE && o.count != 0).map (fun o =>
      .frameScrubComplete o.dev (o.first + Config.pick n % o.count)) ++
    s.lent.map (fun l => .lentFrameRelease l.dev l.addr) ++
    (s.banks.filter fun b => b.pending.isSome).map fun b => .bankDrainComplete b.dev b.hoop b.bank

/-- Events of the rim: a flit that a peer keeps for replay arrives here. -/
def State.rimEvents (s : State) : List Event :=
  (s.rimPorts.flatMap fun p => [.portDown p.dev p.port, .rimLinkTrained p.dev p.port, .fullRetrainComplete p.dev (.rimPort p.port)] ++
    (match s.farPort p with
      | some q => q.replay.map (.flitReceive p.dev p.port)
      | none => [])) ++
    (s.rimReqs.flatMap fun r => [.requestTimeout r.dev r.tag, .holdResponse r.dev r.tag]) ++
    (s.funcs.filter (·.draining)).map fun f => .teardownDrainExpire f.dev f.num

/-- Events of devices: work that runs behind the programs. -/
def State.deviceEvents (s : State) (n : Nat) : List Event :=
  s.devs.flatMap fun d =>
    if d.stage == .off then []
    else
      (List.range 8).map (.dieJoin d.id) ++
        ((allInterfaces.filter fun i => !d.trained.contains i).map (.fullRetrainComplete d.id)) ++
        [.powerCapEvaluate d.id (Config.sensor 2 n), .patrolScrub d.id (Config.pick n % frameCount),
          .hbmRecalibration d.id (Config.pick n % 512), .telemetrySample d.id, .hoursWrite d.id, .thermalCycle d.id]

/-- The events that may be due. -/
def State.dueEvents (s : State) (n : Nat) : List Event :=
  s.waveEvents ++ s.placeEvents ++ s.objectEvents ++ s.pageEvents n ++ s.rimEvents ++ s.deviceEvents n

/-! ## Inputs (R30, R427, R429, R430, R435) -/

/-- The service core that serves a partition (R17); nothing serves what is bound to none. -/
def partCore (dev part : Nat) : Option (Nat × Nat) := if part = 0 then none else some (dev, part - 1)

/-- The service core that serves the context's partition. -/
def State.ctxCore (s : State) (u : Nat) : Option (Nat × Nat) := (s.ctx? u).bind fun c => partCore c.dev c.part

/-- The service core that serves a function's partition. -/
def State.funcCore (s : State) (dev func : Nat) : Option (Nat × Nat) := (s.func? dev func).bind fun f => partCore dev f.part

/-- The service core that a request waits for (R17, R30): the one of its partition, or the root monitor, for start, park, resume and
attestation too. -/
def State.servedBy (s : State) : Event → Option (Nat × Nat)
  | .hoopBankControl dev hoop _ _ _ =>
    (s.parts.find? fun (p : Part) => p.dev == dev && p.hoops.contains hoop).bind fun p => partCore dev p.num
  | .freeFrames dev part _ _ | .setAgeingTimer dev part _ | .setTimeSlice dev part _ => partCore dev part
  | .contextBucket u _ _ | .contextEnable u _ | .launchPortCreate u _ _ | .setMigrationThreshold u _ _ => s.ctxCore u
  | .contextCreate dev x => s.funcCore dev x.func
  | .portWindowPlace dev func _ _ => s.funcCore dev func
  | .tokenAllocation dev _ _ _ | .hdmRange dev _ _ _ _ | .assignFrames dev _ _ _ | .domainAssign dev _ _ | .partitionChange dev _ _
  | .functionTeardown dev _ | .lentFrameReclaim dev _ | .portRetrainRequest dev _ | .portMapWrite dev _ _ _ | .setPowerCap dev _
  | .parkRequest dev | .resumeRequest dev | .startStageB dev _ _ _ _ _ | .spdmRequest dev _ | .serviceCoreImageRestart dev _ =>
    some (dev, rootMonitor)
  | _ => none

/-- The device whose control port a request comes to. -/
def State.portOf (s : State) : Event → Option Nat
  | .startStageB _ _ _ _ _ _ | .serviceCoreImageRestart _ _ => none
  | .invalidateStage1 dev _ _ _ _ _ | .invalidateStage2 dev _ _ _ _ | .msixBind dev _ _ _ | .resumeRequest dev | .parkRequest dev
  | .wearCounterRead dev | .telemetryRead dev _ | .restart dev => some dev
  | .kernelLoad u _ _ _ _ | .kernelUnload u _ | .contextPark u | .contextResume u | .contextTerminate u | .contextRelease u
  | .pageReady u _ | .pageRefused u _ | .holdReport u => (s.ctx? u).map (·.dev)
  | .windowUnmap p _ => (s.port? p).map (·.dev)
  | e => (s.servedBy e).map (·.1)

/-- The status and telemetry reads. -/
def isRead : Event → Bool
  | .telemetryRead _ _ | .wearCounterRead _ | .holdReport _ => true
  | _ => false

/-- A change of what a partition holds (R423): the device, and the partition that it affects. -/
def changeOf : Event → Option (Nat × Nat)
  | .partitionChange dev part _ | .domainAssign dev part _ | .tokenAllocation dev _ part _ | .hdmRange dev _ part _ _ => some (dev, part)
  | .assignFrames dev _ _ code => some (dev, code.toNat)
  | _ => none

/-- Whether a control port answers a request while the device is parked (R430): the resume request, status and telemetry. A partition
change is held (R429). -/
def answersParked (e : Event) : Bool :=
  isRead e || (changeOf e).isSome || match e with
    | .resumeRequest _ => true
    | _ => false

/-- Whether a request is served in stage A (R427). Which stage a request belongs to is not stated: reads, measurement and restart are served
from the end of stage A, park from stage C, the others from stage B (DESIGN CHOICE, log entry 41). -/
def answersStageA (e : Event) : Bool :=
  isRead e || match e with
    | .spdmRequest _ _ | .restart _ => true
    | _ => false

/-- Whether the stage of a request is not reached (R427, R429). -/
def Dev.early (d : Dev) (e : Event) : Bool :=
  match d.stage with
  | .off => true
  | .stageA => !(d.ready hostInterfaces && answersStageA e)
  | .stageB => match e with
    | .parkRequest _ => true
    | _ => false
  | .full => false

/-- Whether a wave of a context has a tile entry under way to another core (R376). -/
def State.ctxMoving (s : State) (u : Nat) : Bool := s.allWaves.any fun w => w.ctx == u && w.st.onCore && w.moving

/-- Whether a function of a partition switches, or is torn down (R435). -/
def State.partBusy (s : State) (p : Part) : Bool :=
  s.sliceOver p || s.funcs.any fun (f : Func) => f.dev == p.dev && f.part == p.num && f.draining

/-- Whether a park entry cannot go on (R429): it begins once no switch and no teardown is in progress, and ends once no started copy runs. -/
def State.parkWaits (s : State) (dev : Nat) : Bool :=
  if s.devParking dev then s.devCopiesRun dev
  else s.parts.any fun (p : Part) => p.dev == dev && s.partBusy p

/-- Whether a request is held back by a park, a switch, a teardown or a copy in progress (R114, R386, R429, R435). -/
def State.inputBusy (s : State) (e : Event) : Bool :=
  let changes := match changeOf e with
    | some (dev, part) => s.devParked dev || s.devParking dev || ((s.part? dev part).map s.partBusy).getD false
    | none => false
  changes || match e with
    | .contextResume u => ((s.ctx? u).map fun c => c.st == .parked && s.copiesRun u).getD false
    | .contextPark u => s.ctxMoving u
    | .parkRequest dev => s.parkWaits dev || s.ctxs.any fun (c : Ctx) => c.dev == dev && s.ctxMoving c.uid
    | .resumeRequest dev => s.devParking dev
    | .startStageB dev _ _ _ _ _ =>
      ((s.dev? dev).map fun d => (d.stage == .off || d.stage == .stageA) && !d.readyForB).getD false
    | _ => false

/-- Whether a request waits: for its stage (R427, R429), for its service core (R30), or for what is in progress (R435). -/
def State.inputWaits (s : State) (e : Event) : Bool :=
  (((s.portOf e).bind s.dev?).map fun d => d.early e).getD false ||
    (((s.servedBy e).bind fun c => s.svc? c.1 c.2).map fun c => !c.running).getD false || s.inputBusy e

/-- Whether a request is refused because its device is parked (R430), or has reported an error of its IOD, which nothing but a restart
ends (R437). -/
def State.inputRefused (s : State) (e : Event) : Bool :=
  match (s.portOf e).bind s.dev? with
  | some d => if d.iodError then !answersStageA e else d.parked && !answersParked e
  | none => false

/-- The oldest input that does not wait, and the others. Partition changes of a device keep their order (R435): `held` lists the
devices of those that wait. -/
def State.nextInput (s : State) (held : List Nat) : List Event → Option (Event × List Event)
  | [] => none
  | e :: rest =>
    let dev := (changeOf e).map (·.1)
    if !s.inputRefused e && (s.inputWaits e || (dev.map held.contains).getD false) then
      (s.nextInput (dev.toList ++ held) rest).map fun x => (x.1, e :: x.2)
    else some (e, rest)

/-- A turn among those that are possible; which one is unspecified (R7). An input is the oldest that does not wait. -/
def State.choose (s : State) (words : List (Entity × IssuePort)) (turns : List Turn) (n : Nat) : State :=
  let input := s.nextInput [] s.inputs
  let count := words.length + turns.length + (if input.isSome then 1 else 0)
  if count = 0 then s
  else
    let i := Config.pick n % count
    match words[i]?, turns[i - words.length]?, input with
    | some c, _, _ => s.takeChoice c
    | none, some t, _ => { s with turn := t }
    | none, none, some (e, rest) => if s.inputRefused e then { s with inputs := rest } else { s with turn := .event e, inputs := rest }
    | none, none, none => s

/-! ## What copies have written and loads need not see yet (R246) -/

/-- A late write becomes visible. -/
def LateWrite.perform (s : State) (x : LateWrite) : State :=
  match x.team with
  | none => s.writePhys x.place x.bytes
  | some t => s.writeScratch t x.place x.copy (some x.chunk) x.bytes

/-- Whether a scalar word orders nothing and writes no memory: a load, a branch or a word that computes in registers. -/
def ordersNothing : Instr → Bool
  | .sst _ _ _ _ | .syswr _ _ | .hpcWrite _ | .lrun _ | .kfroms _ _ => false
  | .slui _ _ | .slit _ _ => true
  | i => !(scalarReads i).isEmpty

/-- The next scalar word of a wave, as it stands in memory. -/
def State.peekScalar (s : State) (w : Wave) : Option Instr :=
  match (s.translate (s.whoOf w) .fetch w.pc.toNat false).1 with
  | .at p _ => (decodeScalar (Memory.readLE s.mem p 4)).toOption
  | _ => none

/-- Whether the turn is that of a word that orders nothing. -/
def State.turnOrdersNothing (s : State) : Bool :=
  match s.turn with
  | .scalar u => ((s.wave? u).bind s.peekScalar).any ordersNothing
  | _ => false

/-- Before any turn but that of a word that orders nothing, what copies have written is visible: each acquire of R246 is among them, and a load
that finds an old byte after it has seen the bit of its chunk comes before them (R242, R441). -/
def State.seeLate (s : State) : State :=
  if s.late.isEmpty || s.turnOrdersNothing then s else s.late.foldl LateWrite.perform { s with late := [] }

/-- An event that may not come later. -/
def State.urge (s : State) (e : Event) : State := { s with turn := .event e }

/-- The next turn: what may not come later, or time passes and one of the possible turns is taken (R7, R143). -/
def State.settle (s : State) : State :=
  let s := s.unfocus
  match s.overdue with
  | e :: _ => (s.urge e).seeLate
  | [] =>
  let (n, s) := s.draw
  let (m, s) := s.draw
  let (k, s) := s.draw
  let s := (s.elapse (Config.elapsedNs n) k).moveHeld
  (s.choose (s.wordChoices n m (s.withholds k)) (s.waitTurns ++ (s.dueEvents n).map Turn.event) n).seeLate

end Sys2Proof.Machine
end

