-- ==== Sys2Proof/Machine/Step.lean ====
section
/-!
DEFINITION. One step: an idle machine chooses its next turn; a turn fetches and decodes its instruction and executes it.
-/

namespace Sys2Proof.Machine

/-- The turn is over. -/
def State.rest (s : State) : State := { s with turn := .idle }

/-- The outcome of a turn: what its instruction gives, with the turn over. -/
def afterTurn : Host.Outcome State Fault Refusal → Host.Outcome State Fault Refusal
  | .next s => .next s.rest
  | .fault r => .fault r
  | .refused r => .refused r

/-- A word executed at a boundary where trap `t` is due in `due` (R389). -/
def contested (t : Trap) (due : State) : Host.Outcome State Fault Refusal → Host.Outcome State Fault Refusal
  | .next s => .next (due.orDue t s)
  | .fault r => .fault r
  | .refused r => .refused r

/-- One step. -/
def step (s : State) : Host.Outcome State Fault Refusal :=
  match s.turn with
  | .idle => .next s.settle
  | _ =>
    match s.fetchTurn with
    | .run i s' => afterTurn (exec i s')
    | .done s' => .next s'.rest
    | .contest i s' t due => afterTurn (contested t due (exec i s'))

/-- A word placed where the next step fetches it (log entry 1): a scalar word of 32 bits, or a lane word of 96. -/
def State.withFetchWord (s : State) (nbits w : Nat) : State :=
  if nbits ≤ 32 then s.place false (w % 2 ^ 32) else s.place true (w % 2 ^ 96)

end Sys2Proof.Machine
end

