-- ==== Sys2Proof/Safety.lean ====
section
/-!
DEFINITION. What a run is, when it is safe, the invariant that memory keeps its canonical form, and the terms in which the
statements say what a word reads, writes and leaves alone.
-/

namespace Sys2Proof.Machine

/-! ## Runs -/

/-- The state after `n` steps, if no step stops. -/
def State.after : Nat → State → Option State
  | 0, s => some s
  | n + 1, s =>
    match step s with
    | .next t => t.after n
    | _ => none

/-- A state from which no step ever stops. -/
def State.Safe (s : State) : Prop := ∀ n, (s.after n).isSome

/-- Physical memory is in its canonical form (log entry 3): equal memories are equal lists. -/
abbrev State.MemWf (s : State) : Prop := Memory.wf s.mem = true

/-- Physical memory and every team's scratchpad are in their canonical form. -/
structure State.Canonical (s : State) : Prop where
  memory : s.MemWf
  scratch : ∀ t ∈ s.teams, Memory.wf t.scratch = true

/-! ## Frames

What a state has in common with another. `s` is the state before, `t` the state after. -/

/-- Every byte of physical memory reads as before. -/
def SameMem (s t : State) : Prop := ∀ a, Memory.read t.mem a = Memory.read s.mem a

/-- The executing wave once its scalar word is done and the scalar stream goes on at `pc`: the word before, the count of scalar
words and the end of a wait change with it, and nothing else. It is resident again unless a path waits at a rendezvous move. -/
def Wave.movedTo (w : Wave) (pc : Word) : Wave :=
  { w with pc, prev := w.pc, swords := w.swords + 1, wait := none, st := if w.st = .waiting ∧ w.atSlot = false then .resident else w.st }

/-- A scalar word is done and changed nothing but the pc. -/
def Moves (s t : State) (pc : Word) : Prop := t = { s with cw := s.cw.movedTo pc } ∧ SameMem s t

/-- A scalar word is done, with `x` in s[d] (nothing written for s0, which reads 0) and nothing else changed but the pc. A poison
mark of the register written is gone; every other one stays. -/
structure WritesReg (s t : State) (d : SReg) (x pc : Word) : Prop where
  value : ∀ r, t.rs r = if r = d ∧ d ≠ 0 then x else s.rs r
  wave : t.cw = { s.cw.movedTo pc with s := t.cw.s }
  poison : ∀ u, u ∈ t.poison ↔ u ∈ s.poison ∧ u ≠ .sReg s.cw.uid d
  rest : t = { s with cw := t.cw, poison := t.poison }
  memory : SameMem s t

/-- A scalar word is done, with `x` in k[d] and nothing else changed but the pc. -/
structure WritesMask (s t : State) (d : KReg) (x : BitVec 32) (pc : Word) : Prop where
  value : ∀ r, t.cw.rk r = if r = d then x else s.cw.rk r
  wave : t.cw = { s.cw.movedTo pc with k := t.cw.k }
  poison : ∀ u, u ∈ t.poison ↔ u ∈ s.poison ∧ u ≠ .kReg s.cw.uid d
  rest : t = { s with cw := t.cw, poison := t.poison }
  memory : SameMem s t

/-! ## Memory accesses -/

/-- No poison marks the registers listed. -/
def State.Clean (s : State) (rs : List SReg) : Prop := ∀ r ∈ rs, ErrUnit.sReg s.cw.uid r ∉ s.poison

/-- The access of `n` bytes at a generic address goes to `l` once translated and checked; `u` is the state with the accessed and
dirty bits that the walk set and the TLB entry that it filled. -/
def State.Reaches (s : State) (acc : Acc) (addr : Word) (n : Nat) (l : Loc) (u : State) : Prop :=
  s.locate s.cw acc addr.toNat n = (.ok l, u)

/-- No access of the page is counted: the TLB entry that serves it, if any, has CT in neither leaf (R355). -/
def State.Uncounted (u : State) (page : Nat) : Prop :=
  ∀ e, u.tlbHit (u.whoOf u.cw) page = some e → e.ct1 = false ∧ e.ct2 = false

/-- A physical address of the device of the executing wave, with no poisoned word among `n` bytes. -/
def State.Local (u : State) (p n : Nat) : Prop :=
  isPeer u.cw.dev p = false ∧ isPeer (u.whoOf u.cw).dev p = false ∧ u.poisonedMem p n = false

/-- The byte that the executing wave sees at a generic address where memory or a scratchpad holds `b`: that of its open region's buffer, if it
has stored there (R351). -/
def State.sees (s : State) (a : Nat) (b : Byte) : Byte :=
  (s.cw.region.bind fun r => (r.buf.find? fun c => c.1 == a).map (·.2)).getD b

/-- The number that `n` bytes seen from a generic address on make, little-endian, where those of memory are `b 0`, `b 1` and so on. -/
def State.seen (s : State) (a n : Nat) (b : Nat → Byte) : Nat := ((List.range n).map fun i => (s.sees (a + i) (b i)).toNat * 256 ^ i).sum

/-- Memory after `n` bytes of a number are stored at `p`, little-endian. -/
def StoredAt (u t : State) (p n x : Nat) : Prop :=
  ∀ b, Memory.read t.mem b = if p ≤ b ∧ b < p + n then BitVec.ofNat 8 (x / 256 ^ (b - p)) else Memory.read u.mem b

/-! ## Traps -/

/-- A trap would enter a handler: the wave's kernel names one, the wave is at ordinary level, and none of its lane paths is the
executing one. -/
structure HasHandler (s : State) (k : Kernel) (h : Nat) : Prop where
  kernel : s.kernelOf s.cw = some k
  handler : k.handler = some h
  level : s.cw.level = .ordinary
  path : s.cp.live = false

/-- The wave has taken a trap and stands at the first word of its handler (R387, R390): lane results in progress are written, the
six handler registers tell of the trap, the blocks are held or, with an open region, discarded (R353) with the wave's holds (R354), and
every other register is as before. Outside the wave, the marks of joint operations whose operands were written can change, and tiles
that they leave undefined (R289). -/
structure EntersHandler (s u : State) (t : Trap) (hpc : Word) (k : Kernel) (h : Nat) : Prop where
  cause : u.cw.hcause = .ofNat 64 (t.cause + (if t.lane then 256 else 0) + (if t.pend then 512 else 0) + (if t.xfer then 1024 else 0))
  hpc : u.cw.hpc = hpc
  hlpc : u.cw.hlpc = t.lpc
  haddr : u.cw.haddr = t.addr
  hlanes : u.cw.hlanes = zext64 t.lanes
  hinfo : u.cw.hinfo = t.info ||| (if s.cw.region.isSome then .ofNat 64 (2 ^ 48) else 0)
  level : u.cw.level = .handler ∧ u.cw.st = .handler
  pc : u.cw.pc = .ofNat 64 (k.sbase + 4 * h)
  blocks : u.cw.eng = .empty ∧ u.cw.held = if s.cw.region.isSome then .empty else s.cw.flushPends.eng
  region : u.cw.region = none
  lanes : u.cw.v = s.cw.flushPends.v ∧ u.cw.k = s.cw.flushPends.k ∧ u.cw.q = s.cw.flushPends.q
  others : u.cw.s = s.cw.s ∧ u.cw.fstat = s.cw.fstat ∧ u.cw.fmode = s.cw.fmode ∧ u.cw.dphase = s.cw.dphase ∧ u.cw.chk = s.cw.chk ∧
    u.cw.gang = s.cw.gang ∧ u.cw.prio = s.cw.prio ∧ u.cw.live = s.cw.live
  rest : u = { s with cw := u.cw, cp := u.cp, holds := u.holds, jointOps := u.jointOps, latch := u.latch, products := u.products,
                      teams := u.teams, free := u.free }
  holds : ∀ x, x ∈ u.holds ↔ x ∈ s.holds ∧ ¬ ((s.cw.region.isSome = true ∨ t.info.getLsbD 48 = true) ∧ x.wave = s.cw.uid)
  joint : s.jointOps = [] → s.latch = [] → s.products = [] → u = { s with cw := u.cw, cp := u.cp, holds := u.holds }
  memory : SameMem s u

/-! ## Operands of a lane operation (R77, R182) -/

/-- Lane `l` of v register `r`. -/
def Wave.lane (w : Wave) (r l : Nat) : Word := laneOf (if h : r < 128 then w.v[r].toList else []) l

/-- Sub-element `e`, of `w` bits, of a 64-bit lane value (R78). -/
def elemOf (w : Nat) (x : Word) (e : Nat) : Nat := bitsOf x.toNat (w * e) w

/-- The mask of an operation: the lanes of the path, and with a predicate those of k[k]. -/
def State.opMask (s : State) (o : LaneOp) : BitVec 32 := if o.k = 0 then s.cp.mask else s.cp.mask &&& s.cw.rk o.k

/-- The operands A, B, C and D of lane `l`: a register's lane, or the immediate (B), or a value of the snapshot (B, C). -/
def State.opA (s : State) (o : LaneOp) (l : Nat) : Word := s.cw.lane o.a.toNat l
def State.opB (s : State) (o : LaneOp) (l : Nat) : Word :=
  if LaneIMMB o then immOperand o.ty.toNat o.imm else if LaneUB o then s.snapshot o.b.toNat else s.cw.lane o.b.toNat l
def State.opC (s : State) (o : LaneOp) (l : Nat) : Word := if LaneUC o then s.snapshot o.c.toNat else s.cw.lane o.c.toNat l
def State.opD (s : State) (o : LaneOp) (l : Nat) : Word := s.cw.lane o.d.toNat l

/-- The lanes of a register that must bear no poison for an operation to execute: of a v register those of its mask, but all of them where
lanes read one another's (VPERM, VBCAST, VSHFL and MJ); of a k or q register those of the path. -/
def State.cleanLanes (s : State) (c : LaneCode) (o : LaneOp) : RegRef → BitVec 32
  | .v _ => if c = .vperm ∨ c = .vbcast ∨ c = .vshfl ∨ c = .mj then BitVec.allOnes 32 else s.opMask o
  | _ => s.cp.mask

/-- When a lane operation issues and executes: its fields are legal (R80), no result of its path is still to be written to a
register that it reads or writes (R83), every result that it reads is old enough (R84), and no lane that it reads is poisoned
(R182, R399). -/
structure LaneReady (c : LaneCode) (o : LaneOp) (s : State) : Prop where
  legal : laneLegal c o s.cw.vregs (((s.team? s.cw.team).map (·.acc)).getD 0) = true
  written : ∀ r ∈ laneReads c o ++ laneWrites c o, s.pendingAt r = false
  old : ∀ r ∈ laneReads c o, s.shortLanes r = 0
  clean : ∀ r ∈ laneReads c o, s.poisonLanes (s.cleanLanes c o r) r = 0

/-! ## Results of a lane operation -/

/-- Flags raise no FP_TRAP: none of them is enabled, or the wave is at handler level (R49). -/
def State.Quiet (s : State) (flags : Nat) : Prop := s.cw.level = .handler ∨ flags &&& bitsOf s.cw.fmode.toNat 8 5 = 0

/-- The OR of the flags that the lanes of a mask raise (R48). -/
def flagsIn (m : BitVec 32) (f : Nat → Nat) : Nat := (laneList.map fun l => if m.getLsbD l then f l else 0).foldl (· ||| ·) 0

/-- A lane word is done: its path goes on to the next word, the flags are in FSTAT, and nothing else of the wave changed but its
v, k and q registers, the note of what no MFENCE has ordered yet (R247), and a wait at a rendezvous move that is over. The poison of
what was written aside, and the marks of joint operations whose operands were written with the tiles that they leave undefined (R289),
nothing else of the machine changed. -/
structure LaneSteps (s t : State) (flags : Nat) : Prop where
  wave : t.cw = { s.cw with v := t.cw.v, k := t.cw.k, q := t.cw.q, fstat := s.cw.fstat ||| .ofNat 64 flags,
                            lwords := s.cw.lwords + 1, loose := t.cw.loose, st := t.cw.st }
  runs : s.cw.st ≠ .waiting → t.cw.st = s.cw.st
  path : t.cp = { s.cp with lpc := s.cp.lpc + 1, wait := .none, fixed := t.cp.fixed, var := t.cp.var }
  poison : ∀ u, u ∈ t.poison → u ∈ s.poison
  rest : t = { s with cw := t.cw, cp := t.cp, poison := t.poison, jointOps := t.jointOps, latch := t.latch, products := t.products,
                      teams := t.teams, free := t.free }
  joint : s.jointOps = [] → s.latch = [] → s.products = [] → t = { s with cw := t.cw, cp := t.cp, poison := t.poison }
  memory : SameMem s t

/-- The lanes of a mask of v register `d` hold new values now, and every other lane and register is as before. -/
structure WritesLanes (s t : State) (d : BitVec 7) (m : BitVec 32) (val : Nat → Word) (flags : Nat) : Prop
    extends LaneSteps s t flags where
  value : ∀ r l, l < 32 → t.cw.lane r l = if r = d.toNat ∧ m.getLsbD l then val l else s.cw.lane r l
  masks : t.cw.k = s.cw.k
  returns : t.cw.q = s.cw.q
  waiting : t.cp.var = s.cp.var

/-- The result of an operation without a fixed latency waits for its write (R83); every register is as before. -/
structure HoldsLanes (s t : State) (d : BitVec 7) (m : BitVec 32) (val : Nat → Word) (flags : Nat) : Prop
    extends LaneSteps s t flags where
  waiting : t.cp.var = s.cp.var ++ [outV d m (laneList.map val)]
  vectors : t.cw.v = s.cw.v
  masks : t.cw.k = s.cw.k
  returns : t.cw.q = s.cw.q

/-- The lanes of a mask of k register `d` hold new bits now, and every other bit and register is as before. -/
structure WritesBits (s t : State) (d : BitVec 7) (m : BitVec 32) (bit : Nat → Bool) (flags : Nat) : Prop
    extends LaneSteps s t flags where
  value : ∀ (r : KReg) l, l < 32 →
    (t.cw.rk r).getLsbD l = if r.toNat = d.toNat % 8 ∧ m.getLsbD l then bit l else (s.cw.rk r).getLsbD l
  vectors : t.cw.v = s.cw.v
  returns : t.cw.q = s.cw.q
  waiting : t.cp.var = s.cp.var

/-- q register `d` holds a value now, and every other register is as before. -/
structure WritesReturn (s t : State) (d : BitVec 7) (x : Word) (flags : Nat) : Prop extends LaneSteps s t flags where
  value : ∀ r : QReg, t.cw.rq r = if r.toNat = d.toNat % 8 then x else s.cw.rq r
  vectors : t.cw.v = s.cw.v
  masks : t.cw.k = s.cw.k
  waiting : t.cp.var = s.cp.var

/-- A lane word is done and wrote no register. -/
structure LaneMoves (s t : State) : Prop extends LaneSteps s t 0 where
  vectors : t.cw.v = s.cw.v
  masks : t.cw.k = s.cw.k
  returns : t.cw.q = s.cw.q
  waiting : t.cp.var = s.cp.var

/-! ## Calls -/

/-- `n` consecutive registers from `a` (R72). -/
def runOf (a : SReg) (n : Nat) : List SReg := (List.range n).map (SReg.plus a)

/-- When a call comes to its own checks: no region is open, no register that it reads is poisoned, its context is `c`. -/
structure State.Calls (s : State) (rs : List SReg) (c : Ctx) : Prop where
  region : s.cw.region = none
  clean : s.Clean rs
  ctx : s.ctx? s.cw.ctx = some c

/-- No lane block of the wave is outstanding, and no write-combining entry holds bytes of its cluster: a release is done at once. -/
structure State.Settled (s : State) : Prop where
  lanes : s.cw.eng.queue = []
  stores : ∀ e ∈ s.wcb, e.leftBy s s.cw.uid = false

/-- The low half of s[r] is the handle, in the executing context, of an object of one of the kinds (R101, R102). -/
def State.Names (s : State) (r : SReg) (kinds : List Nat) (kind obj : Nat) : Prop :=
  s.resolve s.cw.ctx ((s.rs r).setWidth 32) kinds = some (kind, obj)

/-- A call is done with `x` in s[d]. Every other register of the wave, every byte of memory and every team, with its tiles, its
scratchpad and its barriers, is as before; where the call observes a completion, panel writes may have come to be ordered for the wave (R247). -/
structure Returns (s t : State) (d : SReg) (x : Word) : Prop where
  value : ∀ r, t.rs r = if r = d ∧ d ≠ 0 then x else s.rs r
  wave : t.cw = { s.cw.movedTo (s.cw.pc + 4) with s := t.cw.s }
  teams : ∀ u x, s.team? u = some x → ∃ y, t.team? u = some y ∧ y = { x with unfenced := y.unfenced } ∧ (x.unfenced = [] → y = x)
  memory : SameMem s t

/-- A call is done with the handle of a new object in s[d]: an entry of the context's table, of that kind, holds the object. -/
def MakesHandle (s t : State) (d : SReg) (kind obj : Nat) : Prop :=
  ∃ e ∈ t.handles, e.ctx = s.cw.ctx ∧ e.kind = kind ∧ e.obj = some obj ∧ Returns s t d (zext64 e.word)

/-- A call waits: its word executes again, the wave is no longer issued until then, and no register and no byte has changed. -/
structure Waits (s t : State) : Prop where
  pc : t.cw.pc = s.cw.pc
  wait : t.cw.wait.isSome = true
  state : t.cw.st = if s.cw.st = .resident then .waiting else s.cw.st
  registers : t.cw.s = s.cw.s ∧ t.cw.k = s.cw.k ∧ t.cw.q = s.cw.q ∧ t.cw.v = s.cw.v
  memory : SameMem s t

/-- Uids are given once: those of clusters, teams and waves lie below the next one, no wave bears 0, and no two bear the same. -/
structure State.UidsGiven (s : State) : Prop where
  next : 0 < s.nextUid
  clusters : ∀ x ∈ s.clusters, x.uid < s.nextUid
  teams : ∀ x ∈ s.teams, x.uid < s.nextUid
  waves : ∀ x ∈ s.allWaves, x.uid ≠ 0 ∧ x.uid < s.nextUid ∧ x.team < s.nextUid
  once : (s.allWaves.map (·.uid)).Nodup

/-! ## Events -/

/-- An event runs with no wave executing. -/
structure State.Due (s : State) (e : Event) : Prop where
  turn : s.turn = .event e
  idle : s.cw.uid = 0 ∧ s.cp.live = false

/-- One wave changed, and nothing else. -/
structure ChangesWave (s t : State) (u : Nat) (w : Wave) : Prop where
  rest : t = { s with waves := t.waves }
  now : t.wave? u = some w
  others : ∀ v, v ≠ u → t.wave? v = s.wave? v

/-! ## Fetching -/

/-- No poison marks the four bytes of code at a physical address. -/
def State.CodeClean (s : State) (p : Nat) : Prop := s.poisonAt (.phys p 0) 4 (fun _ => true) = none

/-- The scalar stream of wave `u` has its turn, with no trap due, and fetches the word `n` of its kernel: `v` is the state after the
translation of its pc, which lies in the code section and in no data line, and the count of the fetch (R109, R355). -/
structure State.Fetches (s : State) (u : Nat) (k : Kernel) (p page : Nat) (v : State) (n : Nat) : Prop where
  turn : s.turn = .scalar u
  wave : (s.focus u).cw.uid = u
  ready : (s.focus u).scalarReady (s.focus u).cw = true
  untrapped : (s.focus u).cw.dueTrap = none
  kernel : ((s.focus u).issues none).kernelOf ((s.focus u).issues none).cw = some k
  code : ((s.focus u).issues none).inCode ((s.focus u).issues none).cw.pc = true
  pool : k.dataLine ((s.focus u).issues none).cw.pc.toNat = false
  page : ∃ x, ((s.focus u).issues none).translate (((s.focus u).issues none).whoOf ((s.focus u).issues none).cw) .fetch
    ((s.focus u).issues none).cw.pc.toNat false = (.at p page, x) ∧ Memory.readLE x.mem p 4 = n ∧
      v = x.fetched ((s.focus u).issues none).cw.wait.isSome [⟨p, page, n⟩] 4
  clean : v.CodeClean p

end Sys2Proof.Machine
end

