-- ==== Sys2Proof/Certificates/Slice0/Obligations.lean ====
section
/-!
DEFINITION. The statements for the provers. A statement about words of one kind is the conjunction of the statements, defined before it, that
its body names; each of these says in its docstring which rules of spec/ it formalises.
-/

namespace Sys2Proof.Claims
end Sys2Proof.Claims

open Sys2Proof Sys2Proof.Machine Sys2Proof.Claims

/-! ## The scalar stream (chapter 07) -/

namespace Sys2Proof.Claims

/-- The value of every two-register word of R161 and every comparison of R162. -/
def scalarTwo : List ((SReg → SReg → SReg → Instr) × (Word → Word → Word)) :=
  [(.sadd, fun x y => x + y), (.ssub, fun x y => x - y), (.smul, fun x y => x * y),
   (.smulh, fun x y => (x.signExtend 128 * y.signExtend 128).extractLsb' 64 64),
   (.smulhu, fun x y => (x.setWidth 128 * y.setWidth 128).extractLsb' 64 64),
   (.sdiv, fun x y => if y = 0 then -1 else .ofInt 64 (x.toInt.tdiv y.toInt)),
   (.sdivu, fun x y => if y = 0 then -1 else .ofNat 64 (x.toNat / y.toNat)),
   (.srem, fun x y => if y = 0 then x else .ofInt 64 (x.toInt.tmod y.toInt)),
   (.sremu, fun x y => if y = 0 then x else .ofNat 64 (x.toNat % y.toNat)),
   (.sand, fun x y => x &&& y), (.sor, fun x y => x ||| y), (.sxor, fun x y => x ^^^ y),
   (.sandn, fun x y => x &&& ~~~y), (.sorn, fun x y => x ||| ~~~y),
   (.sshl, fun x y => x <<< (y.toNat % 64)), (.sshr, fun x y => x >>> (y.toNat % 64)),
   (.ssra, fun x y => x.sshiftRight (y.toNat % 64)), (.srol, fun x y => x.rotateLeft (y.toNat % 64)),
   (.sror, fun x y => x.rotateRight (y.toNat % 64)),
   (.smin, fun x y => if y.toInt < x.toInt then y else x), (.smax, fun x y => if x.toInt < y.toInt then y else x),
   (.sminu, fun x y => if y.toNat < x.toNat then y else x), (.smaxu, fun x y => if x.toNat < y.toNat then y else x),
   (.saddw, fun x y => ((x + y).setWidth 32).signExtend 64), (.ssubw, fun x y => ((x - y).setWidth 32).signExtend 64),
   (.sceq, fun x y => if x = y then 1 else 0), (.scne, fun x y => if x = y then 0 else 1),
   (.sclt, fun x y => if x.toInt < y.toInt then 1 else 0), (.scltu, fun x y => if x.toNat < y.toNat then 1 else 0),
   (.scle, fun x y => if x.toInt ≤ y.toInt then 1 else 0), (.scleu, fun x y => if x.toNat ≤ y.toNat then 1 else 0)]

end Sys2Proof.Claims

/-- R161, R162, R54: every two-register integer word and every comparison completes for all operands; s[d] takes the value of the
table, s0 keeps reading 0, the next word follows, and no other register, flag or byte of memory changes. -/
def Obligations.ScalarTwoRegisterWords : Prop :=
  ∀ e ∈ scalarTwo, ∀ (d a b : SReg) (s : State),
    ∃ t, exec (e.1 d a b) s = .next t ∧ WritesReg s t d (e.2 (s.rs a) (s.rs b)) (s.cw.pc + 4)

namespace Sys2Proof.Claims

/-- R161: the one-register words. SCLZ and SCTZ give 64 for 0, and else the number of zero bits above the highest or below the lowest
set bit; SPOPC the number of set bits; SBREV and SBSWAP move bit i to 63 − i and byte i to 7 − i. -/
def ScalarOneRegisterWords : Prop :=
  ∀ (d a : SReg) (s : State),
    let x := s.rs a
    (∃ t n, exec (.sclz d a) s = .next t ∧ WritesReg s t d (.ofNat 64 n) (s.cw.pc + 4) ∧ n ≤ 64 ∧
      (∀ i, 64 - n ≤ i → x.getLsbD i = false) ∧ (n < 64 → x.getLsbD (63 - n) = true)) ∧
    (∃ t n, exec (.sctz d a) s = .next t ∧ WritesReg s t d (.ofNat 64 n) (s.cw.pc + 4) ∧ n ≤ 64 ∧
      (∀ i, i < n → x.getLsbD i = false) ∧ (n < 64 → x.getLsbD n = true)) ∧
    (∃ t, exec (.spopc d a) s = .next t ∧
      WritesReg s t d (.ofNat 64 ((List.range 64).filter fun i => x.getLsbD i).length) (s.cw.pc + 4)) ∧
    (∃ t y, exec (.sbrev d a) s = .next t ∧ WritesReg s t d y (s.cw.pc + 4) ∧
      ∀ i, i < 64 → y.getLsbD i = x.getLsbD (63 - i)) ∧
    (∃ t y, exec (.sbswap d a) s = .next t ∧ WritesReg s t d y (s.cw.pc + 4) ∧
      ∀ i, i < 8 → y.extractLsb' (8 * i) 8 = x.extractLsb' (8 * (7 - i)) 8)

/-- R163: the immediate and upper-immediate words. A field n stands for its SExt or ZExt; SADRP adds to the page of its own word. -/
def ScalarImmediateWords : Prop :=
  ∀ (d a : SReg) (n : BitVec 14) (k : BitVec 6) (u : BitVec 20) (s : State),
    let x := s.rs a
    let writes := fun (i : Instr) (v : Word) => ∃ t, exec i s = .next t ∧ WritesReg s t d v (s.cw.pc + 4)
    writes (.saddi d a n) (x + n.signExtend 64) ∧ writes (.sandi d a n) (x &&& n.setWidth 64) ∧
    writes (.sori d a n) (x ||| n.setWidth 64) ∧ writes (.sxori d a n) (x ^^^ n.setWidth 64) ∧
    writes (.sshli d a k) (x <<< k.toNat) ∧ writes (.sshri d a k) (x >>> k.toNat) ∧
    writes (.ssrai d a k) (x.sshiftRight k.toNat) ∧ writes (.sroli d a k) (x.rotateLeft k.toNat) ∧
    writes (.sclti d a n) (if x.toInt < n.toInt then 1 else 0) ∧
    writes (.slui d u) ((u ++ (0 : BitVec 12)).signExtend 64) ∧
    writes (.sadrp d u) ((s.cw.pc - .ofNat 64 (s.cw.pc.toNat % 4096)) + u.signExtend 64 * 4096)

end Sys2Proof.Claims

/-- R164: a bit field of `len + 1` bits from bit `p`. SBFX writes it zero-extended, SBFXS sign-extended, SBFI puts the low bits of s[a] in its
place and keeps the other bits of s[d]; a field that passes bit 63, and the selector 0b11, trap ILLEGAL_OP and write nothing. -/
def Obligations.BitFieldWords : Prop :=
  (∀ (d a : SReg) (p len : BitVec 6) (s : State),
    let n := len.toNat + 1
    let f := (s.rs a).extractLsb' p.toNat n
    (p.toNat + n ≤ 64 →
      (∃ t, exec (.sbfx d a p len) s = .next t ∧ WritesReg s t d (f.setWidth 64) (s.cw.pc + 4)) ∧
      (∃ t, exec (.sbfxs d a p len) s = .next t ∧ WritesReg s t d (f.signExtend 64) (s.cw.pc + 4)) ∧
      (∃ t y, exec (.sbfi d a p len) s = .next t ∧ WritesReg s t d y (s.cw.pc + 4) ∧
        ∀ i, i < 64 → y.getLsbD i =
          if p.toNat ≤ i ∧ i < p.toNat + n then (s.rs a).getLsbD (i - p.toNat) else (s.rs d).getLsbD i)) ∧
    (64 < p.toNat + n → ∀ i ∈ [Instr.sbfx d a p len, .sbfxs d a p len, .sbfi d a p len],
      exec i s = .next (s.takeTrap { cause := 0x01 }))) ∧
  (∀ (d a : SReg) (p len : BitVec 6),
    let word := fun (selector : Nat) => 0x0C * 2 ^ 26 + d.toNat * 2 ^ 20 + a.toNat * 2 ^ 14 + selector * 2 ^ 12 + p.toNat * 2 ^ 6 + len.toNat
    decodeScalar (word 0) = .ok (.sbfx d a p len) ∧ decodeScalar (word 1) = .ok (.sbfxs d a p len) ∧
      decodeScalar (word 2) = .ok (.sbfi d a p len) ∧ ∃ w, decodeScalar (word 3) = .ok (.reservedScalarOpcode w)) ∧
  ∀ (w : BitVec 32) (s : State), exec (.reservedScalarOpcode w) s = .next (s.takeTrap { cause := 0x01 })

/-- R165: SSEL takes s[a] when s[c] is not 0, else s[b]; the sources are read before s[d] is written. Its word is of major 0x0D with c in
fn[5:0], and with fn[7:6] not 0 it traps ILLEGAL_OP. -/
def Obligations.SelectWord : Prop :=
  (∀ (d a b c : SReg) (s : State),
    ∃ t, exec (.ssel d a b c) s = .next t ∧ WritesReg s t d (if s.rs c = 0 then s.rs b else s.rs a) (s.cw.pc + 4)) ∧
  (∀ d a b c : SReg, decodeScalar (0x0D * 2 ^ 26 + d.toNat * 2 ^ 20 + a.toNat * 2 ^ 14 + b.toNat * 2 ^ 8 + c.toNat) = .ok (.ssel d a b c)) ∧
  ∀ (s v : State) (u p page n : Nat) (k : Kernel), s.Fetches u k p page v n → n / 2 ^ 26 = 0x0D → n / 2 ^ 6 % 4 ≠ 0 →
    step s = .next ({ v with word := n }.takeTrap { cause := 0x01 }).rest

namespace Sys2Proof.Claims

/-- The condition of every branch on a scalar register (R166). -/
def scalarBranches : List ((SReg → BitVec 16 → Instr) × (Word → Bool)) :=
  [(.beqz, fun x => x = 0), (.bnez, fun x => x ≠ 0), (.bltz, fun x => x.toInt < 0), (.bgez, fun x => 0 ≤ x.toInt),
   (.bgtz, fun x => 0 < x.toInt), (.blez, fun x => x.toInt ≤ 0)]

/-- The condition of every branch on a mask register, of k[a] and ACTMASK.LIVE (R166). -/
def maskBranches : List ((KReg → BitVec 16 → Instr) × (BitVec 32 → BitVec 32 → Bool)) :=
  [(.bkany, fun m l => m &&& l ≠ 0), (.bknone, fun m l => m &&& l = 0), (.bkall, fun m l => m &&& l = l)]

/-- What a transfer of control does: to a target in the scalar code section it goes on there; a misaligned target traps MISALIGN and
one outside the section PROTECTION, with the target in HADDR, and the word changes nothing (R64). -/
def Transfers (i : Instr) (s : State) (target : Word) (after : State → Prop) : Prop :=
  (target.toNat % 4 = 0 → s.inCode target = true → ∃ t, exec i s = .next t ∧ after t) ∧
  (target.toNat % 4 ≠ 0 → exec i s = .next (s.takeTrap { cause := 0x06, addr := target })) ∧
  (target.toNat % 4 = 0 → s.inCode target = false → exec i s = .next (s.takeTrap { cause := 0x11, addr := target }))

/-- R166: the nine conditional branches. One that is taken goes to pc + 4 × SExt(off), one that is not taken to the next word; the
mask branches first wait as LWAIT #0. No register or byte of memory changes. -/
def ConditionalBranches : Prop :=
  (∀ e ∈ scalarBranches, ∀ (a : SReg) (off : BitVec 16) (s : State),
    let target := s.cw.pc + off.signExtend 64 * 4
    (e.2 (s.rs a) = true → Transfers (e.1 a off) s target fun t => Moves s t target) ∧
    (e.2 (s.rs a) = false → ∃ t, exec (e.1 a off) s = .next t ∧ Moves s t (s.cw.pc + 4))) ∧
  (∀ e ∈ maskBranches, ∀ (a : KReg) (off : BitVec 16) (s : State), s.cw.eng.queue = [] →
    let target := s.cw.pc + off.signExtend 64 * 4
    (e.2 (s.cw.rk a) s.cw.live = true → Transfers (e.1 a off) s target fun t => Moves s t target) ∧
    (e.2 (s.cw.rk a) s.cw.live = false → ∃ t, exec (e.1 a off) s = .next t ∧ Moves s t (s.cw.pc + 4)))

/-- R167: JMP and CALL go to pc + 4 × SExt(imm26), JR and JALR to s[a]; CALL writes the link, the address of the next word, to s62
and JALR to s[d], and JALR reads s[a] first. -/
def Jumps : Prop :=
  ∀ (n : BitVec 26) (d a : SReg) (s : State),
    let target := s.cw.pc + n.signExtend 64 * 4
    Transfers (.jmp n) s target (fun t => Moves s t target) ∧
    Transfers (.call n) s target (fun t => WritesReg s t 62 (s.cw.pc + 4) target) ∧
    Transfers (.jr a) s (s.rs a) (fun t => Moves s t (s.rs a)) ∧
    Transfers (.jalr d a) s (s.rs a) (fun t => WritesReg s t d (s.cw.pc + 4) (s.rs a))

/-- The value of every mask word that writes a k register (R173). -/
def maskWords : List ((KReg → KReg → KReg → Instr) × (BitVec 32 → BitVec 32 → BitVec 32)) :=
  [(.kand, fun x y => x &&& y), (.kor, fun x y => x ||| y), (.kxor, fun x y => x ^^^ y), (.kandn, fun x y => x &&& ~~~y),
   (fun d a _ => .knot d a, fun x _ => ~~~x)]

/-- R173: with no lane block outstanding, the mask words write all 32 bits of k[d], or s[d] from k[a]: its value, the number of its
set bits, or the index of the lowest one (32 for none). -/
def MaskWords : Prop :=
  ∀ s : State, s.cw.eng.queue = [] →
    (∀ e ∈ maskWords, ∀ d a b : KReg,
      ∃ t, exec (e.1 d a b) s = .next t ∧ WritesMask s t d (e.2 (s.cw.rk a) (s.cw.rk b)) (s.cw.pc + 4)) ∧
    (∀ (d : KReg) (a : SReg), ∃ t, exec (.kfroms d a) s = .next t ∧ WritesMask s t d ((s.rs a).setWidth 32) (s.cw.pc + 4)) ∧
    (∀ d : KReg, ∃ t, exec (.kact d) s = .next t ∧ WritesMask s t d s.cw.live (s.cw.pc + 4)) ∧
    (∀ (d : SReg) (a : KReg), ∃ t, exec (.ktos d a) s = .next t ∧ WritesReg s t d ((s.cw.rk a).setWidth 64) (s.cw.pc + 4)) ∧
    (∀ (d : SReg) (a : KReg), ∃ t, exec (.kpop d a) s = .next t ∧
      WritesReg s t d (.ofNat 64 ((List.range 32).filter fun i => (s.cw.rk a).getLsbD i).length) (s.cw.pc + 4)) ∧
    (∀ (d : SReg) (a : KReg), ∃ t n, exec (.kfirst d a) s = .next t ∧ WritesReg s t d (.ofNat 64 n) (s.cw.pc + 4) ∧ n ≤ 32 ∧
      (∀ i, i < n → (s.cw.rk a).getLsbD i = false) ∧ (n < 32 → (s.cw.rk a).getLsbD n = true))

/-- R174, R85: LRUN. With a free entry the block stands at the tail of the lane queue with the snapshot of s48 to s63 and with CHK and GANG
as they are; a block that comes to the head begins with one path in slot A over the live lanes. A start beyond the lane section traps PROTECTION, and with 8 blocks
outstanding (2 of a handler's) the word waits with nothing enqueued. -/
def LaneBlockEnqueue : Prop :=
  ∀ (n : BitVec 26) (s : State) (k : Kernel), s.kernelOf s.cw = some k →
    let b : Block := { start := n.toNat, uniform := (List.range 16).map fun i => s.cw.rs (.ofNat 6 (48 + i)), chk := s.cw.chk,
                       gang := s.cw.gang }
    (n.toNat < k.lwords → s.cw.eng.queue.length < (if s.cw.level = .handler then 2 else 8) →
      ∃ t, exec (.lrun n) s = .next t ∧ t.cw = { s.cw.movedTo (s.cw.pc + 4) with eng := t.cw.eng, st := t.cw.st } ∧
        (s.cw.st ≠ .waiting → t.cw.st = s.cw.st) ∧
        t = { s with cw := t.cw } ∧ SameMem s t ∧ t.cw.eng.queue = s.cw.eng.queue ++ [b] ∧
        (s.cw.eng.queue ≠ [] → s.cw.eng.running = true → t.cw.eng = { s.cw.eng with queue := s.cw.eng.queue ++ [b] }) ∧
        (s.cw.eng.queue = [] → s.cw.eng.running = false → t.cw.eng.running = true ∧
          ∃ p, t.cw.eng.paths = [p] ∧ p.lpc = n.toNat ∧ p.mask = s.cw.live ∧ p.place = .slotA ∧ p.ended = (s.cw.live == 0))) ∧
    (k.lwords ≤ n.toNat → exec (.lrun n) s = .next (s.takeTrap { cause := 0x11 })) ∧
    (n.toNat < k.lwords → (if s.cw.level = .handler then 2 else 8) ≤ s.cw.eng.queue.length →
      ∃ t, exec (.lrun n) s = .next t ∧ t.cw.eng = s.cw.eng ∧ t.cw.pc = s.cw.pc ∧ t.cw.wait.isSome)

/-- R176, R177: LWAIT goes on once at most n blocks have not ended, and with n from 8 to 63 traps ILLEGAL_OP; SQRD reads q[n] once
every block enqueued has written its register results, of which stores may still be to come (R178), and waits until then: while a result
of a path is pending, and while a path stands at a word that writes a register. -/
def LaneQueueWaits : Prop :=
  ∀ (n : BitVec 6) (d : SReg) (q : QReg) (s : State),
    (n.toNat ≤ 7 → s.cw.eng.queue.length ≤ n.toNat → ∃ t, exec (.lwait n) s = .next t ∧ Moves s t (s.cw.pc + 4)) ∧
    (n.toNat ≤ 7 → n.toNat < s.cw.eng.queue.length →
      ∃ t, exec (.lwait n) s = .next t ∧ t.cw.pc = s.cw.pc ∧ t.cw.s = s.cw.s ∧ t.cw.wait.isSome ∧ SameMem s t) ∧
    (7 < n.toNat → exec (.lwait n) s = .next (s.takeTrap { cause := 0x01 })) ∧
    (s.cw.eng.queue = [] → ∃ t, exec (.sqrd d q) s = .next t ∧ WritesReg s t d (s.cw.rq q) (s.cw.pc + 4)) ∧
    (s.cw.eng.queue.length = 1 → (∀ p ∈ s.allPaths, p.ended = true ∧ p.var = []) →
      ∃ t, exec (.sqrd d q) s = .next t ∧ WritesReg s t d (s.cw.rq q) (s.cw.pc + 4)) ∧
    (s.resultsWritten = true → ∃ t, exec (.sqrd d q) s = .next t ∧ WritesReg s t d (s.cw.rq q) (s.cw.pc + 4)) ∧
    (s.resultsWritten = false → ∃ t, exec (.sqrd d q) s = .next t ∧ t.cw.pc = s.cw.pc ∧ t.cw.s = s.cw.s ∧ t.cw.wait.isSome) ∧
    (s.cw.eng.queue ≠ [] → (∃ p ∈ s.allPaths, p.var ≠ [] ∨
      p.ended = false ∧ ∃ k i, s.kernelOf s.cw = some k ∧ s.peekLane k p.lpc = some i ∧ quietFlow p.lpc i = none) → s.resultsWritten = false)

/-! ## Traps (chapter 17) -/

/-- The words whose effect is a precise trap, with its cause and HINFO (R181, R66). -/
def trapWords : List (Instr × Nat × Word) :=
  [(.bkpt, 0x40, 0)] ++ ((List.range 64).map fun n => (.trap (.ofNat 6 n), 0x41, .ofNat 64 n))

/-- R181, R66, R387, R390: SNOP does nothing. BKPT, TRAP #n and every reserved scalar opcode take their trap: with a handler, the
wave stands at its first word, and HPC holds the address of the trapping word. -/
def TrapWords : Prop :=
  (∀ s : State, ∃ t, exec .snop s = .next t ∧ Moves s t (s.cw.pc + 4)) ∧
  (∀ e ∈ trapWords, ∀ (s : State) (k : Kernel) (h : Nat), HasHandler s k h →
    ∃ t, exec e.1 s = .next t ∧ EntersHandler s t { cause := e.2.1, info := e.2.2 } s.cw.pc k h) ∧
  (∀ (w : BitVec 32) (s : State) (k : Kernel) (h : Nat), HasHandler s k h →
    ∃ t, exec (.reservedScalarOpcode w) s = .next t ∧ EntersHandler s t { cause := 0x01 } s.cw.pc k h)

/-- R88, R391: reaching a SPOOL word traps POOL_EXEC. HADDR holds its address, and HPC the word that the stream came from. -/
def PoolReached : Prop :=
  ∀ (n : BitVec 26) (s : State) (k : Kernel) (h : Nat), HasHandler s k h →
    ∃ t, exec (.spool n) s = .next t ∧ EntersHandler s t { cause := 0x03, addr := s.cw.pc } s.cw.prev k h

/-- R387, R388, R390: taking any trap. A kernel with a handler and a wave at ordinary level: the wave enters its handler. Without a
handler, and at handler level, the context becomes faulted instead and a fault record is posted to its function's control port. -/
def TakingATrap : Prop :=
  ∀ (t : Trap) (hpc : Word) (s : State) (k : Kernel), s.kernelOf s.cw = some k → s.cp.live = false →
    (∀ h, k.handler = some h → s.cw.level = .ordinary → EntersHandler s (s.takeTrapAt t hpc) t hpc k h) ∧
    (∀ c, (k.handler = none ∨ s.cw.level = .handler) → s.ctx? s.cw.ctx = some c →
      ∃ c', (s.takeTrapAt t hpc).ctx? s.cw.ctx = some c' ∧ c'.st = .faulted ∧ c'.before = c.st ∧ c'.faulting = s.cw.uid ∧
        ∀ f, s.func? c.dev c.func = some f → ∃ f' r, (s.takeTrapAt t hpc).func? c.dev c.func = some f' ∧
          f'.records = f.records ++ [r] ∧ r.length = 8 ∧ (r.getD 0 0).toNat % 256 = 0x32 ∧ r.getD 2 0 = hpc ∧ r.getD 4 0 = t.addr)

/-- What every return leaves (R393): the wave at ordinary level, its scalar stream at `pc`, the handler's lane side given up for the one
that was held, scalar registers, handler registers and memory as they were. -/
def Returned (s t : State) (pc : Word) : Prop :=
  t.cw.level = .ordinary ∧ t.cw.st = .resident ∧ t.cw.pc = pc ∧ t.cw.held = .empty ∧ t.cw.hcause = s.cw.hcause ∧ t.cw.hpc = s.cw.hpc ∧ SameMem s t

/-- R393, R391: the return from a handler. Outside handler level TRET traps PRIV. At handler level, with no block of the handler
outstanding, the wave is at ordinary level with its held blocks released, and the scalar stream goes on at HPC, or, for TRET.SKIP
after a precise trap whose HPC was not redirected, past the trapping word. -/
def ReturnFromWord : Prop :=
  (∀ (s : State) (i : Instr), i = .tret ∨ i = .tretSkip → s.cw.level = .ordinary →
    exec i s = .next (s.takeTrap { cause := 0x05 })) ∧
  (∀ (s : State) (i : Instr) (target : Word), i = .tret ∨ i = .tretSkip → s.cw.level = .handler → s.cw.eng.queue = [] →
    s.cw.causeLane = false → s.cw.causeXfer = false → s.cw.trapIrb = none → s.cw.trapBoundary = false →
    s.cw.hcause.toNat % 256 ≠ 0x03 → s.cw.hcause.toNat % 256 ≠ 0x71 →
    target = (if i = .tretSkip ∧ s.cw.causeRedir = false then s.cw.hpc + 4 else s.cw.hpc) →
    target.toNat % 4 = 0 → s.inCode target = true →
    ∃ t, exec i s = .next t ∧ t.cw.level = .ordinary ∧ t.cw.st = .resident ∧ t.cw.pc = target ∧ t.cw.eng = s.cw.held ∧
      t.cw.held = .empty ∧ t.cw.s = s.cw.s ∧ t.cw.k = s.cw.k ∧ t.cw.q = s.cw.q ∧ t.cw.v = s.cw.v ∧ t.cw.fstat = s.cw.fstat ∧
      t.cw.fmode = s.cw.fmode ∧ t.cw.hcause = s.cw.hcause ∧ t.cw.hpc = s.cw.hpc ∧ SameMem s t)

/-- R393, R391, R212: the return after a trap of a lane word. The scalar stream resumes at HPC in both forms. TRET releases the held paths as
they stand, and so does TRET.SKIP after FP_TRAP; else TRET.SKIP passes the trapping path over its word. No register changes, but for
the destinations of a word that consumed poison. -/
def ReturnFromLaneWord : Prop :=
  ∀ (s : State) (i : Instr), i = .tret ∨ i = .tretSkip → s.cw.level = .handler → s.cw.eng.queue = [] → s.cw.causeLane = true →
    s.cw.causeXfer = false → s.cw.trapIrb = none → s.cw.causeCode ≠ 0x03 → s.cw.hpc.toNat % 4 = 0 → s.inCode s.cw.hpc = true →
    (i = .tret ∨ s.cw.causeCode = 0x30 → ∃ t, exec i s = .next t ∧ Returned s t s.cw.hpc ∧ t.cw.eng = s.cw.held ∧ t.cw.s = s.cw.s ∧
      t.cw.k = s.cw.k ∧ t.cw.q = s.cw.q ∧ t.cw.v = s.cw.v) ∧
    (i = .tretSkip → s.cw.causeCode ≠ 0x30 → ∃ t, exec i s = .next t ∧ Returned s t s.cw.hpc ∧ t.cw.s = s.cw.s ∧
      t.cw.eng = { s.cw.held with paths := t.cw.eng.paths } ∧
      (s.cw.causeCode ≠ 0x71 → t.cw.k = s.cw.k ∧ t.cw.q = s.cw.q ∧ t.cw.v = s.cw.v) ∧
      ∀ p ∈ s.cw.held.paths, (p.id ≠ s.cw.trapPath → p ∈ t.cw.eng.paths) ∧
        (p.id = s.cw.trapPath → ∃ q ∈ t.cw.eng.paths, q = { p with lpc := p.lpc + 1, fixed := q.fixed }))

/-- R393, R391, R261, R267, R371: the return after the trap of a stopped copy. The scalar stream resumes at HPC in both forms, or, for TRET.SKIP
after a transfer's FABRIC_POISON in a wait, behind the waiting word; TRET has the copy start again, a TCONV, which takes no engine, at once,
and TRET.SKIP makes it failed. -/
def ReturnFromCopy : Prop :=
  ∀ (s : State) (c : Copy), s.cw.level = .handler → s.cw.eng.queue = [] → s.cw.causeLane = false → s.cw.causeXfer = true →
    s.cw.trapIrb = none → s.cw.causeCode ≠ 0x03 → s.cw.hpc.toNat % 4 = 0 → s.inCode s.cw.hpc = true →
    s.copy? s.cw.trapCopy = some c → c.st = .stopped →
    (∃ t, exec .tret s = .next t ∧ Returned s t s.cw.hpc ∧ t.cw.eng = s.cw.held ∧
      t.copy? c.uid = some (if c.job = .tconv then { c with st := .started, restart := false, trap := none }
        else { c with restart := true, trap := none })) ∧
    ∀ pc, pc = (if s.cw.causeRedir = false ∧ s.cw.causeCode = 0x70 ∧ s.cw.abandoned.isSome then s.cw.hpc + 4 else s.cw.hpc) →
      pc.toNat % 4 = 0 → s.inCode pc = true →
      ∃ t, exec .tretSkip s = .next t ∧ Returned s t pc ∧ t.cw.eng = s.cw.held ∧
        t.copy? c.uid = some { c with st := .failed, restart := false, trap := none }

/-- R391, R393, R353: where the scalar stream goes on when HPC was not redirected, after a trap that a wait in progress took, one that discarded a
region, POOL_EXEC and a scalar word that consumed poison. An abandoned wait is executed again, or passed over by TRET.SKIP; a region
replays from its IRB in both forms; POOL_EXEC fetches at HADDR again, and TRET.SKIP goes on behind the SPOOL word or behind the run
of data lines; of a poisoned word's registers only its destinations change. -/
def ReturnTargets : Prop :=
  ∀ s : State, s.cw.level = .handler → s.cw.eng.queue = [] → s.cw.causeLane = false → s.cw.causeXfer = false → s.cw.causeRedir = false →
    let goes := fun (i : Instr) (pc : Word) => pc.toNat % 4 = 0 → s.inCode pc = true →
      ∃ t, exec i s = .next t ∧ Returned s t pc ∧ t.cw.eng = s.cw.held ∧ (s.cw.causeCode ≠ 0x71 → t.cw.s = s.cw.s)
    (∀ irb, s.cw.trapIrb = some irb → goes .tret irb ∧ goes .tretSkip irb) ∧
    (s.cw.trapIrb = none → s.cw.causeCode ≠ 0x03 → s.cw.trapBoundary = true →
      goes .tret s.cw.hpc ∧ goes .tretSkip (if s.cw.abandoned.isSome then s.cw.hpc + 4 else s.cw.hpc)) ∧
    (s.cw.trapIrb = none → s.cw.causeCode = 0x03 → goes .tret s.cw.haddr ∧
      ∀ k, s.kernelOf s.cw = some k →
        (k.dataLine s.cw.haddr.toNat = false → goes .tretSkip (s.cw.haddr + 4)) ∧
        (k.dataLine s.cw.haddr.toNat = true → (∀ p ∈ k.pools, p.1 + p.2 ≤ k.swords) → ∀ x : Word, x.toNat % 32 = 0 → s.cw.haddr.toNat < x.toNat →
          k.dataLine x.toNat = false → (∀ b, s.cw.haddr.toNat ≤ b → b < x.toNat → k.dataLine b = true) → goes .tretSkip x)) ∧
    (s.cw.trapIrb = none → s.cw.causeCode = 0x71 → s.cw.trapBoundary = false → (s.cw.hpc + 4).toNat % 4 = 0 → s.inCode (s.cw.hpc + 4) = true →
      ∃ t, exec .tretSkip s = .next t ∧ Returned s t (s.cw.hpc + 4) ∧ ∀ r, r ∉ scalarDests s.cw.trapWord → t.rs r = s.rs r)

/-- R393, R388: a return waits while a block of the handler is outstanding; at a redirected HPC that is misaligned or outside the code section it
traps at handler level instead. -/
def ReturnStops : Prop :=
  ∀ (s : State) (i : Instr), i = .tret ∨ i = .tretSkip → s.cw.level = .handler →
    (s.cw.eng.queue ≠ [] → ∃ t, exec i s = .next t ∧ t.cw.pc = s.cw.pc ∧ t.cw.level = .handler ∧ t.cw.eng = s.cw.eng ∧ SameMem s t) ∧
    (s.cw.eng.queue = [] → s.cw.causeRedir = true → s.cw.hpc.toNat % 4 ≠ 0 →
      exec i s = .next (s.takeTrap { cause := 0x06, addr := s.cw.hpc })) ∧
    (s.cw.eng.queue = [] → s.cw.causeRedir = true → s.cw.hpc.toNat % 4 = 0 → s.inCode s.cw.hpc = false →
      exec i s = .next (s.takeTrap { cause := 0x11, addr := s.cw.hpc }))

/-! ## System registers, counters and HALT (chapter 04) -/

/-- The system registers of R106 with their values (R97, R107, R109, R390). -/
def sysRegisters : List (BitVec 12 × (State → Word)) :=
  [(0x000, fun s => .ofNat 64 (s.cw.index * 2 ^ 32 + s.cw.handle.toNat)), (0x001, fun s => s.cw.teamIndex.setWidth 64),
   (0x002, fun s => .ofNat 64 (s.cw.tpos * 2 ^ 32 + s.cw.clusterIndex.toNat)), (0x003, fun s => s.cw.gridpos),
   (0x004, fun s => .ofNat 64 s.cw.core), (0x005, fun s => s.cw.live.setWidth 64), (0x008, fun s => s.cw.fstat),
   (0x009, fun s => s.cw.fmode), (0x00A, fun s => s.cw.dphase), (0x00C, fun s => s.cw.chk), (0x010, fun s => s.cw.gang),
   (0x020, fun s => s.cw.hcause), (0x021, fun s => s.cw.hpc), (0x022, fun s => s.cw.hlpc), (0x023, fun s => s.cw.haddr),
   (0x024, fun s => s.cw.hlanes), (0x025, fun s => s.cw.hinfo),
   (0x030, fun s => ((s.ctx? s.cw.ctx).map fun c =>
      .ofNat 64 ((if c.svc then 2 ^ 48 else 0) + c.part * 2 ^ 40 + c.func * 2 ^ 32 + c.num)).getD 0),
   (0x031, fun s => .ofNat 64 (s.cw.prio.toNat * 8 + s.cw.prio.toNat))]

/-- The registers that SYSWR writes, with their RW bits (R44 to R46, R85). -/
def sysWritable : List (BitVec 12 × Word × (Wave → Word → Wave)) :=
  [(0x008, 0x1F, fun w x => { w with fstat := x }), (0x009, 0x1F1F, fun w x => { w with fmode := x }),
   (0x00A, 0x3F, fun w x => { w with dphase := x }), (0x00C, 1, fun w x => { w with chk := x })]

/-- R106, R107, R108: SYSRD. A register of the table gives its value: those of the handler at handler level only, else PRIV; ACTMASK,
FSTAT, FMODE, DPHASE and CHK once the wave's lane queue is empty. A number that the table does not list traps ILLEGAL_OP. -/
def SystemRegisterRead : Prop :=
  ∀ (d : SReg) (n : BitVec 12) (s : State),
    (∀ v, (n, v) ∈ sysRegisters → (0x020 ≤ n ∧ n ≤ 0x025 → s.cw.level = .handler) →
      (n ∈ [0x005, 0x008, 0x009, 0x00A, (0x00C : BitVec 12)] → s.cw.eng.queue = []) →
      ∃ t, exec (.sysrd d n) s = .next t ∧ WritesReg s t d (v s) (s.cw.pc + 4)) ∧
    (n ∉ sysRegisters.map (·.1) → exec (.sysrd d n) s = .next (s.takeTrap { cause := 0x01 })) ∧
    (0x020 ≤ n → n ≤ 0x025 → s.cw.level = .ordinary → exec (.sysrd d n) s = .next (s.takeTrap { cause := 0x05 }))

/-- R44 to R47, R85, R108, R390: SYSWR. FSTAT, FMODE, DPHASE and CHK take a value whose reserved bits are 0 (and FMODE.RND is not 6 or
7) with nothing else changed; any other value, every other register but HPC, and every number that is not assigned, traps ILLEGAL_OP, ACTMASK once
the lane queue is empty, and those of the handler at handler level: outside it they trap PRIV. The five that wait for the lane queue wait
while it is not empty. At handler level the write of HPC sets REDIR. -/
def SystemRegisterWrite : Prop :=
  ∀ (a : SReg) (s : State),
    (∀ e ∈ sysWritable, s.cw.eng.queue = [] → s.rs a &&& ~~~e.2.1 = 0 → (e.1 = 0x009 → (s.rs a).toNat % 8 < 6) →
      ∃ t, exec (.syswr a e.1) s = .next t ∧ t = { s with cw := (e.2.2 s.cw (s.rs a)).movedTo (s.cw.pc + 4) } ∧ SameMem s t) ∧
    (∀ e ∈ sysWritable, s.cw.eng.queue = [] → (s.rs a &&& ~~~e.2.1 ≠ 0 ∨ (e.1 = 0x009 ∧ 6 ≤ (s.rs a).toNat % 8)) →
      exec (.syswr a e.1) s = .next (s.takeTrap { cause := 0x01 })) ∧
    (∀ n : BitVec 12, n ∉ sysWritable.map (·.1) → n ≠ 0x021 → (n = 0x005 → s.cw.eng.queue = []) → (0x020 ≤ n ∧ n ≤ 0x025 → s.cw.level = .handler) →
      exec (.syswr a n) s = .next (s.takeTrap { cause := 0x01 })) ∧
    (∀ n : BitVec 12, 0x020 ≤ n → n ≤ 0x025 → s.cw.level = .ordinary → exec (.syswr a n) s = .next (s.takeTrap { cause := 0x05 })) ∧
    (∀ n ∈ [0x005, 0x008, 0x009, 0x00A, (0x00C : BitVec 12)], s.cw.eng.queue ≠ [] →
      ∃ t, exec (.syswr a n) s = .next t ∧ t.cw.pc = s.cw.pc ∧ t.cw.wait.isSome ∧ t.cw.s = s.cw.s ∧ SameMem s t) ∧
    (∀ i ∈ [Instr.hpcWrite a, .syswr a 0x021],
      (s.cw.level = .handler →
        ∃ t, exec i s = .next t ∧ SameMem s t ∧
          t = { s with cw := { s.cw with hpc := s.rs a, hcause := s.cw.hcause ||| 0x800 }.movedTo (s.cw.pc + 4) }) ∧
      (s.cw.level = .ordinary → exec i s = .next (s.takeTrap { cause := 0x05 })))

/-- R109, R110: PERFRD gives a counter of the context: those of R109 that count words, operations and traps are the context's sum
with the counts of its live waves. The counters of the partition ask for service privilege, else PRIV; an unlisted number traps
ILLEGAL_OP. TIME gives the time base of the wave's device. -/
def CountersAndTime : Prop :=
  ∀ (d : SReg) (s : State) (c : Ctx), s.ctx? s.cw.ctx = some c →
    let live := fun (f : Wave → Nat) => (BitVec.ofNat 64 (((s.allWaves.filter fun w => w.ctx == c.uid).map f).sum))
    (∀ e ∈ [((0x000 : BitVec 12), c.counters.cycles), (0x001, c.counters.swords + live (·.swords)),
        (0x002, c.counters.lwords + live (·.lwords)), (0x003, c.counters.mjops + live (·.mjops)), (0x004, c.counters.xbytes),
        (0x005, c.counters.traps + live (·.traps)), (0x006, c.counters.evicts), (0x007, c.counters.throttle),
        (0x008, c.counters.replays)],
      ∃ t, exec (.perfrd d e.1) s = .next t ∧ WritesReg s t d e.2 (s.cw.pc + 4)) ∧
    (∀ n ∈ [0x800, 0x801, 0x802, (0x803 : BitVec 12)],
      (c.svc = true → ∃ t x, exec (.perfrd d n) s = .next t ∧ WritesReg s t d x (s.cw.pc + 4)) ∧
      (c.svc = false → exec (.perfrd d n) s = .next (s.takeTrap { cause := 0x05 }))) ∧
    (∀ n : BitVec 12, n ∉ [0x000, 0x001, 0x002, 0x003, 0x004, 0x005, 0x006, 0x007, 0x008, 0x800, 0x801, 0x802, (0x803 : BitVec 12)] →
      exec (.perfrd d n) s = .next (s.takeTrap { cause := 0x01 })) ∧
    (∀ v, s.dev? s.cw.dev = some v →
      ∃ t, exec (.time d) s = .next t ∧ WritesReg s t d (.ofNat 64 v.time) (s.cw.pc + 4))

/-- R111: HALT. Without service privilege it traps PRIV. With it the context parks, its wave leaves its core with its registers, to go on
at the next word, and a halt record (kind 0x33) with the wave's handle and the address of the HALT is posted to the function's control
port. No byte of memory changes but those that write-combining entries held. -/
def HaltParks : Prop :=
  ∀ (s : State) (c : Ctx), s.ctx? s.cw.ctx = some c →
    (c.svc = false → exec .halt s = .next (s.takeTrap { cause := 0x05 })) ∧
    (c.svc = true →
      ∃ t c', exec .halt s = .next t ∧ t.ctx? c.uid = some c' ∧ c'.st = .parked ∧ c'.before = c.st ∧ (s.wcb = [] → SameMem s t) ∧
        t.cw.s = s.cw.s ∧ (s.cw.region = none → t.cw.pc = s.cw.pc + 4) ∧
        (∀ x, s.cluster? x.uid = some x → x.ctx = c.uid → x.st = .placed → s.cw.team ∈ x.teams → s.cw.st.onCore = true →
          t.cw.st = .parked) ∧
        ∀ f, s.func? c.dev c.func = some f → ∃ f', t.func? c.dev c.func = some f' ∧
          f'.records = f.records ++ [[.ofNat 64 (0x33 + c.num * 2 ^ 20), s.cw.handle.setWidth 64, s.cw.pc, 0, 0, 0, 0, 0]])

/-! ## Scalar memory words (chapters 07 and 10) -/

/-- What SLD puts in s[d] from `w` bytes read as a number (R71, R169): sign-extended for codes 4 to 6, else zero-extended. -/
def extended (size : BitVec 3) (x : Nat) : Word :=
  if 4 ≤ size.toNat then (BitVec.ofNat (8 * 2 ^ (size.toNat % 4)) x).signExtend 64 else .ofNat 64 x

/-- R169, R351: SLD at s[a] + w × SExt(off11). From a scratchpad and from local memory it puts the w bytes, little-endian, into s[d]; no byte
of a scratchpad changes, and memory is as the walk of the translation left it. In an open region the bytes that it has stored come from its
buffer. A misaligned address traps MISALIGN with the address
in HADDR, a failing check its own trap, and size 7 ILLEGAL_OP. -/
def ScalarLoad : Prop :=
  ∀ (d a : SReg) (size : BitVec 3) (off : BitVec 11) (s u : State),
    let w := 2 ^ (size.toNat % 4)
    let addr := s.rs a + off.signExtend 64 * .ofNat 64 w
    (size ≠ 7 → addr.toNat % w = 0 → s.cw.region = none → ∀ team o, s.Reaches .load addr w (.scratch team o) u → s.poison = [] →
      ∃ t, exec (.sld d a size off) s = .next t ∧
        WritesReg s t d (extended size (Memory.readLE (((s.team? team).map (·.scratch)).getD []) o w)) (s.cw.pc + 4)) ∧
    (size ≠ 7 → addr.toNat % w = 0 → s.cw.region.isSome = true → s.poison = [] →
      (∀ team o, s.Reaches .load addr w (.scratch team o) u → ∃ t, exec (.sld d a size off) s = .next t ∧ WritesReg s t d
        (extended size (s.seen addr.toNat w fun i => Memory.read (((s.team? team).map (·.scratch)).getD []) (o + i))) (s.cw.pc + 4)) ∧
      ∀ p page, s.Reaches .load addr w (.phys p page) u → u.Local p w → u.Uncounted page →
        ∃ t, exec (.sld d a size off) s = .next t ∧ t.cw.pc = s.cw.pc + 4 ∧ SameMem u t ∧ t.teams = s.teams ∧ t.cw.region = s.cw.region ∧
          ∀ r, t.rs r = if r = d ∧ d ≠ 0 then extended size (s.seen addr.toNat w fun i => Memory.read u.mem (p + i)) else s.rs r) ∧
    (size ≠ 7 → addr.toNat % w = 0 → s.cw.region = none → ∀ p page, s.Reaches .load addr w (.phys p page) u → u.Local p w → u.Uncounted page →
      ∃ t, exec (.sld d a size off) s = .next t ∧ t.cw.pc = s.cw.pc + 4 ∧ SameMem u t ∧ t.teams = s.teams ∧
        ∀ r, t.rs r = if r = d ∧ d ≠ 0 then extended size (Memory.readLE u.mem p w) else s.rs r) ∧
    (size ≠ 7 → addr.toNat % w ≠ 0 → exec (.sld d a size off) s = .next (s.takeTrap { cause := 0x06, addr })) ∧
    (size ≠ 7 → addr.toNat % w = 0 → ∀ t, s.locate s.cw .load addr.toNat w = (.bad t, u) →
      exec (.sld d a size off) s = .next (s.takeTrap t)) ∧
    (size = 7 → exec (.sld d a size off) s = .next (s.takeTrap { cause := 0x01 }))

/-- R169, R237: SST stores the low w bytes of s[d] at s[a] + w × SExt(off11) and changes no other byte: in a scratchpad; in local
memory; or, for a peer's address, in the core's write-combining buffer, with memory unchanged. Misaligned addresses, failing checks
and size codes from 4 trap. -/
def ScalarStore : Prop :=
  ∀ (d a : SReg) (size : BitVec 3) (off : BitVec 11) (s u : State), s.cw.region = none → s.Clean [d] → s.MemWf →
    let w := 2 ^ (size.toNat % 4)
    let addr := s.rs a + off.signExtend 64 * .ofNat 64 w
    (size.toNat < 4 → addr.toNat % w = 0 → ∀ team x o, s.Reaches .store addr w (.scratch team o) u → s.team? team = some x →
      Memory.wf x.scratch = true →
      ∃ t x', exec (.sst d a size off) s = .next t ∧ t.cw = s.cw.movedTo (s.cw.pc + 4) ∧ SameMem s t ∧
        t.team? team = some x' ∧ x' = { x with scratch := x'.scratch, tiles := x'.tiles, unfenced := x'.unfenced } ∧
        (s.jointOps = [] → s.latch = [] → s.products = [] → x'.tiles = x.tiles) ∧
        ∀ b, Memory.read x'.scratch b =
          if o ≤ b ∧ b < o + w then BitVec.ofNat 8 ((s.rs d).toNat / 256 ^ (b - o)) else Memory.read x.scratch b) ∧
    (size.toNat < 4 → addr.toNat % w = 0 → ∀ p page, s.Reaches .store addr w (.phys p page) u → u.Local p w → u.Uncounted page →
      ∃ t, exec (.sst d a size off) s = .next t ∧ t.cw = s.cw.movedTo (s.cw.pc + 4) ∧ t.teams = s.teams ∧
        StoredAt u t p w (s.rs d).toNat) ∧
    (size.toNat < 4 → addr.toNat % w = 0 → ∀ p page, s.Reaches .store addr w (.phys p page) u → u.wcb = [] →
      isPeer (u.whoOf u.cw).dev p = true → u.Uncounted page →
      ∃ t e, exec (.sst d a size off) s = .next t ∧ t.cw = s.cw.movedTo (s.cw.pc + 4) ∧ SameMem u t ∧ t.wcb = [e] ∧
        e.line = p / 128 * 128 ∧ e.bytes = (List.range w).map fun i =>
          WcbByte.mk (p % 128 + i) (BitVec.ofNat 8 ((s.rs d).toNat / 256 ^ i)) s.cw.uid (s.cw.level == .handler)) ∧
    (size.toNat < 4 → addr.toNat % w ≠ 0 → exec (.sst d a size off) s = .next (s.takeTrap { cause := 0x06, addr })) ∧
    (size.toNat < 4 → addr.toNat % w = 0 → ∀ t, s.locate s.cw .store addr.toNat w = (.bad t, u) →
      exec (.sst d a size off) s = .next (s.takeTrap t)) ∧
    (4 ≤ size.toNat → exec (.sst d a size off) s = .next (s.takeTrap { cause := 0x01 }))

/-- The new value of each SATOM operation at a width of n bits (R171); `none` where nothing is written. -/
def atomicNew (op : BitVec 3) (n old x e : Nat) : Option Nat :=
  match op with
  | 0 => some ((old + x) % 2 ^ n)
  | 1 => some (old &&& x)
  | 2 => some (old ||| x)
  | 3 => some (old ^^^ x)
  | 4 => some (if (BitVec.ofNat n old).toInt ≤ (BitVec.ofNat n x).toInt then old else x)
  | 5 => some (if (BitVec.ofNat n old).toInt ≤ (BitVec.ofNat n x).toInt then x else old)
  | 6 => some x
  | 7 => if old = e then some x else none

/-- R171: SATOM on local memory. s[d] takes the old value, sign-extended; the new one is stored and no other byte changes; a compare
and swap that fails stores nothing. A release waits for the wave's lane blocks. In an open region it traps REGION_ILLEGAL, and a
misaligned address traps MISALIGN. -/
def ScalarAtomic : Prop :=
  ∀ (d a b : SReg) (op : BitVec 3) (wide : Bool) (ord scope : BitVec 2) (s u : State),
    let w := if wide then 8 else 4
    let addr := s.rs a
    (s.cw.region = none → s.Clean [a, b, d] → addr.toNat % w = 0 → (2 ≤ ord.toNat → s.cw.eng.queue = []) → s.wcb = [] → s.MemWf →
      ∀ p page, s.Reaches .rmw addr w (.phys p page) u → u.Local p w → u.Uncounted page →
      let old := Memory.readLE u.mem p w
      ∃ t, exec (.satom d a b op wide ord scope) s = .next t ∧ t.cw.pc = s.cw.pc + 4 ∧
        (∀ r, t.rs r = if r = d ∧ d ≠ 0 then (BitVec.ofNat (8 * w) old).signExtend 64 else s.rs r) ∧
        match atomicNew op (8 * w) old ((s.rs b).toNat % 2 ^ (8 * w)) ((s.rs d).toNat % 2 ^ (8 * w)) with
        | some x => StoredAt u t p w x
        | none => SameMem u t) ∧
    (s.cw.region.isSome = true →
      exec (.satom d a b op wide ord scope) s = .next (s.takeTrap { cause := 0x14 })) ∧
    (s.cw.region = none → s.Clean [a, b, d] → addr.toNat % w ≠ 0 →
      exec (.satom d a b op wide ord scope) s = .next (s.takeTrap { cause := 0x06, addr }))

/-- R168, R89: SLIT loads 8 bytes of the scalar section into s[d] when its lines are data lines; beyond the section or outside data
lines it traps PROTECTION. -/
def PoolLoad : Prop :=
  ∀ (d : SReg) (n : BitVec 20) (s u : State) (k : Kernel), s.kernelOf s.cw = some k → s.cw.region = none →
    let a := k.sbase + 8 * n.toNat
    let trapped := exec (.slit d n) s = .next (s.takeTrap { cause := 0x11, addr := .ofNat 64 a })
    (8 * n.toNat + 8 ≤ 4 * k.swords → k.dataLine a = true → k.dataLine (a + 7) = true → a < 2 ^ 64 →
      ∀ p page, s.Reaches .load (.ofNat 64 a) 8 (.phys p page) u → u.Local p 8 → u.Uncounted page →
      ∃ t, exec (.slit d n) s = .next t ∧ t.cw.pc = s.cw.pc + 4 ∧ SameMem u t ∧
        ∀ r, t.rs r = if r = d ∧ d ≠ 0 then .ofNat 64 (Memory.readLE u.mem p 8) else s.rs r) ∧
    (4 * k.swords < 8 * n.toNat + 8 → trapped) ∧ (k.dataLine a = false ∨ k.dataLine (a + 7) = false → trapped)

/-- R170, R172, R237: SPREF and FENCE change no register. SPREF never waits; a FENCE completes once the wave's lane blocks have ended, and
a .full or .rel one with .xfer once its copies and transfers have ended too; until then it waits, and copies in flight hold up no other
FENCE. A .full or .rel one of device or system scope leaves no byte of the wave in a
write-combining buffer; where no buffer holds anything, no byte changes. Reserved sizes and kinds trap ILLEGAL_OP. -/
def HintsAndFences : Prop :=
  ∀ (a : SReg) (size : BitVec 3) (off : BitVec 11) (xfer : Bool) (kind scope : BitVec 2) (s : State),
    (size ≠ 7 → ∃ t, exec (.spref a size off) s = .next t ∧ Moves s t (s.cw.pc + 4)) ∧
    (size = 7 → exec (.spref a size off) s = .next (s.takeTrap { cause := 0x01 })) ∧
    (kind ≠ 3 → s.cw.region = none → s.cw.eng.queue = [] → 
      (xfer = true → kind ≠ 1 → ∀ c ∈ s.copies, c.wave = s.cw.uid → c.st.ended = true) →
      ∃ t, exec (.fence xfer kind scope) s = .next t ∧ t.cw.pc = s.cw.pc + 4 ∧ t.cw.s = s.cw.s ∧ t.cw.k = s.cw.k ∧ t.cw.q = s.cw.q ∧
        t.cw.v = s.cw.v ∧ (s.wcb = [] → Moves s t (s.cw.pc + 4)) ∧ (∀ e ∈ t.wcb, e ∈ s.wcb) ∧
        (kind ≠ 1 → 2 ≤ scope.toNat → ∀ e ∈ t.wcb, ∀ b ∈ e.bytes, b.wave ≠ s.cw.uid)) ∧
    (kind ≠ 3 → s.cw.region = none → s.cw.eng.queue ≠ [] →
      ∃ t, exec (.fence xfer kind scope) s = .next t ∧ t.cw.pc = s.cw.pc ∧ t.cw.wait.isSome) ∧
    (kind ≠ 3 → kind ≠ 1 → s.cw.region = none → s.cw.eng.queue = [] → (∃ c ∈ s.copies, c.wave = s.cw.uid ∧ c.st.ended = false) →
      ∃ t, exec (.fence true kind scope) s = .next t ∧ t.cw.pc = s.cw.pc ∧ t.cw.wait.isSome ∧ t.cw.s = s.cw.s ∧ (s.wcb = [] → SameMem s t)) ∧
    (kind = 3 → exec (.fence xfer kind scope) s = .next (s.takeTrap { cause := 0x01 }))

/-- R336, R338: checking an access changes memory only by setting bits 5 and 6 (A and D) of table entries, and changes nothing else
but the TLB: whatever the outcome, each byte keeps its bits and gains at most those two. -/
def TranslationSetsOnlyAD : Prop :=
  ∀ (w : Wave) (acc : Acc) (a n : Nat) (s u : State) (r : Resolved), s.MemWf → s.locate w acc a n = (r, u) →
    u = { s with mem := u.mem, tlb := u.tlb } ∧ u.MemWf ∧
      ∀ b, ∃ m : Byte, m &&& 0x9F = 0 ∧ Memory.read u.mem b = Memory.read s.mem b ||| m

/-- R226, R227, R336: an address at or above 2^56 that lies in no window, and a scratchpad address whose offset passes the end of its
team's banks, name nothing: the access is checked PROTECTION with the address in HADDR. -/
def AddressesOutsideEveryWindow : Prop :=
  ∀ (w : Wave) (acc : Acc) (a n : Nat) (s : State), 2 ^ 56 ≤ a →
    ((a < 2 ^ 56 ∨ 2 ^ 56 + 0x0D000000 ≤ a) → (a < fifoWindow ∨ fifoWindow + 0x200 ≤ a) →
      s.locate w acc a n = (.bad { cause := 0x11, addr := .ofNat 64 a }, s)) ∧
    (∀ t, a < 2 ^ 56 + 2 ^ 24 → s.team? w.team = some t → t.banks * 131072 ≤ a % 2 ^ 24 →
      s.locate w acc a n = (.bad { cause := 0x11, addr := .ofNat 64 a }, s))

/-! ## Waves (chapter 06) -/

/-- What every new wave of WSPAWN holds (R125, R151, R152): its entry, its registers, its priority; the rest at its entry value. -/
structure Spawned (s : State) (c : Ctx) (k : Kernel) (a : SReg) (det : Bool) (w : Wave) : Prop where
  pc : w.pc = .ofNat 64 (k.sbase + 4 * k.entries.getD ((s.rs a).toNat % 256) 0)
  args : w.rs 1 = s.rs (SReg.plus a 1) ∧ w.rs 2 = s.rs (SReg.plus a 2) ∧ w.rs 3 = zext64 s.cw.handle
  slot : w.slot ∉ c.slotsUsed ∧ w.rs 61 = .ofNat 64 (c.spillBase + w.slot * c.slotSize + k.spill)
  zero : ∀ r : SReg, r.toNat ∉ [1, 2, 3, 4, 6, 61] → w.rs r = 0
  prio : w.prio.toNat = min ((s.rs a).toNat / 256) s.cw.prio.toNat ∧ w.ceiling = s.cw.ceiling
  kernel : w.kernel = s.cw.kernel ∧ w.vregs = k.vregs ∧ w.ctx = s.cw.ctx ∧ w.dev = s.cw.dev
  indices : w.teamIndex = s.cw.teamIndex ∧ w.clusterIndex = s.cw.clusterIndex ∧ w.gridpos = s.cw.gridpos
  joinable : w.joinable = !det
  fresh : w.level = .ordinary ∧ w.k = .replicate 8 0 ∧ w.q = .replicate 8 0 ∧ w.fstat = 0 ∧ w.fmode = 0 ∧ w.dphase = 0 ∧
    w.chk = 0 ∧ w.gang = 0 ∧ w.live = BitVec.allOnes 32 ∧ w.eng = .empty ∧ w.region = none

/-- R151, R152: WSPAWN with a legal descriptor. With .team the new wave is resident in the creator's team under the lowest index
that no live wave of the team has, when the team and its core have room; without, it is index 0 of a team and a cluster of its own. A
bad descriptor gives BADDESC, a full team FULL with .nb, a context without a slot or an entry NOOBJ with .nb; .nb changes nothing
else. -/
def SpawnWord : Prop :=
  ∀ (d a : SReg) (det nb : Bool) (s : State) (c : Ctx) (k : Kernel), s.Calls (runOf a 3) c → s.kernelOf s.cw = some k →
    a.toNat + 3 ≤ 64 → s.Settled → s.UidsGiven → s.cw.uid ≠ 0 →
    let legal := (s.rs a).toNat < 2 ^ 11 ∧ (s.rs a).toNat % 256 < k.entries.length
    (legal → s.roomForWaves c 1 = true → s.teamFull k = false →
      ∃ t w, exec (.wspawn d a det true nb) s = .next t ∧ MakesHandle s t d kWAVE w.uid ∧ w ∈ t.waves ∧ Spawned s c k a det w ∧
        w.team = s.cw.team ∧ w.core = s.cw.core ∧ w.st = .resident ∧ w.rs 4 = .ofNat 64 w.index ∧ w.rs 6 = .ofNat 64 (2 ^ 56) ∧
        (∀ x ∈ s.allWaves, x.team = s.cw.team → x.st ≠ .exited → x.index ≠ w.index) ∧
        ∀ i < w.index, ∃ x ∈ s.allWaves, x.team = s.cw.team ∧ x.st ≠ .exited ∧ x.index = i) ∧
    (legal → s.roomForWaves c 1 = true →
      ∃ t w x, exec (.wspawn d a det false nb) s = .next t ∧ MakesHandle s t d kWAVE w.uid ∧ w ∈ t.waves ∧ Spawned s c k a det w ∧
        w.index = 0 ∧ (w.st = .created ∨ w.st = .ready) ∧ x ∈ t.clusters ∧ x.teams = [w.team] ∧ x.rows = 1 ∧ x.cols = 1 ∧
        (x.st = .inTable ∨ x.st = .inRunList) ∧ (t.team? w.team).map (fun y => (y.acc, y.banks)) = some (0, 0)) ∧
    (¬ legal → ∃ t, exec (.wspawn d a det true nb) s = .next t ∧ Returns s t d (.ofNat 64 (3 * 2 ^ 32))) ∧
    (legal → s.teamFull k = true →
      ∃ t, exec (.wspawn d a det true true) s = .next t ∧ Returns s t d (.ofNat 64 (1 * 2 ^ 32))) ∧
    (legal → s.roomForWaves c 1 = false →
      ∃ t, exec (.wspawn d a det false true) s = .next t ∧ Returns s t d (.ofNat 64 (2 * 2 ^ 32)))

/-- A wave that has ended (R153, R154, R158): its state and cause, its copies queued or stopped, its spill slot, its handle unless a
WJOIN may still come, and its launch's counts. -/
structure WaveEnded (s t : State) (w : Wave) (cause : Nat) : Prop where
  state : ∃ x, t.wave? w.uid = some x ∧ x.st = .exited ∧ x.cause = cause ∧ x.eng = .empty ∧ x.region = none
  slot : ∀ c, s.ctx? w.ctx = some c → ∃ x, t.ctx? w.ctx = some x ∧ x.slotsUsed = c.slotsUsed.filter (· ≠ w.slot)
  handle : w.joinable = false → ∀ e ∈ t.handles, e.kind = kWAVE → e.obj ≠ some w.uid
  copies : ∀ x ∈ t.copies, x.wave = w.uid → x.st ≠ .queued ∧ x.st ≠ .stopped
  launch : w.ofLaunch = true → ∀ l x, w.launch = some l → s.launch? l = some x →
    ∃ y, t.launch? l = some y ∧ y.ended = x.ended + 1 ∧ y.killed = x.killed + (if cause = 0 then 0 else 1)
  memory : SameMem s t

/-- R153, R158: WEXIT waits as FENCE.full.sys.xfer, gives way to a trap that is due, and ends its wave with cause 0. WKILL of 0 ends its own wave with cause 1; WKILL
of another wave ends that one, and the executing wave goes on with its registers unchanged. -/
def WavesEnd : Prop :=
  ∀ (a : SReg) (s : State) (c : Ctx), s.Calls [a] c → s.cw.uid ≠ 0 → s.cw.st.onCore = true →
    (s.Settled → s.cw.dueTrap = none → (∀ x ∈ s.copies, x.wave = s.cw.uid → x.st.ended = true) →
      ∃ t, exec .wexit s = .next t ∧ WaveEnded s t s.cw 0) ∧
    (s.Settled → s.cw.dueTrap.isSome = true → (∀ x ∈ s.copies, x.wave = s.cw.uid → x.st.ended = true) →
      ∃ t, exec .wexit s = .next t ∧ t.cw.pc = s.cw.pc ∧ t.cw.wait.isSome ∧ t.cw.pending = s.cw.pending) ∧
    (s.cw.eng.queue ≠ [] → ∃ t, exec .wexit s = .next t ∧ t.cw.pc = s.cw.pc ∧ t.cw.wait.isSome ∧ t.cw.st = s.cw.st) ∧
    ((s.rs a).setWidth 32 = (0 : BitVec 32) → ∃ t, exec (.wkill a) s = .next t ∧ WaveEnded s t s.cw 1) ∧
    (∀ w : Wave, w.st ≠ .exited → w.uid ≠ s.cw.uid → (s.rs a).setWidth 32 ≠ (0 : BitVec 32) →
      s.Names a [kWAVE] kWAVE w.uid → s.wave? w.uid = some w →
      ∃ t, exec (.wkill a) s = .next t ∧ WaveEnded s t w 1 ∧ t.cw.s = s.cw.s ∧ t.cw.k = s.cw.k ∧ t.cw.q = s.cw.q ∧ t.cw.v = s.cw.v ∧
        t.cw.pc = s.cw.pc + 4)

/-- R155, R156, R157, R159: WYIELD gives way to the ready scalar streams and paths of its class on its core, leaves its own lane blocks and
fragments alone, and changes no register; WSELF gives the
wave's index and handle; WPRIO sets the priority, at most the ceiling, and gives the old one; WJOIN of an ended wave gives its
cause and, unless another WJOIN waits on it, releases it, so that its handle names nothing; of a running one it waits, and with .nb gives
bit 63. -/
def WaveCalls : Prop :=
  ∀ (d a b : SReg) (nb : Bool) (s : State) (c : Ctx), s.Calls [a, b] c → s.cw.uid ≠ 0 →
    (∃ t, exec .wyield s = .next t ∧ SameMem s t ∧
      t = { s with cw := { s.cw.movedTo (s.cw.pc + 4) with yieldTo := t.cw.yieldTo, yieldEnd := t.cw.yieldEnd } } ∧
      ∀ x ∈ s.waves, x.dev = s.cw.dev → x.core = s.cw.core → x.st.onCore = true → x.uid ≠ s.cw.uid →
        x.issueClass = s.cw.issueClass → (s.scalarReady x = true → x.wait = none → (x.uid, none) ∈ t.cw.yieldTo) ∧
          (s.laneReady x = true → ∀ p ∈ x.eng.paths, p.ready = true → p.wait = .none → (x.uid, some p.id) ∈ t.cw.yieldTo)) ∧
    (∃ t, exec (.wself d) s = .next t ∧ WritesReg s t d (.ofNat 64 (s.cw.index * 2 ^ 32 + s.cw.handle.toNat)) (s.cw.pc + 4)) ∧
    ((s.rs a).setWidth 32 = (0 : BitVec 32) → s.cw.st.onCore = true →
      ∃ t, exec (.wprio d a b) s = .next t ∧ t.cw.prio.toNat = min ((s.rs b).toNat % 8) s.cw.ceiling.toNat ∧ SameMem s t ∧
        t.cw = { s.cw.movedTo (s.cw.pc + 4) with s := t.cw.s, prio := t.cw.prio } ∧
        ∀ r, t.rs r = if r = d ∧ d ≠ 0 then s.cw.prio.setWidth 64 else s.rs r) ∧
    (∀ w : Wave, (s.rs a).setWidth 32 ≠ (0 : BitVec 32) → w.uid ≠ s.cw.uid → s.Names a [kWAVE] kWAVE w.uid → s.wave? w.uid = some w →
      (w.st ≠ .exited → ∃ t p, exec (.wprio d a b) s = .next t ∧ Returns s t d (w.prio.setWidth 64) ∧
        t.wave? w.uid = some { w with prio := p } ∧ p.toNat = min ((s.rs b).toNat % 8) w.ceiling.toNat) ∧
      (w.st = .exited → ∃ t, exec (.wprio d a b) s = .next t ∧ Returns s t d (.ofNat 64 (2 ^ 63 + w.prio.toNat))) ∧
      (w.joinable = true → s.cw.joining = none →
        (w.st = .exited → ∃ t, exec (.wjoin d a nb) s = .next t ∧ Returns s t d (.ofNat 64 w.cause) ∧
          ((∀ x ∈ s.allWaves, x.uid ≠ s.cw.uid → x.st ≠ .exited → x.joining ≠ some w.uid) →
            t.resolve s.cw.ctx ((s.rs a).setWidth 32) [kWAVE] = none ∧ ∀ e ∈ t.handles, e.kind = kWAVE → e.obj ≠ some w.uid)) ∧
        (w.st ≠ .exited → ∃ t, exec (.wjoin d a true) s = .next t ∧ Returns s t d (.ofNat 64 (2 ^ 63))) ∧
        (w.st ≠ .exited → ∃ t, exec (.wjoin d a false) s = .next t ∧ Waits s t)))

/-- R158, R115: WKILL.ctx outside handler level traps PRIV. At handler level the context terminates: every one of its waves ends
with no handler run. -/
def ContextKill : Prop :=
  ∀ (a : SReg) (s : State) (c : Ctx), s.ctx? s.cw.ctx = some c →
    (s.cw.level = .ordinary → exec (.wkillCtx a) s = .next (s.takeTrap { cause := 0x05 })) ∧
    (s.cw.level = .handler → s.UidsGiven → s.cw.uid ≠ 0 → c.st ≠ .terminating → c.st ≠ .dead →
      ∃ t x, exec (.wkillCtx a) s = .next t ∧ t.ctx? c.uid = some x ∧ (x.st = .terminating ∨ x.st = .dead) ∧
        ∀ w ∈ t.allWaves, w.ctx = c.uid → w.st = .exited)

/-- R101, R103: a new handle takes a free entry of the slice at its generation and names its object; once the object is freed, the
handle names nothing, whatever the entry holds later. -/
def HandleLife : Prop :=
  ∀ (s : State) (c : Ctx) (kind obj : Nat), s.ctx? c.uid = some c → s.sliceFull c = false → c.slice ≤ 2 ^ 20 → kind < 16 →
    let h := (s.newHandle c.uid kind obj).1
    let t := (s.newHandle c.uid kind obj).2
    (∃ i < c.slice, (s.handleAt c.uid i).taken = false ∧
      h.toNat = kind * 2 ^ 28 + (s.handleAt c.uid i).gen * 2 ^ 20 + i) ∧
    t.resolve c.uid h [kind] = some (kind, obj) ∧
    ∀ ks, (t.freeHandle kind obj).resolve c.uid h ks = none

/-! ## Ports, messages and names (chapter 13) -/

/-- The argument checks of PCREATE (R301). -/
def PortArgs (c : Ctx) (launch : Bool) (depth prio base size : Nat) : Prop :=
  1 ≤ depth ∧ depth ≤ 4096 ∧ (launch = true → prio ≤ c.ceiling ∧ size = 0) ∧ base % 2 ^ 21 = 0 ∧ size % 2 ^ 21 = 0 ∧
    size ≤ 2 ^ 36 ∧ base + size ≤ 2 ^ 56 ∧ (base = 0 ↔ size = 0)

/-- R301, R298, R302, R308, R309: PCREATE makes an open port with the depth, class and window of its run and charges 128 bytes of
quota a slot; PINFO gives its map; PCLOSE makes it drain, or frees it when it is empty; PCLOSE.now frees it at once, with what it holds. A
freed port's handle is stale and its quota is back. -/
def PortLife : Prop :=
  ∀ (d a : SReg) (nb launch : Bool) (s : State) (c : Ctx),
    (s.Calls (runOf a 3) c → a.toNat + 3 ≤ 64 →
      let x := (s.rs a).toNat
      let depth := x % 2 ^ 13
      let prio := x / 2 ^ 13
      let base := (s.rs (SReg.plus a 1)).toNat
      let size := (s.rs (SReg.plus a 2)).toNat
      prio < 8 → (launch = true ∨ prio = 0) →
      (PortArgs c launch depth prio base size → c.quotaUsed + 128 * depth ≤ c.quota → s.sliceFull c = false →
        ∃ t p y, exec (.pcreate d a nb launch) s = .next t ∧ MakesHandle s t d kPORT p.uid ∧ t.ports = s.ports ++ [p] ∧
          p.ctx = c.uid ∧ p.launch = launch ∧ p.depth = depth ∧ p.prio = prio ∧ p.winBase = base ∧ p.winSize = size ∧
          p.st = .opened ∧ p.queue = [] ∧ p.resv = 0 ∧ p.allow = 0 ∧ p.drops = 0 ∧
          t.ctx? c.uid = some y ∧ y.quotaUsed = c.quotaUsed + 128 * depth) ∧
      (¬ PortArgs c launch depth prio base size →
        ∃ t, exec (.pcreate d a nb launch) s = .next t ∧ Returns s t d (.ofNat 64 (9 * 2 ^ 32))) ∧
      (PortArgs c launch depth prio base size → c.quota < c.quotaUsed + 128 * depth →
        ∃ t, exec (.pcreate d a nb launch) s = .next t ∧ Returns s t d (.ofNat 64 (3 * 2 ^ 32)))) ∧
    (∀ p : Port, s.Calls [a] c → s.Names a [kPORT] kPORT p.uid → s.port? p.uid = some p → p.st ≠ .closed →
      (s.Names a [kPORT, kREMOTE] kPORT p.uid →
        ∃ t, exec (.pinfo d a) s = .next t ∧ Returns s t d (.ofNat 64 ((match p.st with
          | .opened => 0
          | .bound => 1
          | _ => 2) * 2 ^ 62 + (if p.launch then 2 ^ 61 else 0) + p.drops * 2 ^ 52 + p.queue.length * 2 ^ 39 +
            p.resv * 2 ^ 26 + p.allow * 2 ^ 13 + p.depth))) ∧
      (p.st ≠ .draining → (p.queue ≠ [] ∨ p.resv ≠ 0) →
        ∃ t, exec (.pclose d a false) s = .next t ∧ Returns s t d 0 ∧ t.port? p.uid = some { p with st := .draining, name := none }) ∧
      (p.st = .draining → ∃ t, exec (.pclose d a false) s = .next t ∧ Returns s t d (.ofNat 64 (4 * 2 ^ 32))) ∧
      (∀ now, (now = true ∨ (p.st ≠ .draining ∧ p.queue = [] ∧ p.resv = 0)) → ∀ y, s.ctx? p.ctx = some y →
        ∃ t q z, exec (.pclose d a now) s = .next t ∧ ((∀ m ∈ p.queue, m.grants = []) → Returns s t d 0) ∧
          (∀ r, t.rs r = if r = d ∧ d ≠ 0 then 0 else s.rs r) ∧ t.port? p.uid = some q ∧ q.st = .closed ∧
          (∀ e ∈ t.handles, e.kind = kPORT → e.obj ≠ some p.uid) ∧ t.ctx? p.ctx = some z ∧
          z.quotaUsed = y.quotaUsed - 128 * p.depth))

/-- The message that a send appends: its words are the registers of its run, in order (R296, R303). -/
structure Appended (s t : State) (p : Port) (b : SReg) (grants : List Grant) (reply : Option Nat) : Prop where
  queue : ∃ q m, t.port? p.uid = some q ∧ q.queue = p.queue ++ [m] ∧ m.grants = grants ∧ m.reply = reply ∧ m.completion = false ∧
    m.words = (List.range (if p.launch then 16 else 8)).map fun i => s.rs (SReg.plus b i)

/-- R303: PSEND through a local handle. With a free slot the message goes to the tail of the queue, the status is OK and, with
.rep, a slot of the reply port is reserved; without one it waits, or gives WOULDBLOCK with .nb; a draining port gives CLOSED with .st and
else traps PORT_CLOSED. -/
def SendWord : Prop :=
  ∀ (d a b : SReg) (st nb : Bool) (s : State) (c y : Ctx) (p : Port),
    s.Calls (a :: runOf b (if p.launch then 16 else 8)) c → b.toNat + (if p.launch then 16 else 8) ≤ 64 → s.Settled →
    s.cw.sending = none → s.Names a [kPORT, kREMOTE] kPORT p.uid → s.port? p.uid = some p → s.ctx? p.ctx = some y → p.dev = s.cw.dev →
    (s.shut p = false →
      (1 ≤ p.freeSlots → ∃ t, exec (.psend d a b false st nb) s = .next t ∧ Returns s t d 0 ∧ Appended s t p b [] none) ∧
      (p.freeSlots = 0 → ∃ t, exec (.psend d a b false st true) s = .next t ∧ Returns s t d (.ofNat 64 (1 * 2 ^ 32))) ∧
      (p.freeSlots = 0 → ∃ t, exec (.psend d a b false st false) s = .next t ∧ Waits s t) ∧
      (∀ r : Port, s.Clean [d] → s.Names d [kPORT] kPORT r.uid → s.port? r.uid = some r → r.launch = false → r.uid ≠ p.uid →
        1 ≤ p.freeSlots → 1 ≤ r.freeSlots →
        ∃ t, exec (.psend d a b true st nb) s = .next t ∧ Returns s t d 0 ∧ Appended s t p b [] (some r.uid) ∧
          t.port? r.uid = some { r with resv := r.resv + 1 })) ∧
    (s.shut p = true →
      (∃ t, exec (.psend d a b false true nb) s = .next t ∧ Returns s t d (.ofNat 64 (4 * 2 ^ 32))) ∧
      exec (.psend d a b false false nb) s =
        .next (s.takeTrap { cause := 0x21, info := ((s.rs a).setWidth 32).setWidth 64 }))

/-- R303, R304, R305, R345: PSENDG of one page of the sender's device. The descriptor's page, mapped by one stage-1 leaf and granted by
none of the checks, moves with the message: the leaf (all sixteen entries of a 64 KiB page) gains G, no other byte of memory changes, and
no core of the sender's device keeps a translation of the page. A port of the same partition changes no owner; one of another partition
takes the frames; one of another device has the page on loan. -/
def GrantSend : Prop :=
  ∀ (d a b : SReg) (st nb : Bool) (s : State) (c y : Ctx) (p : Port) (x : Word) (loc : Nat) (g : Grant),
    s.Calls (a :: runOf b 10) c → b.toNat + 10 ≤ 64 → s.Settled → s.cw.sending = none → s.Names a [kPORT, kREMOTE] kPORT p.uid →
    s.port? p.uid = some p → s.ctx? p.ctx = some y → s.shut p = false → p.launch = false → p.winSize ≠ 0 → 1 ≤ p.freeSlots → s.MemWf →
    s.rs (SReg.plus b 8) = x → s.rs (SReg.plus b 9) = 0 → x.toNat / 4 % 4 = 0 → x.toNat / 64 % 64 = 0 → x.toNat % 2 = 1 → x.toNat / 16 % 4 ≠ 3 →
    (s.lent.any fun l => l.dev == g.dev && l.addr == g.addr) = false → (∀ e ∈ s.tlb, e.ct1 = false ∧ e.ct2 = false) →
    (∀ e ∈ s.wcb, e.line < physOf g.dev g.addr ∨ physOf g.dev g.addr + g.size ≤ e.line) →
    let va := x.toNat / 4096 * 4096
    let part := (s.whoOf s.cw).part
    s.grantable va (grantSize x) (bitAt x.toNat 1) = .ok (some (.leaf loc, g)) → g.dev = s.cw.dev → g.size = grantSize x →
    (p.dev = s.cw.dev → y.part ≠ part → g.size ≠ 4096) →
    (p.dev ≠ s.cw.dev → s.cw.poisonWait = false ∧ s.reachable s.cw.dev p.dev = true) →
    ∃ t, exec (.psendg d a b false st nb) s = .next t ∧ Appended s t p b [g] none ∧
      (∀ e, e ∈ t.tlb ↔ e ∈ s.tlb ∧ ¬ (e.dev = s.cw.dev ∧ e.ctx = s.cw.ctx ∧ e.va < va + g.size ∧ va < e.va + e.size)) ∧
      t.cw = { s.cw.movedTo (s.cw.pc + 4) with s := t.cw.s } ∧ (∀ r, t.rs r = if r = d ∧ d ≠ 0 then 0 else s.rs r) ∧
      (p.dev = g.dev → y.part = part → t.owners = s.owners ∧ t.lent = s.lent) ∧
      (p.dev = g.dev → y.part ≠ part → t.lent = s.lent ∧ ∀ e f, t.frameCode e f =
        if e = g.dev ∧ g.addr / 65536 ≤ f ∧ f < g.addr / 65536 + g.size / 65536 then .ofNat 8 y.part else s.frameCode e f) ∧
      (p.dev ≠ g.dev → t.owners = s.owners ∧ ∃ l, t.lent = s.lent ++ [l] ∧ l.dev = g.dev ∧ l.part = part ∧ l.addr = g.addr ∧ l.size = g.size ∧
        l.holder = p.dev ∧ l.port = p.uid ∧ l.released = false ∧ l.lost = false) ∧
      ∀ n, Memory.read t.mem n =
        if n ∈ (if g.size = 65536 then (List.range 16).map fun i => loc / 128 * 128 + 8 * i else [loc])
        then Memory.read s.mem n ||| 0x80 else Memory.read s.mem n

/-- The registers after a message is received into the run from `b`, with its grants at `pages` and the status in s[d] (R307). -/
def Received (s t : State) (d b : SReg) (m : Msg) (pages : List Nat) (status : Word) : Prop :=
  let words := m.words ++ ((m.grants.zip pages).map fun x => grantDesc x.2 x.1.size x.1.w) ++ [0, 0, 0]
  ∀ r, t.rs r = if r = 0 then 0 else if r = d then status
    else if b.toNat ≤ r.toNat ∧ r.toNat < b.toNat + 11 then words.getD (r.toNat - b.toNat) 0 else s.rs r

/-- R307: PRECV takes the message at the head into the run, with its grants mapped into the port's window and 0 for absent ones, and the
status into s[d] (NOREPLY for a completion without a reply); PPEEK does the same with pages of 0, and leaves it queued and its grants
unmapped; without room in the window the status is NOWIN and the message stays; an empty port gives WOULDBLOCK, a draining one CLOSED. -/
def ReceiveWords : Prop :=
  ∀ (d a b : SReg) (s : State) (c : Ctx) (p : Port), s.Calls [a] c → b.toNat + 11 ≤ 64 → s.Names a [kPORT] kPORT p.uid →
    s.port? p.uid = some p → p.launch = false →
    (∀ m ms pages w, p.queue = m :: ms → mapGrants p m.grants p.window = some (pages, w) → m.words.length = 8 →
      let status : Word := if m.completion then .ofNat 64 (11 * 2 ^ 32) else 0
      let stays := p.st = .draining → ms ≠ [] ∨ p.resv ≠ 0
      (∃ t, exec (.ppeek d a b) s = .next t ∧ Received s t d b m (pages.map fun _ => 0) status ∧ t.ports = s.ports ∧ SameMem s t ∧
        t.cw = { s.cw.movedTo (s.cw.pc + 4) with s := t.cw.s }) ∧
      (m.reply = none → m.via = none → stays →
        ∃ t, exec (.precv d a b) s = .next t ∧ Received s t d b m pages status ∧
          t.port? p.uid = some { p with queue := ms, window := w } ∧ SameMem s t ∧
          t.cw = { s.cw.movedTo (s.cw.pc + 4) with s := t.cw.s }) ∧
      (∀ r, m.reply = some r → m.completion = false → m.via = none → stays → s.sliceFull c = false →
        ∃ t e x, exec (.precv d a b) s = .next t ∧ e ∈ t.handles ∧ e.kind = kREMOTE ∧ e.obj = some x.uid ∧ x ∈ t.remotes ∧ x.port = r ∧
          x.reply.isSome = true ∧ Received s t d b m pages (zext64 e.word) ∧ t.port? p.uid = some { p with queue := ms, window := w })) ∧
    (∀ m ms, p.queue = m :: ms → mapGrants p m.grants p.window = none → ∀ i ∈ [Instr.precv d a b, .ppeek d a b],
      ∃ t, exec i s = .next t ∧ Returns s t d (.ofNat 64 (8 * 2 ^ 32)) ∧ t.ports = s.ports) ∧
    (p.queue = [] → ∀ i ∈ [Instr.precv d a b, .ppeek d a b],
      ∃ t, exec i s = .next t ∧ Returns s t d (.ofNat 64 ((if p.st = .draining then 4 else 1) * 2 ^ 32)))

/-- R312, R313, R314: NREG binds a port to a name of its domain with an allowance (8 when the register is 0); NLOOKUP of it, in
any context of the domain, makes a remote handle with that allowance and takes it from the port's slots, or gives NODEPTH when they are
too few; NDROP unbinds it. A name
that is bound gives EXISTS, an unknown one NOTFOUND with .st and else traps NAME_UNKNOWN. -/
def NameWords : Prop :=
  ∀ (d a b : SReg) (st : Bool) (s : State) (c : Ctx), s.domainMoving c = false →
    (∀ p : Port, s.Calls (a :: runOf b 2) c → b.toNat + 2 ≤ 64 → s.Names a [kPORT] kPORT p.uid → s.port? p.uid = some p → p.launch = false →
      (s.rs (SReg.plus b 1)).toNat ≤ 64 → p.st = .opened ∨ p.st = .bound →
      (p.name = none → s.boundPort c (s.rs b) = none →
        ∃ t, exec (.nreg d a b) s = .next t ∧ Returns s t d 0 ∧ t.port? p.uid = some { p with st := .bound, name := some (s.rs b,
          if s.rs (SReg.plus b 1) = 0 then 8 else (s.rs (SReg.plus b 1)).toNat) }) ∧
      (p.name.isSome = true ∨ (s.boundPort c (s.rs b)).isSome = true →
        ∃ t, exec (.nreg d a b) s = .next t ∧ Returns s t d (.ofNat 64 (6 * 2 ^ 32)))) ∧
    (s.Calls [a] c →
      (∀ p : Port, s.Names a [kPORT] kPORT p.uid → s.port? p.uid = some p → p.st = .bound →
        ∃ t, exec (.ndrop d a) s = .next t ∧ Returns s t d 0 ∧ t.port? p.uid = some { p with st := .opened, name := none }) ∧
      (∀ (q : Port) (name : Word) (n : Nat), s.boundPort c (s.rs a) = some q → q.name = some (name, n) → s.port? q.uid = some q →
        n ≤ q.freeSlots → s.sliceFull c = false →
        ∃ t r, exec (.nlookup d a st) s = .next t ∧ MakesHandle s t d kREMOTE r.uid ∧ t.remotes = s.remotes ++ [r] ∧ r.port = q.uid ∧
          r.sends = n ∧ r.reply = none ∧ t.port? q.uid = some { q with allow := q.allow + n }) ∧
      (∀ (q : Port) (name : Word) (n : Nat), s.boundPort c (s.rs a) = some q → q.name = some (name, n) → q.freeSlots < n →
        ∃ t, exec (.nlookup d a st) s = .next t ∧ Returns s t d (.ofNat 64 (5 * 2 ^ 32)) ∧ t.ports = s.ports) ∧
      (s.boundPort c (s.rs a) = none →
        (∃ t, exec (.nlookup d a true) s = .next t ∧ Returns s t d (.ofNat 64 (7 * 2 ^ 32))) ∧
        exec (.nlookup d a false) s = .next (s.takeTrap { cause := 0x22, info := s.rs a })))

/-! ## Wait sets, timers, watches, OCLOSE (chapter 13) -/

/-- R316, R317: WSNEW makes an empty wait set; WSADD adds a port, a timer, a watch, a wave or a census under an index that is
free, or a batch of the wave's own that is closed; WSDEL takes an index out. An index above 63 or a batch not closed gives BADARG, a used
index EXISTS, an absent one NOTFOUND. -/
def WaitSetWords : Prop :=
  ∀ (d a b : SReg) (nb : Bool) (s : State) (c : Ctx),
    (s.Calls [] c → s.sliceFull c = false →
      ∃ t w, exec (.wsnew d nb) s = .next t ∧ MakesHandle s t d kWSET w.uid ∧ t.waitSets = s.waitSets ++ [w] ∧ w.ctx = c.uid ∧ w.sources = []) ∧
    (∀ w : WaitSet, s.Names a [kWSET] kWSET w.uid → s.waitSet? w.uid = some w →
      (s.Calls (a :: runOf b 2) c → b.toNat + 2 ≤ 64 →
        let i := (s.rs (SReg.plus b 1)).toNat
        (i < 64 → ∀ kind obj, s.Names b [kPORT, kTIMER, kWATCH, kWAVE, kCENSUS] kind obj →
          (kind = kPORT → ∃ p, s.port? obj = some p ∧ p.launch = false) → (kind = kWAVE → ∃ x, s.wave? obj = some x ∧ x.joinable = true) →
          (s.waitSets.filter fun v => v.sources.any fun y => y.kind == kind && y.obj == obj && y.batch == 0).length < 8 →
          ((∀ y ∈ w.sources, y.index ≠ i) → ∃ t, exec (.wsadd d a b false) s = .next t ∧ Returns s t d 0 ∧
            t.waitSet? w.uid = some { w with sources := w.sources ++ [{ index := i, kind, obj, batch := 0 }] }) ∧
          ((∃ y ∈ w.sources, y.index = i) →
            ∃ t, exec (.wsadd d a b false) s = .next t ∧ Returns s t d (.ofNat 64 (6 * 2 ^ 32)))) ∧
        (i < 64 → (s.rs b).toNat ≤ s.cw.closed → (∀ y ∈ w.sources, y.index ≠ i) →
          ∃ t, exec (.wsadd d a b true) s = .next t ∧ Returns s t d 0 ∧
            t.waitSet? w.uid = some { w with sources := w.sources ++ [{ index := i, kind := 0, obj := s.cw.uid, batch := (s.rs b).toNat }] }) ∧
        (i < 64 → s.cw.closed < (s.rs b).toNat → ∃ t, exec (.wsadd d a b true) s = .next t ∧ Returns s t d (.ofNat 64 (9 * 2 ^ 32))) ∧
        (64 ≤ i → ∀ batch, ∃ t, exec (.wsadd d a b batch) s = .next t ∧ Returns s t d (.ofNat 64 (9 * 2 ^ 32)))) ∧
      (s.Calls [a, b] c →
        let i := (s.rs b).toNat
        (64 ≤ i → ∃ t, exec (.wsdel d a b) s = .next t ∧ Returns s t d (.ofNat 64 (9 * 2 ^ 32))) ∧
        (i < 64 → (∀ y ∈ w.sources, y.index ≠ i) → ∃ t, exec (.wsdel d a b) s = .next t ∧ Returns s t d (.ofNat 64 (7 * 2 ^ 32))) ∧
        (i < 64 → (∃ y ∈ w.sources, y.index = i) → ∃ t, exec (.wsdel d a b) s = .next t ∧ Returns s t d 0 ∧
          t.waitSet? w.uid = some { w with sources := w.sources.filter fun y => y.index ≠ i })))

/-- R318: WSWAIT gives the lowest index whose source is ready, with a timer's firings (at most 2^24 − 1), which it clears; with
none ready it waits, or gives WOULDBLOCK with .nb; a wait set without a source gives EMPTY. -/
def WaitSetWait : Prop :=
  ∀ (d a : SReg) (nb : Bool) (s : State) (c : Ctx) (w : WaitSet), s.Calls [a] c →
    s.Names a [kWSET] kWSET w.uid → s.waitSet? w.uid = some w → (w.sources.map (·.index)).Nodup →
    (∀ r, s.cw.wait = some r → r.kind = .waitSet → r.obj = w.uid) →
    (∀ x ∈ w.sources, s.sourceReady x = true → (∀ y ∈ w.sources, s.sourceReady y = true → x.index ≤ y.index) →
      (x.kind ≠ kTIMER → ∃ t, exec (.wswait d a nb) s = .next t ∧ Returns s t d (.ofNat 64 x.index)) ∧
      (∀ m : Timer, x.kind = kTIMER → s.timer? x.obj = some m →
        ∃ t, exec (.wswait d a nb) s = .next t ∧ Returns s t d (.ofNat 64 (min (2 ^ 24 - 1) m.firings * 256 + x.index)) ∧
          t.timer? x.obj = some { m with firings := 0 })) ∧
    (w.sources ≠ [] → (∀ x ∈ w.sources, s.sourceReady x = false) →
      (∃ t, exec (.wswait d a true) s = .next t ∧ Returns s t d (.ofNat 64 (1 * 2 ^ 32))) ∧
      (∃ t, exec (.wswait d a false) s = .next t ∧ Waits s t)) ∧
    (w.sources = [] → s.cw.wait = none → ∃ t, exec (.wswait d a nb) s = .next t ∧ Returns s t d (.ofNat 64 (10 * 2 ^ 32)))

/-- A timer just armed (R319): with its deadline still to come it has not fired; with it past, a one-shot timer has fired once and is
disarmed, and a periodic one has fired once for each deadline that passed. -/
structure JustArmed (m : Timer) (now : Nat) (deadline period : Word) : Prop where
  same : m.period = period
  ahead : now < deadline.toNat → m.armed = true ∧ m.deadline = deadline ∧ m.firings = 0
  once : deadline.toNat ≤ now → period = 0 → m.armed = false ∧ m.firings = 1
  each : deadline.toNat ≤ now → period ≠ 0 → m.armed = true ∧ m.firings = (now - deadline.toNat) / period.toNat + 1 ∧
    m.deadline = deadline + .ofNat 64 (m.firings * period.toNat)

/-- R319: TARM of 0 makes a timer, TARM of a timer arms it again with no firing left; the deadline is absolute with .abs, else from now; a
period under 1,000 ns gives BADARG. -/
def TimerWords : Prop :=
  ∀ (d a b : SReg) (nb abs : Bool) (s : State) (c : Ctx), s.Calls (a :: runOf b 2) c → b.toNat + 2 ≤ 64 →
    let period := s.rs (SReg.plus b 1)
    let now := s.time s.cw.dev
    let deadline := if abs then s.rs b else .ofNat 64 now + s.rs b
    ((s.rs a).setWidth 32 = (0 : BitVec 32) → s.sliceFull c = false → (period = 0 ∨ 1000 ≤ period.toNat) →
      ∃ t m, exec (.tarm d a b nb abs) s = .next t ∧ MakesHandle s t d kTIMER m.uid ∧ t.timers = s.timers ++ [m] ∧ m.ctx = c.uid ∧
        JustArmed m now deadline period) ∧
    (∀ m : Timer, (s.rs a).setWidth 32 ≠ (0 : BitVec 32) → s.Names a [kTIMER] kTIMER m.uid → s.timer? m.uid = some m →
      ((period = 0 ∨ 1000 ≤ period.toNat) → ∃ t m', exec (.tarm d a b nb abs) s = .next t ∧
        Returns s t d (((s.rs a).setWidth 32).setWidth 64) ∧ t.timer? m.uid = some m' ∧
        m' = { m with armed := m'.armed, deadline := m'.deadline, period := m'.period, firings := m'.firings } ∧
        JustArmed m' now deadline period) ∧
      (period ≠ 0 → period.toNat < 1000 → ∃ t, exec (.tarm d a b nb abs) s = .next t ∧ Returns s t d (.ofNat 64 (9 * 2 ^ 32)))) ∧
    ((s.rs a).setWidth 32 = (0 : BitVec 32) → s.sliceFull c = false → period ≠ 0 → period.toNat < 1000 →
      ∃ t, exec (.tarm d a b nb abs) s = .next t ∧ Returns s t d (.ofNat 64 (9 * 2 ^ 32)))

/-- R320: TDISARM gives the firings of its timer and disarms it. -/
def TimerDisarm : Prop :=
  ∀ (d a : SReg) (s : State) (c : Ctx) (m : Timer), s.Calls [a] c → s.Names a [kTIMER] kTIMER m.uid → s.timer? m.uid = some m →
      (∃ t, exec (.tdisarm d a) s = .next t ∧ Returns s t d (.ofNat 64 m.firings) ∧
        t.timer? m.uid = some { m with armed := false, firings := 0 })

/-- The comparison of a watch (R321) on the word it reads, `w` bits wide. -/
def watchTest (cmp w x mask value : Nat) : Bool :=
  let x := (x &&& mask) % 2 ^ w
  let v := (value &&& mask) % 2 ^ w
  match cmp with
  | 0 => x = v
  | 1 => x ≠ v
  | 2 => x < v
  | 3 => v ≤ x
  | 4 => (BitVec.ofNat w x).toInt < (BitVec.ofNat w v).toInt
  | _ => (BitVec.ofNat w v).toInt ≤ (BitVec.ofNat w x).toInt

/-- R321: WATCH translates the address as a load does, and makes a watch that has matched if its comparison holds already, at its
width, under its mask. A reserved field traps ILLEGAL_OP, a misaligned address MISALIGN, one outside the context virtual space
PROTECTION; then nothing is made. -/
def WatchWord : Prop :=
  ∀ (d a : SReg) (nb : Bool) (s u : State) (c : Ctx), s.Calls (runOf a 4) c → a.toNat + 4 ≤ 64 →
    let addr := s.rs a
    let mask := s.rs (SReg.plus a 1)
    let value := s.rs (SReg.plus a 2)
    let x := (s.rs (SReg.plus a 3)).toNat
    let n := if x < 8 then 4 else 8
    (x < 16 → x % 8 < 6 → addr.toNat % n = 0 → addr.toNat < 2 ^ 56 → s.sliceFull c = false →
      ∀ p page, s.Reaches .load addr n (.phys p page) u →
      ∃ t w e, exec (.watch d a nb) s = .next t ∧ t.watches = s.watches ++ [w] ∧ w.ctx = c.uid ∧ w.addr = p ∧ w.mask = mask ∧
        w.value = value ∧ w.matched = watchTest (x % 8) (8 * n) (Memory.readLE u.mem p n) mask.toNat value.toNat ∧
        e ∈ t.handles ∧ e.kind = kWATCH ∧ e.obj = some w.uid ∧ SameMem u t ∧
        t.cw = { s.cw.movedTo (s.cw.pc + 4) with s := t.cw.s } ∧ ∀ r, t.rs r = if r = d ∧ d ≠ 0 then zext64 e.word else s.rs r) ∧
    ((16 ≤ x ∨ 6 ≤ x % 8) → exec (.watch d a nb) s = .next (s.takeTrap { cause := 0x01 })) ∧
    (x < 16 → x % 8 < 6 → addr.toNat % n ≠ 0 → exec (.watch d a nb) s = .next (s.takeTrap { cause := 0x06, addr })) ∧
    (x < 16 → x % 8 < 6 → addr.toNat % n = 0 → 2 ^ 56 ≤ addr.toNat →
      exec (.watch d a nb) s = .next (s.takeTrap { cause := 0x11, addr })) ∧
    (x < 16 → x % 8 < 6 → addr.toNat % n = 0 → addr.toNat < 2 ^ 56 → ∀ t, s.locate s.cw .load addr.toNat n = (.bad t, u) →
      exec (.watch d a nb) s = .next (s.takeTrap t))

/-- R323: OCLOSE frees a wait set, a timer, a watch, a copy's handle or a remote handle with s[d] ← 0; the object is gone, its
handle stale, and no wait set keeps it as a source. A wave's handle frees an exited wave, or makes a running one not joinable, and
gives BADARG for a wave that is not joinable. -/
def CloseWord : Prop :=
  ∀ (d a : SReg) (s : State) (c : Ctx) (kind u : Nat), s.Calls [a] c →
    s.Names a [kWAVE, kREMOTE, kWSET, kTIMER, kWATCH, kCENSUS, kCOPY] kind u →
    (kind ∈ [kWSET, kTIMER, kWATCH, kCOPY, kREMOTE] →
      ∃ t, exec (.oclose d a) s = .next t ∧ Returns s t d 0 ∧ (∀ e ∈ t.handles, e.kind = kind → e.obj ≠ some u) ∧
        (∀ w ∈ t.waitSets, ∀ x ∈ w.sources, x.kind = kind → x.obj ≠ u) ∧
        (kind = kWSET → ∀ w ∈ t.waitSets, w.uid ≠ u) ∧ (kind = kTIMER → ∀ m ∈ t.timers, m.uid ≠ u) ∧
        (kind = kWATCH → ∀ m ∈ t.watches, m.uid ≠ u) ∧ (kind = kCOPY → t.copies = s.copies) ∧
        (kind = kREMOTE → ∀ r p, s.remote? u = some r → r.reply = none → s.port? r.port = some p →
          t.port? r.port = some { p with allow := p.allow - r.sends } ∧ (r.inFlight = 0 → ∀ x ∈ t.remotes, x.uid ≠ r.uid) ∧
          (r.inFlight ≠ 0 → t.remote? u = some { r with sends := 0, closed := true }))) ∧
    (kind = kWAVE → ∀ w, s.wave? u = some w → w.uid ≠ s.cw.uid →
      (w.joinable = false → ∃ t, exec (.oclose d a) s = .next t ∧ Returns s t d (.ofNat 64 (9 * 2 ^ 32))) ∧
      (w.joinable = true → ∃ t, exec (.oclose d a) s = .next t ∧ Returns s t d 0 ∧ t.wave? u = some { w with joinable := false } ∧
        (w.st = .exited → ∀ e ∈ t.handles, e.kind = kWAVE → e.obj ≠ some u))) ∧
    (kind = kWAVE → u = s.cw.uid → s.wave? u = some s.cw → s.cw.joinable = true → s.cw.st ≠ .exited →
      ∃ t, exec (.oclose d a) s = .next t ∧ t.cw = { s.cw.movedTo (s.cw.pc + 4) with s := t.cw.s, joinable := false } ∧
        (∀ r, t.rs r = if r = d ∧ d ≠ 0 then 0 else s.rs r) ∧ SameMem s t) ∧
    (kind = kCENSUS → ∀ x, s.census? u = some x →
      (s.responders.any fun m => m.census == u && m.handle == (s.rs a).setWidth 32 && !m.ended) = false →
      ∃ t, exec (.oclose d a) s = .next t ∧ Returns s t d 0 ∧ t.census? u = some { x with owner := false })

/-! ## Copies (chapter 11) -/

/-- The descriptor fields of R256, from the four registers of a run. -/
structure CopyFields (ws : List Word) (d : CopyDesc) : Prop where
  src : d.src = (ws.getD 0 0).toNat
  dst : d.dst = (ws.getD 1 0).toNat
  rbytes : d.rbytes = (ws.getD 2 0).toNat % 2 ^ 16 + 1
  rows : d.rows = (ws.getD 2 0).toNat / 2 ^ 16 % 2 ^ 16 + 1
  sstride : d.sstride = if d.rows = 1 then 0 else ((ws.getD 2 0).extractLsb' 32 32).toInt
  fmt : d.fmt = (ws.getD 3 0).toNat % 256
  ety : d.ety = (ws.getD 3 0).toNat / 256 % 16
  red : d.red = (ws.getD 3 0).toNat / 4096 % 16
  bits : d.bmen = (ws.getD 3 0).getLsbD 16 ∧ d.bmclr = (ws.getD 3 0).getLsbD 17 ∧ d.panel = (ws.getD 3 0).getLsbD 18 ∧
    d.rsvd = (ws.getD 3 0).getLsbD 19
  bmoff : d.bmoff = (ws.getD 3 0).toNat / 2 ^ 20 % 2 ^ 20
  dstride : d.dstride = if d.rows = 1 then 0 else 16 * ((ws.getD 3 0).extractLsb' 40 24).toInt

/-- R256: the four registers of a copy descriptor hold the fields of the map, each at its place; with one row (ROWS = 0) both strides
are ignored (log entry 55). -/
def CopyDescriptor : Prop := ∀ ws list, CopyFields ws (copyDesc ws list) ∧ (copyDesc ws list).list = list

/-- R258, R259, R260: which source byte each destination byte comes from. Rows go to rows; a 64-byte panel stores row m's 16-byte
group g at group g XOR (m mod 4); a transpose of two-byte elements puts element (r, c) at (c, r); a gathered row comes from the row
that its index names; a blocked-FP4 panel ends in zeros. -/
def CopyFormats : Prop :=
  ∀ (d : CopyDesc) (idx : Nat → Nat),
    (d.fmt = 0 → d.panel = false → 0 < d.rbytes → ∀ r i, i < d.rbytes →
      d.srcAt idx (r * d.rbytes + i) = some (addrPlus d.src (r * d.sstride + i)) ∧
      d.dstAt (r * d.rbytes + i) = addrPlus d.dst (r * d.dstride + i)) ∧
    (d.fmt = 0 → d.panel = true → ∀ m g j, g < 4 → j < 16 →
      d.srcAt idx (64 * m + 16 * (g ^^^ (m % 4)) + j) = some (addrPlus d.src (m * d.sstride + (16 * g + j : Nat))) ∧
      d.dstAt (64 * m + 16 * (g ^^^ (m % 4)) + j) = addrPlus d.dst (64 * m + 16 * (g ^^^ (m % 4)) + j : Nat)) ∧
    (d.fmt = 3 → d.panel = false → 0 < d.rows → ∀ r c b, r < d.rows → b < 2 →
      d.srcAt idx (c * (2 * d.rows) + 2 * r + b) = some (addrPlus d.src (r * d.sstride + (2 * c + b : Nat))) ∧
      d.dstAt (c * (2 * d.rows) + 2 * r + b) = addrPlus d.dst (c * d.dstride + (2 * r + b : Nat))) ∧
    (d.fmt = 4 → d.panel = false → 0 < d.rbytes → ∀ r i, i < d.rbytes →
      d.srcAt idx (r * d.rbytes + i) = some (addrPlus d.src ((idx r : Nat) * d.sstride + i))) ∧
    (d.fmt = 2 → ∀ n, 10244 ≤ n → d.srcAt idx n = none)

/-- A copy as it is issued: queued, in the open batch of its wave, under the words of its run (R264, R266). -/
structure Issued (s t : State) (job : Job) (words : List Word) (c : Copy) : Prop where
  copies : t.copies = s.copies ++ [c]
  state : c.st = .queued ∧ c.chunks = [] ∧ c.trap = none
  words : c.words = words
  job : c.job = job
  owner : c.wave = s.cw.uid ∧ c.ctx = s.cw.ctx ∧ c.team = s.cw.team ∧ c.core = s.cw.core ∧ c.dev = s.cw.dev ∧ c.batch = s.cw.batch

/-- A copy's issue completes: s[d] takes 0, or with .h the handle of the copy. -/
def Issues (i : Bool → Instr) (s : State) (d : SReg) (job : Job) (words : List Word) : Prop :=
  (∃ t c, exec (i false) s = .next t ∧ Returns s t d 0 ∧ Issued s t job words c) ∧
  (∀ x, s.ctx? s.cw.ctx = some x → s.sliceFull x = false →
    ∃ t c, exec (i true) s = .next t ∧ MakesHandle s t d kCOPY c.uid ∧ Issued s t job words c)

/-- The bytes of the index list of an XGATHER, four for each row (R264). -/
def listBytes (list rows : Nat) : List Nat := (List.range (4 * rows)).map fun i => addrPlus list (i : Nat)

/-- A byte of the list that lies outside context virtual space and the windows of the wave's scratchpads (R264). -/
def listBad (s : State) (a : Nat) : Bool := !copyRange a || !s.insideTeam s.cw a

/-- R257, R262, R264: XCOPY, XSTORE and XGATHER. A descriptor that passes the checks is issued, with room for another copy on the core;
XSTORE is a release of its wave's lane blocks first. An illegal one traps ILLEGAL_OP, else a misaligned field MISALIGN with the address
in HADDR, else an address outside context virtual space and the team's scratchpad PROTECTION. An XGATHER then checks its list: its
alignment, and every byte of it. -/
def CopyIssue : Prop :=
  ∀ (d a b : SReg) (nb : Bool) (s : State) (x : Ctx), s.Calls (b :: runOf a 4) x → a.toNat + 4 ≤ 64 → s.Settled →
    let ws := (runOf a 4).map s.rs
    let list := (s.rs b).toNat
    ∀ e ∈ [((fun h => Instr.xcopy d a nb h), CopyKind.xcopy, none, Job.copy), ((fun h => .xstore d a nb h), .xstore, none, .copy),
        ((fun h => .xgather d a b nb h), .xgather, some list, .gather list)],
      let c := copyDesc ws e.2.2.1
      (c.legal e.2.1 = true → c.misaligned = none → s.copyBadAddr s.cw c = none → s.copiesOn s.cw.dev s.cw.core < 128 →
        (e.2.1 = .xgather → list % 4 = 0 ∧ ∀ x ∈ listBytes list c.rows, listBad s x = false) → Issues e.1 s d e.2.2.2 ws) ∧
      (c.legal e.2.1 = false → ∀ h, exec (e.1 h) s = .next (s.takeTrap { cause := 0x01 })) ∧
      (c.legal e.2.1 = true → ∀ m, c.misaligned = some m →
        ∀ h, exec (e.1 h) s = .next (s.takeTrap { cause := 0x06, addr := .ofNat 64 m })) ∧
      (c.legal e.2.1 = true → c.misaligned = none → ∀ m, s.copyBadAddr s.cw c = some m →
        ∀ h, exec (e.1 h) s = .next (s.takeTrap { cause := 0x11, addr := .ofNat 64 m })) ∧
      (c.legal e.2.1 = true → c.misaligned = none → s.copyBadAddr s.cw c = none → e.2.1 = .xgather → ∀ h,
        (list % 4 ≠ 0 → exec (e.1 h) s = .next (s.takeTrap { cause := 0x06, addr := s.rs b })) ∧
        (list % 4 = 0 → (∃ x ∈ listBytes list c.rows, listBad s x = true) →
          ∃ x ∈ listBytes list c.rows, listBad s x = true ∧ exec (e.1 h) s = .next (s.takeTrap { cause := 0x11, addr := .ofNat 64 x })))

/-- R266, R268: XBATCH closes the open batch and gives its number. XWAITB of a closed batch goes on once every copy of it and of
earlier ones has ended, and gives the number that were cancelled or failed and not reported before; until then it waits, or gives
WOULDBLOCK with .nb. A batch that is not closed gives BADBATCH at once. -/
def BatchWords : Prop :=
  ∀ (d a : SReg) (nb : Bool) (s : State) (c : Ctx), s.Calls [a] c →
    (∃ t, exec (.xbatch d) s = .next t ∧ SameMem s t ∧ (∀ r, t.rs r = if r = d ∧ d ≠ 0 then .ofNat 64 s.cw.batch else s.rs r) ∧
      t.cw = { s.cw.movedTo (s.cw.pc + 4) with s := t.cw.s, batch := s.cw.batch + 1, closed := s.cw.batch } ∧ t.copies = s.copies) ∧
    let n := (s.rs a).toNat
    let done : Prop := (∀ x ∈ s.copies, x.wave = s.cw.uid → x.batch ≤ n → x.st.ended = true)
    (s.cw.closed < n → ∃ t, exec (.xwaitb d a nb) s = .next t ∧ Returns s t d (.ofNat 64 (2 * 2 ^ 32))) ∧
    (n ≤ s.cw.closed → done → ∃ t, exec (.xwaitb d a nb) s = .next t ∧
      Returns s t d (.ofNat 64 (s.copies.filter fun x => x.wave = s.cw.uid ∧ x.batch ≤ n ∧ x.reported = false ∧
        (x.st = .cancelled ∨ x.st = .failed)).length) ∧
      ∀ x ∈ t.copies, x.wave = s.cw.uid → x.batch ≤ n → (x.st = .cancelled ∨ x.st = .failed) → x.reported = true) ∧
    (n ≤ s.cw.closed → ¬ done → ∃ t, exec (.xwaitb d a true) s = .next t ∧ Returns s t d (.ofNat 64 (1 * 2 ^ 32))) ∧
    (n ≤ s.cw.closed → ¬ done → ∃ t, exec (.xwaitb d a false) s = .next t ∧ Waits s t)

/-- R270, R271, R272: XWAITC goes on once the masked bits of the bitmap word are all set, gives the status of a bit that nothing
will set, and else waits; XCANCEL takes a copy that has not started out of its queue and gives 1, or with .batch counts them;
XSTAT gives a copy's state and the chunks it has done, and for a batch 0, or the copies in flight. -/
def CopyCalls : Prop :=
  ∀ (d a b : SReg) (nb : Bool) (s : State) (x : Ctx), s.Calls [a, b] x →
    (∀ t off, s.scratchAt s.cw (s.rs a).toNat = some (t, off) → t.uid = s.cw.team → s.team? t.uid = some t → (s.rs a).toNat % 8 = 0 →
      2 ^ 56 ≤ (s.rs a).toNat → (s.rs a).toNat < 2 ^ 56 + 0x0D000000 →
      (∀ o, .scratchWord t.uid o ∈ s.poison → o + 8 ≤ off ∨ off + 8 ≤ o) →
      let bits := BitVec.ofNat 64 (Memory.readLE t.scratch off 8)
      let owed := s.copies.any fun c => c.team == t.uid && s.setsWord c off
      (bits &&& s.rs b = s.rs b → ∃ u, exec (.xwaitc d a b nb) s = .next u ∧ Returns s u d 0) ∧
      (bits &&& s.rs b ≠ s.rs b → owed = false → ∃ u, exec (.xwaitc d a b nb) s = .next u ∧ Returns s u d (.ofNat 64 (2 * 2 ^ 32))) ∧
      (bits &&& s.rs b ≠ s.rs b → owed = true → ∃ u, exec (.xwaitc d a b true) s = .next u ∧ Returns s u d (.ofNat 64 (1 * 2 ^ 32))) ∧
      (bits &&& s.rs b ≠ s.rs b → owed = true → ∃ u, exec (.xwaitc d a b false) s = .next u ∧ Waits s u)) ∧
    ((s.rs a).toNat % 8 ≠ 0 → exec (.xwaitc d a b nb) s = .next (s.takeTrap { cause := 0x06, addr := s.rs a })) ∧
    (∀ c : Copy, s.Names a [kCOPY] kCOPY c.uid → s.copy? c.uid = some c →
      (c.st = .queued → ∃ t, exec (.xcancel d a false) s = .next t ∧ Returns s t d 1 ∧ t.copy? c.uid = some { c with st := .cancelled }) ∧
      (c.st ≠ .queued → ∃ t, exec (.xcancel d a false) s = .next t ∧ Returns s t d 0 ∧ t.copies = s.copies) ∧
      (∃ t, exec (.xstat d a false) s = .next t ∧ t.copies = s.copies ∧ Returns s t d (.ofNat 64 ((match c.st with
        | .queued => 0
        | .started => 1
        | .done => 2
        | .cancelled => 3
        | .failed => 4
        | .stopped => 5) * 2 ^ 32 + c.chunks.length)))) ∧
    (let n := (s.rs a).toNat;
      (n ≤ s.cw.closed → ∃ t, exec (.xcancel d a true) s = .next t ∧
        Returns s t d (.ofNat 64 (s.copies.filter fun c => c.wave = s.cw.uid ∧ c.batch ≤ n ∧ c.st = .queued).length) ∧
        (∀ c ∈ t.copies, c.wave = s.cw.uid → c.batch ≤ n → c.st ≠ .queued)) ∧
      (n ≤ s.cw.closed → (∀ c ∈ s.copies, c.wave = s.cw.uid → c.batch ≤ n → c.st.ended = true) →
        ∃ t, exec (.xstat d a true) s = .next t ∧ Returns s t d 0) ∧
      (n ≤ s.cw.closed → (∃ c ∈ s.copies, c.wave = s.cw.uid ∧ c.batch ≤ n ∧ c.st.ended = false) →
        ∃ t, exec (.xstat d a true) s = .next t ∧ Returns s t d (.ofNat 64 (2 ^ 32 +
          (s.copies.filter fun c => c.wave = s.cw.uid ∧ c.batch ≤ n ∧ c.st.ended = false).length))) ∧
      (s.cw.closed < n → ∀ i ∈ [Instr.xcancel d a true, .xstat d a true],
        ∃ t, exec i s = .next t ∧ Returns s t d (.ofNat 64 (2 * 2 ^ 32))))

/-! ## Meshes and tensors (chapter 16) -/

/-- R359: MESHDEF of a legal shape whose table lists distinct devices of the domain, the executing one among them: the context has the
mesh, with its rank, sizes and table, and s[d] takes 0. A number or a name in use gives EXISTS, a bad shape or table BADARG, a
reserved bit traps ILLEGAL_OP. -/
def MeshWord : Prop :=
  ∀ (d a : SReg) (s u : State) (c : Ctx) (ids : List Nat), s.Calls (runOf a 3) c → a.toNat + 3 ≤ 64 →
    let x := (s.rs a).toNat
    let rank := x / 16 % 4
    let sizes := (List.range 3).map fun i => x / 2 ^ (8 + 8 * i) % 256 + 1
    let n := sizes.foldl (· * ·) 1
    let name := s.rs (SReg.plus a 2)
    let legal := 1 ≤ rank ∧ (∀ i, rank ≤ i → i < 3 → sizes.getD i 1 = 1) ∧ n ≤ 256 ∧ name ≠ 0
    (x < 2 ^ 32 → x / 64 % 4 = 0 → legal → (readTable (s.rs (SReg.plus a 1)).toNat n).run s = .ok ids u → ∀ c', u.ctx? u.cw.ctx = some c' →
      (u.meshTableOk c' ids = true → (∀ m ∈ c'.meshes, m.num ≠ x % 16) →
        (∀ y ∈ u.ctxs, y.dev = c'.dev → y.uid ≠ c'.uid → ∀ m ∈ y.meshes, m.name ≠ name) →
        ∃ t, exec (.meshdef d a) s = .next t ∧ Returns u t d 0 ∧
          t.ctx? c'.uid = some { c' with meshes := c'.meshes ++ [{ num := x % 16, rank, sizes, table := ids, name }] }) ∧
      (u.meshTableOk c' ids = true →
        ((∃ m ∈ c'.meshes, m.num = x % 16) ∨ ∃ y ∈ u.ctxs, y.dev = c'.dev ∧ y.uid ≠ c'.uid ∧ ∃ m ∈ y.meshes, m.name = name) →
        ∃ t, exec (.meshdef d a) s = .next t ∧ Returns u t d (.ofNat 64 (6 * 2 ^ 32))) ∧
      (u.meshTableOk c' ids = false → ∃ t, exec (.meshdef d a) s = .next t ∧ Returns u t d (.ofNat 64 (9 * 2 ^ 32)))) ∧
    (x < 2 ^ 32 → x / 64 % 4 = 0 → ¬ legal → ∃ t, exec (.meshdef d a) s = .next t ∧ Returns s t d (.ofNat 64 (9 * 2 ^ 32))) ∧
    ((2 ^ 32 ≤ x ∨ x / 64 % 4 ≠ 0) → exec (.meshdef d a) s = .next (s.takeTrap { cause := 0x01 }))

/-- R361, R363, R372: TDECL makes an unsealed tensor of generation 0 with the words of its run; a used TID gives EXISTS, an absent
mesh NOTFOUND, a bad descriptor BADARG and a reserved bit traps. TDECL.drop frees one that is neither sealed nor converting. TINFO gives a
word of the descriptor, and in word 2 the generation with SEALED at bit 32 and CONV at bit 33. -/
def TensorWords : Prop :=
  ∀ (d a b : SReg) (nb : Bool) (s : State) (c : Ctx),
    (s.Calls (runOf a 8) c → a.toNat + 8 ≤ 64 →
      let ws := (runOf a 8).map s.rs
      (declReserved ws = true → exec (.tdecl d a nb) s = .next (s.takeTrap { cause := 0x01 })) ∧
      (declReserved ws = false → s.meshOf c.uid ws = none →
        ∃ t, exec (.tdecl d a nb) s = .next t ∧ Returns s t d (.ofNat 64 (7 * 2 ^ 32))) ∧
      ∀ m, s.meshOf c.uid ws = some m → declReserved ws = false →
        (declBad m ws = true → ∃ t, exec (.tdecl d a nb) s = .next t ∧ Returns s t d (.ofNat 64 (9 * 2 ^ 32))) ∧
        (declBad m ws = false → (s.tensorOf c.uid ((s.rs a).toNat % 2 ^ 32)).isSome = true →
          ∃ t, exec (.tdecl d a nb) s = .next t ∧ Returns s t d (.ofNat 64 (6 * 2 ^ 32))) ∧
        (declBad m ws = false → s.tensorOf c.uid ((s.rs a).toNat % 2 ^ 32) = none →
          (s.tensors.filter fun t => t.ctx == c.uid).length < 4096 → s.sliceFull c = false →
          ∃ t x, exec (.tdecl d a nb) s = .next t ∧ MakesHandle s t d kTENSOR x.uid ∧ t.tensors = s.tensors ++ [x] ∧
            x.ctx = c.uid ∧ x.words = ws ∧ x.gen = 0 ∧ x.sealed = false ∧ x.locked = [])) ∧
    (∀ x : Tensor, s.Names a [kTENSOR] kTENSOR x.uid → s.tensor? x.uid = some x →
      (s.Calls [a] c →
        ((x.sealed = true ∨ s.converting x = true) →
          ∃ t, exec (.tdeclDrop d a nb) s = .next t ∧ Returns s t d (.ofNat 64 (9 * 2 ^ 32))) ∧
        (x.sealed = false → s.converting x = false → (∀ y ∈ s.copies, y.tensor = x.uid → y.st.ended = true) →
          ∃ t, exec (.tdeclDrop d a nb) s = .next t ∧ Returns s t d 0 ∧ (∀ y ∈ t.tensors, y.uid ≠ x.uid) ∧
            ∀ e ∈ t.handles, e.kind = kTENSOR → e.obj ≠ some x.uid)) ∧
      (s.Calls [a, b] c → ∃ t, exec (.tinfo d a b) s = .next t ∧ t.tensors = s.tensors ∧
        Returns s t d (if (s.rs b).toNat % 8 = 2 then .ofNat 64 (x.gen + (if x.sealed then 2 ^ 32 else 0) +
          (if s.converting x then 2 ^ 33 else 0)) else x.words.getD ((s.rs b).toNat % 8) 0)))

/-- The conditions of R366 on a TLOAD or TSTORE with the demanded states `dem`, in the order in which they are checked. -/
structure TileTraps (s : State) (x : Tensor) (m : Mesh) (ws : List Word) (load : Bool) (dem : Nat) : Prop where
  states : load = true → ∀ i < 3, stLegal (stateByte dem i) = true ∧ stBadOp (stateByte dem i) = false ∧ (m.rank ≤ i → stateByte dem i = 0)
  aligned : (ws.getD 5 0).toNat % 16 = 0
  inside : s.ownScratch (ws.getD 5 0).toNat (tileBytes ws (tensorEb x.words)) = true
  bitmap : (ws.getD 6 0).getLsbD 20 = true →
    ∀ o ∈ bitmapWords ((ws.getD 6 0).toNat % 2 ^ 20) (tileBytes ws (tensorEb x.words)), s.bitmapOk s.cw o = true

/-- R366, R371: TLOAD, TSTORE and TCONV issue a copy on the tensor once their checks pass; a TSTORE that names another generation, or a
sealed tensor, traps PLACEMENT_LOCKED; a box outside the demanded shard, or states that clash, give BADARG; a TCONV locks the old
and the new shard range. -/
def TransferIssue : Prop :=
  ∀ (d a : SReg) (nb : Bool) (s : State) (c : Ctx) (x : Tensor) (m : Mesh), s.Settled → s.copiesOn s.cw.dev s.cw.core < 128 →
    s.Names a [kTENSOR] kTENSOR x.uid → s.tensor? x.uid = some x → s.meshOf x.ctx x.words = some m →
    let cur := wordField x.words 1 0 24
    let rank := tensorRank x.words
    (s.Calls (runOf a 7) c → a.toNat + 7 ≤ 64 →
      let ws := (runOf a 7).map s.rs
      (∀ load, tileReserved ws load = true → ∀ h,
        exec (if load then .tload d a nb h else .tstore d a nb h) s = .next (s.takeTrap { cause := 0x01 })) ∧
      (∀ load dem, dem = (if load then wordField ws 4 0 24 else cur) → tileReserved ws load = false → TileTraps s x m ws load dem →
        let fits := boxFits ws rank (localDims m dem (tensorDims x.words)) = true ∧
          (load = true → badStates m dem rank (tensorDims x.words) = false) ∧ demandClash m cur dem = false
        let named := wordField ws 4 32 32 = x.gen ∧ x.sealed = false
        (fits → (load = false → named) → Issues (fun h => if load then .tload d a nb h else .tstore d a nb h) s d
          (if load then .tload else .tstore) ws) ∧
        (¬ fits → ∀ h, ∃ t, exec (if load then .tload d a nb h else .tstore d a nb h) s = .next t ∧
          Returns s t d (.ofNat 64 (9 * 2 ^ 32))) ∧
        (fits → load = false → ¬ named → ∀ h, exec (.tstore d a nb h) s = .next (s.takeTrap { cause := 0x13 })))) ∧
    (s.Calls (runOf a 5) c → a.toNat + 5 ≤ 64 →
      let ws := (runOf a 5).map s.rs
      let new := convWords x.words ws
      let old := shardRange m x.words
      let range := shardRange m new
      let ok := x.sealed = true ∧ s.converting x = false ∧ badStates m (wordField new 1 0 24) rank (tensorDims new) = false ∧
        wordField new 5 0 4 = 0 ∧ (old.2 ≤ range.1 ∨ range.2 ≤ old.1)
      (convReserved ws = true → ∀ h, exec (.tconv d a nb h) s = .next (s.takeTrap { cause := 0x01 })) ∧
      (convReserved ws = false → ok → Issues (fun h => .tconv d a nb h) s d .tconv ws ∧
        ∀ t, exec (.tconv d a nb false) s = .next t → t.tensor? x.uid = some { x with locked := [old, range], issued := some x.gen }) ∧
      (convReserved ws = false → ¬ ok → ∀ h, ∃ t, exec (.tconv d a nb h) s = .next t ∧ Returns s t d (.ofNat 64 (9 * 2 ^ 32))))

/-- R370: TSEAL of the current generation seals the tensor and locks its shard, once its transfers of TSTORE have ended; TSEAL.open
opens it unless a TCONV has been issued for the generation; another generation gives its status and changes nothing. -/
def SealWords : Prop :=
  ∀ (d a b : SReg) (s : State) (c : Ctx) (x : Tensor) (m : Mesh), s.Calls [a, b] c → s.Names a [kTENSOR] kTENSOR x.uid →
    s.tensor? x.uid = some x → s.meshOf x.ctx x.words = some m →
    ((s.rs b).toNat ≠ x.gen → ∀ i ∈ [Instr.tseal d a b, .tsealOpen d a b],
      ∃ t, exec i s = .next t ∧ Returns s t d (.ofNat 64 (15 * 2 ^ 32)) ∧ t.tensors = s.tensors) ∧
    ((s.rs b).toNat = x.gen →
      (x.sealed = false → s.Settled → (∀ y ∈ s.copies, y.tensor = x.uid → y.job = .tstore → y.st.ended = true) →
        ∃ t, exec (.tseal d a b) s = .next t ∧ Returns s t d 0 ∧
          t.tensor? x.uid = some { x with sealed := true, locked := [shardRange m x.words] }) ∧
      (x.sealed = true → ∃ t, exec (.tseal d a b) s = .next t ∧ Returns s t d 0 ∧ t.tensors = s.tensors) ∧
      (x.issued ≠ some x.gen → ∃ t, exec (.tsealOpen d a b) s = .next t ∧ Returns s t d 0 ∧
        t.tensor? x.uid = some { x with sealed := false, locked := [] }) ∧
      (x.issued = some x.gen → ∃ t, exec (.tsealOpen d a b) s = .next t ∧ Returns s t d (.ofNat 64 (9 * 2 ^ 32)) ∧ t.tensors = s.tensors))

/-! ## Barriers and regions (chapters 14 and 15) -/

/-- A barrier whose phase has completed: idle, the phase one up, an unpinned mask cleared (R326). -/
def barDone (b : Bar) : Bar :=
  { b with collecting := false, phase := b.phase + 1, mask := if b.pinned then b.mask else 0, members := [], arrived := [] }

/-- R325 to R328, R331, R332: BARW, BARC and BARN. The arrival that leaves no live member out completes the phase: its number is in
s[d] and the barrier is idle in the next phase. An arrival that others must follow is recorded and waits. A wave whose recorded
phase has completed goes on with it. A phase's members are fixed at its first arrival. -/
def BarrierArrival : Prop :=
  ∀ (d a b : SReg) (s : State) (c : Ctx) (team : Team), s.Calls [a, b] c → s.team? s.cw.team = some team → team.named.length = 16 →
    s.cw.eng.queue = [] → s.cw.uid ≠ 0 → s.cw.st.onCore = true →
    ∀ e ∈ [(Instr.barw d, 0, (0 : BitVec 16)), (.barc d, s.barId 1, 0), (.barn d a b, 2 + (s.rs a).toNat, (s.rs b).setWidth 16)],
      let n := e.2.1
      let bar := s.barAt n
      (e.1 = .barn d a b → (s.rs a).toNat ≤ 15 ∧ (s.rs b).toNat < 2 ^ 16 ∧ (s.rs b).getLsbD s.cw.index = true ∧
        (bar.collecting = true ∨ bar.pinned = true → bar.mask = e.2.2)) →
      let go := fun (t : State) (p : BitVec 32) => SameMem s t ∧ (∀ r, t.rs r = if r = d ∧ d ≠ 0 then p.setWidth 64 else s.rs r) ∧
        t.cw = { s.cw.movedTo (s.cw.pc + 4) with s := t.cw.s, arrivals := t.cw.arrivals } ∧ t.cw.arrivalAt n = none
      (s.cw.arrivalAt n = none → bar.next = [] →
        (bar.collecting = true → s.cw.uid ∈ bar.members → (∀ m ∈ bar.members, m = s.cw.uid ∨ m ∈ bar.arrived ∨ s.ended m = true) →
          ∃ t, exec e.1 s = .next t ∧ go t bar.phase ∧ t.barAt n = barDone bar) ∧
        (bar.collecting = false → (∀ m ∈ s.barMembers n e.2.2, m = s.cw.uid ∨ s.ended m = true) →
          ∃ t, exec e.1 s = .next t ∧ go t bar.phase ∧ t.barAt n = barDone bar) ∧
        (bar.collecting = false → (∃ m ∈ s.barMembers n e.2.2, m ≠ s.cw.uid ∧ s.ended m = false) →
          ∃ t, exec e.1 s = .next t ∧ Waits s t ∧ t.cw.arrivalAt n = some { bar := n, phase := bar.phase } ∧
            t.barAt n = { bar with collecting := true, mask := if bar.pinned then bar.mask else e.2.2,
                                   members := s.barMembers n e.2.2, arrived := [s.cw.uid] })) ∧
      (∀ x, s.cw.arrivalAt n = some x →
        (bar.past x.phase = true → ∃ t, exec e.1 s = .next t ∧ go t x.phase ∧
          t.teams.map (fun y => { y with unfenced := [] }) = s.teams.map (fun y => { y with unfenced := [] }) ∧
          ((∀ y ∈ s.teams, y.unfenced = []) → t.teams = s.teams)) ∧
        (bar.past x.phase = false → ∃ t, exec e.1 s = .next t ∧ Waits s t ∧ t.teams = s.teams))

/-- R331, R333: what BARN refuses, with HINFO 4 for a number above 15, 3 for a mask above 16 bits, 2 for a mask without the wave and 1
for a mask that differs from the barrier's; the wave has not arrived. BARINIT sets a barrier's mask and pins it, unpins it with 0,
and gives BUSY while it collects. -/
def NamedBarriers : Prop :=
  ∀ (d a b : SReg) (s : State) (c : Ctx) (team : Team), s.Calls [a, b] c → s.team? s.cw.team = some team → team.named.length = 16 →
    let id := (s.rs a).toNat
    let mask := (s.rs b).toNat
    let bar := s.barAt (2 + id)
    let mismatch := fun (k : Word) => exec (.barn d a b) s = .next (s.takeTrap { cause := 0x52, info := k })
    (15 < id → mismatch 4) ∧ (id ≤ 15 → 2 ^ 16 ≤ mask → mismatch 3) ∧
    (id ≤ 15 → mask < 2 ^ 16 → (s.rs b).getLsbD s.cw.index = false → mismatch 2) ∧
    (id ≤ 15 → mask < 2 ^ 16 → (s.rs b).getLsbD s.cw.index = true → s.cw.eng.queue = [] → s.cw.arrivalAt (2 + id) = none →
      (bar.collecting = true ∨ bar.pinned = true) → bar.mask ≠ (s.rs b).setWidth 16 → mismatch 1) ∧
    ((15 < id ∨ 2 ^ 16 ≤ mask) → ∃ t, exec (.barinit d a b) s = .next t ∧ Returns s t d (.ofNat 64 (9 * 2 ^ 32))) ∧
    (id ≤ 15 → mask < 2 ^ 16 → bar.collecting = true →
      ∃ t, exec (.barinit d a b) s = .next t ∧ Returns s t d (.ofNat 64 (1 * 2 ^ 32))) ∧
    (id ≤ 15 → mask < 2 ^ 16 → bar.collecting = false →
      ∃ t, exec (.barinit d a b) s = .next t ∧ SameMem s t ∧ (∀ r, t.rs r = if r = d ∧ d ≠ 0 then 0 else s.rs r) ∧
        t.cw = { s.cw.movedTo (s.cw.pc + 4) with s := t.cw.s } ∧
        t.barAt (2 + id) = { bar with mask := (s.rs b).setWidth 16, pinned := decide (mask ≠ 0) })

/-- R350, R351: SST in an open region. The bytes go into the region's buffer, the newest for an address in place of an older one; no byte of
memory or of a scratchpad changes and no write-combining entry is made. With a 65th line of 128 bytes the word traps REGION_OVERFLOW with
the address in HADDR. -/
def RegionStore : Prop :=
  ∀ (d a : SReg) (size : BitVec 3) (off : BitVec 11) (s u : State) (r : Region) (l : Loc), s.cw.region = some r → s.Clean [d] →
    let w := 2 ^ (size.toNat % 4)
    let addr := s.rs a + off.signExtend 64 * .ofNat 64 w
    let buf := bufferBytes r.buf addr.toNat (leBytes (s.rs d).toNat w)
    size.toNat < 4 → addr.toNat % w = 0 → s.Reaches .store addr w l u → (∀ p page, l = .phys p page → u.Uncounted page) →
      ((regionLines buf).length ≤ 64 → ∃ t, exec (.sst d a size off) s = .next t ∧ SameMem u t ∧ t.teams = s.teams ∧ t.wcb = s.wcb ∧
        t.cw = { s.cw.movedTo (s.cw.pc + 4) with region := some { r with buf } } ∧
        ∀ x, (buf.find? fun c => c.1 == x).map (·.2) =
          if addr.toNat ≤ x ∧ x < addr.toNat + w then some (BitVec.ofNat 8 ((s.rs d).toNat / 256 ^ (x - addr.toNat)))
          else (r.buf.find? fun c => c.1 == x).map (·.2)) ∧
      (64 < (regionLines buf).length → exec (.sst d a size off) s = .next (s.takeTrap { cause := 0x15, addr }))

/-- R350, R351, R352: IRB opens a region at its own address, with an empty buffer, and gives the count of replays; stores in the
region change no byte of memory but its buffer; IRC writes the buffered bytes, each to its place, and closes the region with the
count back at 0. Both trap REGION_ILLEGAL where they do not belong. -/
def Regions : Prop :=
  ∀ (d : SReg) (s : State), s.cw.eng.queue = [] →
    (s.cw.level = .ordinary → s.cw.region = none →
      ∃ t, exec (.irb d) s = .next t ∧ SameMem s t ∧ (∀ r, t.rs r = if r = d ∧ d ≠ 0 then .ofNat 64 s.cw.replays else s.rs r) ∧
        t.cw = { s.cw.movedTo (s.cw.pc + 4) with s := t.cw.s, region := some { irb := s.cw.pc, buf := [] } }) ∧
    ((s.cw.level = .handler ∨ s.cw.region.isSome = true) → exec (.irb d) s = .next (s.takeTrap { cause := 0x14 })) ∧
    (s.cw.region = none → exec .irc s = .next (s.takeTrap { cause := 0x14 })) ∧
    (∀ (r : Region) (checked : List (Nat × Resolved)) (u : State), s.cw.region = some r →
      ((regionLines r.buf).mapM checkLine).run s = .ok checked u → (∀ x ∈ checked, x.2 ≠ .blocked) →
      ∃ t, exec .irc s = .next t ∧ (∀ h ∈ t.holds, h.wave ≠ s.cw.uid) ∧
        t.cw = { u.cw.movedTo (u.cw.pc + 4) with region := none, replays := 0, pending := t.cw.pending, seq := t.cw.seq } ∧
        (u.wcb = [] → (∀ x ∈ checked, ∀ p page, x.2 = .ok (.phys p page) → isPeer (u.whoOf u.cw).dev p = false) →
          t.cw.pending = u.cw.pending ∧ t.wcb = [])) ∧
    (∀ (r : Region) (line first p page : Nat) (u : State), s.cw.region = some r → regionLines r.buf = [line] →
      (checkLine line).run s = .ok (first, .ok (.phys p page)) u → isPeer (u.whoOf u.cw).dev p = false →
      u.MemWf → (r.buf.map (·.1)).Nodup →
      ∃ t, exec .irc s = .next t ∧
        (∀ x ∈ r.buf, Memory.read t.mem (p / 128 * 128 + x.1 % 128) = x.2) ∧
        ∀ y, (∀ x ∈ r.buf, y ≠ p / 128 * 128 + x.1 % 128) → Memory.read t.mem y = Memory.read u.mem y)

/-! ## The tile directory and the census (chapter 16) -/

/-- R373, R375, R376: TREG enters a tile at the wave's core under the key, address and size of its run; a size of 0 gives BADARG, a
full directory DIRFULL. TDROP of an entry without a responder frees it; one whose responder runs waits. TMOVE installs the move to
another core of the partition and waits for its commit, after which it gives 0, whatever has become of the entry; an entry that stands
there already gives 0. -/
def TileWords : Prop :=
  ∀ (d a b : SReg) (nb : Bool) (s : State) (c : Ctx),
    (s.Calls (runOf a 3) c → a.toNat + 3 ≤ 64 →
      let addr := s.rs (SReg.plus a 1)
      let size := (s.rs (SReg.plus a 2)).toNat
      (2 ^ 32 ≤ size → exec (.treg d a nb) s = .next (s.takeTrap { cause := 0x01 })) ∧
      (size < 2 ^ 32 → 2 ^ 56 ≤ addr.toNat → exec (.treg d a nb) s = .next (s.takeTrap { cause := 0x11, addr })) ∧
      (size = 0 → addr.toNat < 2 ^ 56 → ∃ t, exec (.treg d a nb) s = .next t ∧ Returns s t d (.ofNat 64 (9 * 2 ^ 32))) ∧
      (0 < size → size < 2 ^ 32 → addr.toNat < 2 ^ 56 →
        (256 ≤ s.dirUsed s.cw.dev s.cw.core → ∃ t, exec (.treg d a nb) s = .next t ∧ Returns s t d (.ofNat 64 (12 * 2 ^ 32))) ∧
        (s.dirUsed s.cw.dev s.cw.core < 256 → s.sliceFull c = false →
          ∃ t x, exec (.treg d a nb) s = .next t ∧ MakesHandle s t d kTILE x.uid ∧ t.tiles = s.tiles ++ [x] ∧ x.key = s.rs a ∧
            x.addr = addr ∧ x.size = size ∧ x.core = s.cw.core ∧ x.dev = s.cw.dev ∧ x.ctx = s.cw.ctx ∧ x.kernel = s.cw.kernel ∧
            x.st = .active ∧ x.list = []))) ∧
    (∀ x : TileEnt, s.Names a [kTILE] kTILE x.uid → s.tile? x.uid = some x →
      (s.Calls [a] c → (∀ r, s.cw.wait = some r → r.kind = .drop → r.obj = x.uid) → x.st ≠ .moving →
        (s.entryBusy x.uid = false → ∃ t, exec (.tdrop d a) s = .next t ∧ Returns s t d 0 ∧ (∀ y ∈ t.tiles, y.uid ≠ x.uid) ∧
          ∀ e ∈ t.handles, e.kind = kTILE → e.obj ≠ some x.uid) ∧
        (s.entryBusy x.uid = true → ∃ t, exec (.tdrop d a) s = .next t ∧ t.tile? x.uid = some { x with st := .dropping } ∧
          t.cw.pc = s.cw.pc ∧ t.cw.wait.isSome = true ∧ t.cw.s = s.cw.s ∧ SameMem s t)) ∧
      (s.Calls (a :: runOf b 2) c → b.toNat + 2 ≤ 64 → (∀ r, s.cw.wait = some r → r.kind ≠ .move ∧ r.kind ≠ .moved) →
        let core := (s.rs b).toNat
        let legal := core < 512 ∧ maskHas (s.partMask c.dev c.part) core = true
        (¬ legal → ∃ t, exec (.tmove d a b nb) s = .next t ∧ Returns s t d (.ofNat 64 (9 * 2 ^ 32))) ∧
        (legal → core = x.core → ∃ t, exec (.tmove d a b nb) s = .next t ∧ Returns s t d 0 ∧ t.tiles = s.tiles) ∧
        (legal → core ≠ x.core → x.st = .active → s.entryBusy x.uid = false → s.dirUsed x.dev core < 256 →
          ∃ t before, exec (.tmove d a b nb) s = .next t ∧ t.cw.pc = s.cw.pc ∧ t.cw.wait.isSome = true ∧ t.cw.s = s.cw.s ∧ SameMem s t ∧
            t.tile? x.uid = some { x with
              st := .moving, dest := some (core, if s.rs (SReg.plus b 1) = 0 then x.addr else s.rs (SReg.plus b 1), before, []) }) ∧
        (legal → core ≠ x.core → x.st = .active → s.entryBusy x.uid = false → 256 ≤ s.dirUsed x.dev core →
          ∃ t, exec (.tmove d a b true) s = .next t ∧ Returns s t d (.ofNat 64 (12 * 2 ^ 32))))) ∧
    (s.Calls [] c → b.toNat + 2 ≤ 64 → ∀ r, s.cw.wait = some r →
      (r.kind = .moved → ∃ t, exec (.tmove d a b nb) s = .next t ∧ Returns s t d 0 ∧ t.tiles = s.tiles) ∧
      (r.kind = .move → ∃ t, exec (.tmove d a b nb) s = .next t ∧ t.cw.pc = s.cw.pc ∧ t.cw.wait.isSome = true ∧ t.cw.s = s.cw.s ∧
        t.tiles = s.tiles ∧ SameMem s t))

/-- R378: SOLICIT of device scope starts a census with the key, mask, responder, combine and result address of its run; one of mesh
scope reaches the devices that its axes name. Reserved fields trap ILLEGAL_OP, a misaligned result MISALIGN, and one outside the
context virtual space PROTECTION. -/
def SolicitWord : Prop :=
  ∀ (d a : SReg) (nb : Bool) (s : State) (c : Ctx), s.Calls (runOf a 4) c → a.toNat + 4 ≤ 64 →
    let x := (s.rs (SReg.plus a 2)).toNat
    let res := s.rs (SReg.plus a 3)
    let mesh := x / 2 ^ 16 % 2 = 1
    let axes := x / 2 ^ 17 % 8
    let legal := x < 2 ^ 24 ∧ x / 2 ^ 12 % 16 = 0 ∧ (mesh ∨ axes = 0) ∧ x % 16 ≤ 10
    (¬ legal → exec (.solicit d a nb) s = .next (s.takeTrap { cause := 0x01 })) ∧
    (legal → res.toNat % 16 ≠ 0 → exec (.solicit d a nb) s = .next (s.takeTrap { cause := 0x06, addr := res })) ∧
    (legal → res.toNat % 16 = 0 → 2 ^ 56 ≤ res.toNat → exec (.solicit d a nb) s = .next (s.takeTrap { cause := 0x11, addr := res })) ∧
    (legal → res.toNat % 16 = 0 → res.toNat < 2 ^ 56 → s.sliceFull c = false → s.Settled →
      (s.censuses.filter fun y => y.ctx == c.uid && y.st == .collecting).length < 256 →
      let starts := fun (targets : List Nat) => ∃ t y, exec (.solicit d a nb) s = .next t ∧ MakesHandle s t d kCENSUS y.uid ∧
        t.censuses = s.censuses ++ [y] ∧ y.key = s.rs a ∧ y.mask = s.rs (SReg.plus a 1) ∧ y.comb = x % 16 ∧ y.resp = x / 16 % 256 ∧
        y.result = res ∧ y.targets = targets ∧ y.st = .collecting ∧ y.replies = 0 ∧ y.matched = 0 ∧ y.reached = [] ∧ y.owner = true
      (¬ mesh → starts [c.dev]) ∧
      (mesh → ∀ m, c.meshes.find? (fun y => y.num == x / 2 ^ 20 % 16) = some m →
        (axes ≠ 0 → axes / 2 ^ m.rank = 0 → starts (meshTargets m c.dev axes)) ∧
        ((axes = 0 ∨ axes / 2 ^ m.rank ≠ 0) →
          ∃ t, exec (.solicit d a nb) s = .next t ∧ Returns s t d (.ofNat 64 (9 * 2 ^ 32)))))

/-- R380, R381, R385: REPLY of a responder adds its value, taken as the combine takes it, to a census that still collects, and ends the
wave; of any other wave it traps PROTECTION. CWAIT of a census that has ended gives its status with its replies, an aborted one
trapping CENSUS_ABORT without .st; of one that collects it waits, or gives 1 with .nb. -/
def ReplyAndWait : Prop :=
  ∀ (d a : SReg) (st : Bool) (s : State) (c : Ctx), s.Calls [a] c →
    (s.cw.responder = none → exec (.reply a) s = .next (s.takeTrap { cause := 0x11 })) ∧
    (∀ (m : Match) (y : Census), s.cw.responder = some m.uid → s.responders.find? (fun z => z.uid == m.uid) = some m →
      s.census? m.census = some y → s.Settled → s.cw.dueTrap = none → (∀ z ∈ s.copies, z.wave = s.cw.uid → z.st.ended = true) → s.cw.uid ≠ 0 →
      s.cw.st.onCore = true →
      ∃ t, exec (.reply a) s = .next t ∧ t.cw.st = .exited ∧ t.cw.cause = 0 ∧ SameMem s t ∧
        t.census? m.census = some (if y.st = .collecting ∧ y.abort = false then
          { y with replies := y.replies + 1, values := y.values ++ [if y.comb = 9 then (if s.rs a = 0 then 0 else 1)
            else if y.comb ∈ [1, 4, 7] then .ofNat 64 ((s.rs a).toNat % 2 ^ 32) else s.rs a] } else y)) ∧
    (∀ y : Census, s.Names a [kCENSUS] kCENSUS y.uid → s.census? y.uid = some y →
      (∀ r, s.cw.wait = some r → r.kind = .census → r.obj = y.uid) →
      (y.st = .complete → ∃ t, exec (.cwait d a st false) s = .next t ∧
        Returns s t d (.ofNat 64 ((if y.writeFault then 14 else if y.abort then 13 else 0) * 2 ^ 32 + y.replies))) ∧
      (y.st = .aborted → ∃ t, exec (.cwait d a true false) s = .next t ∧
        Returns s t d (.ofNat 64 ((if y.writeFault then 14 else if y.abort then 13 else 0) * 2 ^ 32 + y.replies))) ∧
      (y.st = .aborted → exec (.cwait d a false false) s =
        .next (s.takeTrap { cause := 0x60, info := ((s.rs a).setWidth 32).setWidth 64 })) ∧
      (y.st = .collecting → ∃ t, exec (.cwait d a st true) s = .next t ∧ Returns s t d (.ofNat 64 (1 * 2 ^ 32))) ∧
      (y.st = .collecting → ∃ t, exec (.cwait d a st false) s = .next t ∧ Waits s t))

/-! ## Integer lanes (chapter 08) -/

/-- The integer types of R78: code, bits, whether signed. -/
def intTypes : List (Nat × Nat × Bool) :=
  [(0x0, 64, true), (0x1, 32, true), (0x2, 16, true), (0x3, 8, true), (0x4, 32, false), (0x5, 16, false), (0x6, 8, false), (0xE, 64, false)]

/-- The number that a sub-element stands for. -/
def numberOf (w : Nat) (sgn : Bool) (x : Nat) : Int := if sgn then (BitVec.ofNat w x).toInt else x

/-- An exact integer as a sub-element: modulo 2^w, or under .sat the nearest number of the type (R43, R54). -/
def fitted (w : Nat) (sgn sat : Bool) (x : Int) : Nat :=
  let lo : Int := if sgn then -(2 ^ (w - 1)) else 0
  let hi : Int := if sgn then 2 ^ (w - 1) - 1 else 2 ^ w - 1
  let y := if sat then (if hi < x then hi else if x < lo then lo else x) else x
  (y % 2 ^ w).toNat

/-- The exact result of each integer operation of R186 on A, B and C, at a width. -/
def integerOps : List ((LaneOp → Instr) × LaneCode × (Nat → Int → Int → Int → Int)) :=
  [(.vadd, .vadd, fun _ x y _ => x + y), (.vsub, .vsub, fun _ x y _ => x - y), (.vmul, .vmul, fun _ x y _ => x * y),
   (.vmulh, .vmulh, fun w x y _ => x * y / 2 ^ w), (.vmad, .vmad, fun _ x y z => x * y + z),
   (.vabs, .vabs, fun _ x _ _ => if x < 0 then -x else x), (.vneg, .vneg, fun _ x _ _ => -x),
   (.vmin, .vmin, fun _ x y _ => if x ≤ y then x else y), (.vmax, .vmax, fun _ x y _ => if x ≤ y then y else x),
   (.vavg, .vavg, fun _ x y _ => (x + y + 1) / 2)]

/-- R186, R43, R54: the integer operations. Each sub-element of each lane of the mask takes the exact result on those of A, B and C,
wrapped, or clamped under .sat; no flag is raised, and no other lane, register or byte changes. -/
def IntegerLanes : Prop :=
  ∀ e ∈ integerOps, ∀ ty ∈ intTypes, ∀ (o : LaneOp) (s : State), o.ty.toNat = ty.1 → LaneReady e.2.1 o s →
    ∃ t val, exec (e.1 o) s = .next t ∧ WritesLanes s t o.d (s.opMask o) val 0 ∧
      ∀ l < 32, ∀ i < 64 / ty.2.1, elemOf ty.2.1 (val l) i =
        let x := numberOf ty.2.1 ty.2.2 (elemOf ty.2.1 (s.opA o l) i)
        let y := numberOf ty.2.1 ty.2.2 (elemOf ty.2.1 (s.opB o l) i)
        let z := numberOf ty.2.1 ty.2.2 (elemOf ty.2.1 (s.opC o l) i)
        fitted ty.2.1 ty.2.2 (LaneSat o) (e.2.2 ty.2.1 x y z)

/-- R187: VSAD adds the sum of absolute differences of A and B to C, modulo 2^64; VDOT4 adds a sum of four products of bytes to each
32-bit half of C, wrapped or clamped. -/
def IntegerSums : Prop :=
  ∀ ty ∈ intTypes, ∀ (o : LaneOp) (s : State), o.ty.toNat = ty.1 →
    let num := fun (x : Word) i => numberOf ty.2.1 ty.2.2 (elemOf ty.2.1 x i)
    (LaneReady .vsad o s → ∃ t, exec (.vsad o) s = .next t ∧ WritesLanes s t o.d (s.opMask o) (fun l =>
      .ofNat 64 ((s.opC o l).toNat + ((List.range (64 / ty.2.1)).map fun i => (num (s.opA o l) i - num (s.opB o l) i).natAbs).sum)) 0) ∧
    (LaneReady .vdot4 o s → ∃ t val, exec (.vdot4 o) s = .next t ∧ WritesLanes s t o.d (s.opMask o) val 0 ∧
      ∀ l < 32, ∀ h < 2, elemOf 32 (val l) h = fitted 32 ty.2.2 (LaneSat o) (numberOf 32 ty.2.2 (elemOf 32 (s.opC o l) h) +
        ((List.range 4).map fun i => num (s.opA o l) (4 * h + i) * num (s.opB o l) (4 * h + i)).sum))

/-- The bitwise operations and moves: the 64-bit value of a lane from A, B and C (R188, R190). -/
def bitwiseOps : List ((LaneOp → Instr) × LaneCode × (Word → Word → Word → Word)) :=
  [(.vand, .vand, fun x y _ => x &&& y), (.vor, .vor, fun x y _ => x ||| y), (.vxor, .vxor, fun x y _ => x ^^^ y),
   (.vandn, .vandn, fun x y _ => x &&& ~~~y), (.vnot, .vnot, fun x _ _ => ~~~x),
   (.vsel, .vsel, fun x y z => (x &&& z) ||| (y &&& ~~~z)), (.vmov, .vmov, fun x _ _ => x)]

/-- The operations on the bits of sub-elements, at a width (R188): shifts by the amount modulo the width. -/
def shiftOps : List ((LaneOp → Instr) × LaneCode × (Nat → Nat → Nat → Nat)) :=
  [(.vshl, .vshl, fun w x y => (BitVec.ofNat w x <<< (y % w)).toNat), (.vshr, .vshr, fun w x y => (BitVec.ofNat w x >>> (y % w)).toNat),
   (.vsra, .vsra, fun w x y => ((BitVec.ofNat w x).sshiftRight (y % w)).toNat),
   (.vrol, .vrol, fun w x y => ((BitVec.ofNat w x).rotateLeft (y % w)).toNat),
   (.vclz, .vclz, fun w x _ => w - bitLen x), (.vpopc, .vpopc, fun w x _ => ((List.range w).filter fun i => x / 2 ^ i % 2 = 1).length)]

/-- R188, R189, R190: logic, shifts, counts, bit fields, selects and moves. -/
def BitLanes : Prop :=
  (∀ e ∈ bitwiseOps, ∀ (o : LaneOp) (s : State), LaneReady e.2.1 o s → ∃ t, exec (e.1 o) s = .next t ∧
    WritesLanes s t o.d (s.opMask o) (fun l => e.2.2 (s.opA o l) (s.opB o l) (s.opC o l)) 0) ∧
  (∀ e ∈ shiftOps, ∀ ty ∈ intTypes, ∀ (o : LaneOp) (s : State), o.ty.toNat = ty.1 → LaneReady e.2.1 o s →
    ∃ t val, exec (e.1 o) s = .next t ∧ WritesLanes s t o.d (s.opMask o) val 0 ∧
      ∀ l < 32, ∀ i < 64 / ty.2.1, elemOf ty.2.1 (val l) i =
        e.2.2 ty.2.1 (elemOf ty.2.1 (s.opA o l) i) (elemOf ty.2.1 (s.opB o l) i)) ∧
  (∀ ty ∈ intTypes, ∀ (o : LaneOp) (s : State), o.ty.toNat = ty.1 →
    let w := ty.2.1
    let p := o.imm.toNat / 256 % 64
    let n := o.imm.toNat % 64 + 1
    (LaneReady .vbfx o s → ∃ t val, exec (.vbfx o) s = .next t ∧ WritesLanes s t o.d (s.opMask o) val 0 ∧
      ∀ l < 32, ∀ i < 64 / w, elemOf w (val l) i = fitted w ty.2.2 false (numberOf n ty.2.2 (elemOf w (s.opA o l) i / 2 ^ p % 2 ^ n))) ∧
    (LaneReady .vbfi o s → ∃ t val, exec (.vbfi o) s = .next t ∧ WritesLanes s t o.d (s.opMask o) val 0 ∧
      ∀ l < 32, ∀ i < 64 / w, ∀ b < w, (elemOf w (val l) i).testBit b =
        if p ≤ b ∧ b < p + n then (elemOf w (s.opA o l) i).testBit (b - p) else (elemOf w (s.opD o l) i).testBit b) ∧
    (LaneReady .vlaneid o s → ∃ t val, exec (.vlaneid o) s = .next t ∧ WritesLanes s t o.d (s.opMask o) val 0 ∧
      ∀ l < 32, ∀ i < 64 / w, elemOf w (val l) i = (l * (64 / w) + i) % 2 ^ w)) ∧
  (∀ (o : LaneOp) (s : State), LaneReady .vmovi o s → ∃ t, exec (.vmovi o) s = .next t ∧
    WritesLanes s t o.d (s.opMask o) (fun _ => immOperand o.ty.toNat o.imm) 0)

/-- The conditions of R191. -/
def intTest (c : Nat) (x y : Int) : Bool :=
  match c with
  | 0 => x = y
  | 1 => x ≠ y
  | 2 => x < y
  | 3 => x ≤ y
  | 4 => y < x
  | _ => y ≤ x

/-- R191: VCMP writes all ones or zero into each sub-element; VCMPK writes one bit a lane into k[d], set when the condition holds of
every sub-element, or under .any of one at least, and keeps the bits of lanes outside the mask. -/
def IntegerComparisons : Prop :=
  ∀ ty ∈ intTypes, ∀ (o : LaneOp) (s : State), o.ty.toNat = ty.1 →
    let w := ty.2.1
    let holds := fun l i => intTest (LaneX o % 8) (numberOf w ty.2.2 (elemOf w (s.opA o l) i)) (numberOf w ty.2.2 (elemOf w (s.opB o l) i))
    (LaneReady .vcmp o s → ∃ t val, exec (.vcmp o) s = .next t ∧ WritesLanes s t o.d (s.opMask o) val 0 ∧
      ∀ l < 32, ∀ i < 64 / w, elemOf w (val l) i = if holds l i then 2 ^ w - 1 else 0) ∧
    (LaneReady .vcmpk o s → ∃ t, exec (.vcmpk o) s = .next t ∧ WritesBits s t o.d (s.opMask o) (fun l =>
      if LaneX o / 8 % 2 = 1 then (List.range (64 / w)).any (holds l) else (List.range (64 / w)).all (holds l)) 0)

/-! ## Floating-point lanes (chapters 02 and 08) -/

/-- The floating-point types of R78 with their formats (R32). -/
def floatTypes : List (Nat × Fmt) := [(0x7, fp32), (0x8, fp16), (0x9, bf16), (0xA, e4m3), (0xB, e5m2), (0xC, e2m1), (0xD, fp64)]

/-- How an operation rounds (R38, R43, R45, R76): its own mode, or FMODE.RND; .sat or FMODE.SAT; FMODE.FTZ. DR where the operation
takes no dither is RN. -/
def rounding (s : State) (o : LaneOp) (dither : Bool) : Env :=
  let m := if LaneRX o then LaneRM o else s.cw.fmode.toNat % 8
  { mode := if m = 5 ∧ dither = false then 0 else m, sat := LaneSat o || s.cw.fmode.getLsbD 4, ftz := s.cw.fmode.getLsbD 3, entry := 0 }

/-- A result for each sub-element of each lane: the word completes with their codes in the lanes of the mask, and, when no flag that
they raise is enabled, their flags in FSTAT. -/
def FloatResult (i : LaneOp → Instr) (c : LaneCode) (o : LaneOp) (s : State) (w : Nat) (res : Nat → Nat → FRes) : Prop :=
  let flags := flagsIn (s.opMask o) fun l => ((List.range (64 / w)).map fun e => (res l e).flags).foldl (· ||| ·) 0
  LaneReady c o s → s.Quiet flags →
    ∃ t val, exec (i o) s = .next t ∧ WritesLanes s t o.d (s.opMask o) val flags ∧
      ∀ l < 32, (s.opMask o).getLsbD l → ∀ e < 64 / w, elemOf w (val l) e = (res l e).code % 2 ^ w

/-- The arithmetic operations, on the values of A, B and C (R52, R193). -/
def floatOps : List ((LaneOp → Instr) × LaneCode × (Fmt → Env → FNum → FNum → FNum → FRes)) :=
  [(.vfadd, .vfadd, fun f v x y _ => fadd f v x y), (.vfsub, .vfsub, fun f v x y _ => fadd f v x y.negate),
   (.vfmul, .vfmul, fun f v x y _ => fmul f v x y), (.vfma, .vfma, fun f v x y z => ffma f v x y z)]

/-- R193, R52, R40, R48: VFADD, VFSUB, VFMUL and VFMA round once the exact result on each sub-element, with subnormal operands read
as zero under FTZ, and put the flags of every lane of the mask into FSTAT. -/
def FloatArithmetic : Prop :=
  ∀ e ∈ floatOps, ∀ ty ∈ floatTypes, ∀ (o : LaneOp) (s : State), o.ty.toNat = ty.1 →
    let f := ty.2
    let v := rounding s o false
    let read := fun (x : Word) i => flushIn f v.ftz (unpack f (elemOf f.bits x i))
    FloatResult e.1 e.2.1 o s f.bits fun l i => e.2.2 f v (read (s.opA o l) i) (read (s.opB o l) i) (read (s.opC o l) i)

/-- The operations on codes (R52, R194), with FTZ. -/
def codeOps : List ((LaneOp → Instr) × LaneCode × (Fmt → Bool → Nat → Nat → FRes)) :=
  [(.vfmin, .vfmin, minMax false), (.vfmax, .vfmax, minMax true), (.vfabs, .vfabs, fun f z x _ => withSign f z (fun _ => false) x),
   (.vfneg, .vfneg, fun f z x _ => withSign f z (fun x => !x.testBit (f.bits - 1)) x),
   (.vfcpsgn, .vfcpsgn, fun f z x y => withSign f z (fun _ => y.testBit (f.bits - 1)) x),
   (.vfclass, .vfclass, fun f _ x _ => { code := classOf f x, flags := 0 })]

/-- R194, R195, R196: minimum, maximum, sign operations, the class of a value, and comparisons, which write a mask into each
sub-element (VFCMP) or a bit a lane (VFCMPK). -/
def FloatSelection : Prop :=
  ∀ ty ∈ floatTypes, ∀ (o : LaneOp) (s : State), o.ty.toNat = ty.1 →
    let f := ty.2
    let z := s.cw.fmode.getLsbD 3
    (∀ e ∈ codeOps, FloatResult e.1 e.2.1 o s f.bits fun l i =>
      e.2.2 f z (elemOf f.bits (s.opA o l) i) (elemOf f.bits (s.opB o l) i)) ∧
    (let test := fun l i => fltCond (LaneX o % 8) (flushIn f z (unpack f (elemOf f.bits (s.opA o l) i)))
        (flushIn f z (unpack f (elemOf f.bits (s.opB o l) i)));
      (FloatResult .vfcmp .vfcmp o s f.bits fun l i =>
        { code := if (test l i).1 then 2 ^ f.bits - 1 else 0, flags := (test l i).2 }) ∧
      (let flags := flagsIn (s.opMask o) fun l => ((List.range (64 / f.bits)).map fun i => (test l i).2).foldl (· ||| ·) 0;
        LaneReady .vfcmpk o s → s.Quiet flags → ∃ t, exec (.vfcmpk o) s = .next t ∧ WritesBits s t o.d (s.opMask o) (fun l =>
          if LaneX o / 8 % 2 = 1 then (List.range (64 / f.bits)).any fun i => (test l i).1
          else (List.range (64 / f.bits)).all fun i => (test l i).1) flags))

/-- R197, R198: VFDOT2 rounds C + A0 × B0 + A1 × B1 once for each half; VFSUMH adds the sub-elements by the pairwise tree. -/
def FloatSums : Prop :=
  ∀ ty ∈ floatTypes, ∀ (o : LaneOp) (s : State), o.ty.toNat = ty.1 →
    let f := ty.2
    let v := rounding s o false
    let read := fun (x : Word) i => flushIn f v.ftz (unpack f (elemOf f.bits x i))
    (FloatResult .vfdot2 .vfdot2 o s 32 fun l h => fdot2 fp32 v (read (s.opA o l) (2 * h)) (read (s.opB o l) (2 * h))
      (read (s.opA o l) (2 * h + 1)) (read (s.opB o l) (2 * h + 1)) (flushIn fp32 v.ftz (unpack fp32 (elemOf 32 (s.opC o l) h)))) ∧
    (let add := fun (x y : FRes) =>
        let r := fadd f v (flushIn f v.ftz (unpack f x.code)) (flushIn f v.ftz (unpack f y.code))
        { r with flags := r.flags ||| x.flags ||| y.flags }
      let elem := fun l i => ({ code := elemOf f.bits (s.opA o l) i, flags := 0 } : FRes)
      let sum := fun l => if f.bits = 32 then add (elem l 0) (elem l 1)
        else add (add (elem l 0) (elem l 1)) (add (elem l 2) (elem l 3))
      let flags := flagsIn (s.opMask o) fun l => (sum l).flags
      LaneReady .vfsumh o s → s.Quiet flags → ∃ t, exec (.vfsumh o) s = .next t ∧
        WritesLanes s t o.d (s.opMask o) (fun l => .ofNat 64 (sum l).code) flags)

/-- The operations of R199 without a fixed latency, on the values of A and B. -/
def slowOps : List ((LaneOp → Instr) × LaneCode × (Fmt → Env → Nat → Nat → FRes)) :=
  let t := fun (op : TOp) (f : Fmt) (v : Env) (x _ : Nat) => trans f op { v with mode := 0 } x
  [(.vfrcp, .vfrcp, t .rcp), (.vfrsq, .vfrsq, t .rsq), (.vfexp2, .vfexp2, t .exp2), (.vflog2, .vflog2, t .log2),
   (.vfsin, .vfsin, t .sin), (.vfcos, .vfcos, t .cos), (.vftanh, .vftanh, t .tanh),
   (.vfsqrt, .vfsqrt, fun f v x _ => fsqrt f v (flushIn f v.ftz (unpack f x))),
   (.vfdiv, .vfdiv, fun f v x y => fdiv f v (flushIn f v.ftz (unpack f x)) (flushIn f v.ftz (unpack f y)))]

/-- R199, R53, R83: the transcendental operations, VFSQRT and VFDIV: the result waits, for the lanes of the mask, until it is
written; until then every register is as before. -/
def SlowFloats : Prop :=
  ∀ e ∈ slowOps, ∀ ty ∈ floatTypes, ∀ (o : LaneOp) (s : State), o.ty.toNat = ty.1 →
    let f := ty.2
    let res := fun l i => e.2.2 f (rounding s o false) (elemOf f.bits (s.opA o l) i) (elemOf f.bits (s.opB o l) i)
    let flags := flagsIn (s.opMask o) fun l => ((List.range (64 / f.bits)).map fun i => (res l i).flags).foldl (· ||| ·) 0
    LaneReady e.2.1 o s → s.Quiet flags → ∃ t val, exec (e.1 o) s = .next t ∧ HoldsLanes s t o.d (s.opMask o) val flags ∧
      ∀ l < 32, (s.opMask o).getLsbD l → ∀ i < 64 / f.bits, elemOf f.bits (val l) i = (res l i).code % 2 ^ f.bits

/-- A finite number as a multiple of 2^e, for an e that is not above its own exponent. -/
def multipleOf (e : Int) (x : FNum) : Int := x.mant * 2 ^ (x.exp - e).toNat

/-- R38, R39: rounding a positive magnitude m × 2^e to a format, all numbers taken as multiples of one small 2^k. Without overflow, RN
gives a nearest finite number, RZ and RD the greatest one not above, RU the least one not below; IX is raised exactly when the result
differs from the exact value. -/
def RoundingModes : Prop :=
  ∀ f ∈ [fp64, fp32, fp16, bf16, e5m2, e4m3, e2m1, e3m5], ∀ (m : Nat) (e k : Int) (mode : Nat), 0 < m → mode ≤ 3 →
    k ≤ e → k ≤ 1 - (f.bias : Int) - f.fb →
    let r := roundMag f { mode, sat := false, ftz := false, entry := 0 } false m e false
    let x : Int := m * 2 ^ (e - k).toNat
    let val := fun c => multipleOf k (unpack f c)
    r.flags &&& OF = 0 →
      r.code ≤ f.maxCode ∧ (r.flags &&& IX = 0 ↔ val r.code = x) ∧
      (mode = 0 → ∀ c ≤ f.maxCode, (x - val r.code).natAbs ≤ (x - val c).natAbs) ∧
      (mode = 1 ∨ mode = 3 → val r.code ≤ x ∧ ∀ c ≤ f.maxCode, val c ≤ x → val c ≤ val r.code) ∧
      (mode = 2 → x ≤ val r.code ∧ ∀ c ≤ f.maxCode, x ≤ val c → val r.code ≤ val c)

/-- R34, R50, R52, R193: the special cases of addition and multiplication, in every rounding mode. A NaN gives the canonical NaN, and IV
only for a signalling one; ∞ − ∞ and 0 × ∞ give it with IV; an infinity else absorbs, exactly. -/
def FloatSpecials : Prop :=
  ∀ f ∈ [fp64, fp32, fp16, bf16, e5m2], ∀ v : Env, v.sat = false →
    (∀ q y, fadd f v (.nan q) y = { code := f.nanCode, flags := if q || y.isSnan then IV else 0 } ∧
      fadd f v y (.nan q) = { code := f.nanCode, flags := if q || y.isSnan then IV else 0 } ∧
      fmul f v (.nan q) y = { code := f.nanCode, flags := if q || y.isSnan then IV else 0 } ∧
      fmul f v y (.nan q) = { code := f.nanCode, flags := if q || y.isSnan then IV else 0 }) ∧
    (∀ n, fadd f v (.inf n) (.inf !n) = { code := f.nanCode, flags := IV } ∧
      fadd f v (.inf n) (.inf n) = { code := f.signed n f.infCode, flags := 0 }) ∧
    (∀ n k m e, fadd f v (.inf n) (.fin k m e) = { code := f.signed n f.infCode, flags := 0 } ∧
      fmul f v (.inf n) (.fin k 0 e) = { code := f.nanCode, flags := IV } ∧
      (0 < m → fmul f v (.inf n) (.fin k m e) = { code := f.signed (n != k) f.infCode, flags := 0 }))

/-! ## Conversions, exchanges and reductions (chapters 08 and 09) -/

/-- One conversion of a sub-element `x` to element `e` of lane `l` (R201): the mode with its Bayer entry (R41), FMODE.SAT for
floating-point results alone. -/
def converted (s : State) (o : LaneOp) (st dt : SubTy) (l e x : Nat) : FRes :=
  let v := rounding s o (cvtMayDither o.ty.toNat o.c.toNat)
  cvt st dt { v with sat := if tyFloat o.ty.toNat then v.sat else LaneSat o, entry := bayer (l % 8) (e % 8) s.cw.dphase.toNat } x

/-- R200, R201, R202, R203, R206: VCVT to a narrower type fills group q of the destination and keeps the rest, to a wider one takes group
q of the source; VPACK converts A and then B; VUNPK widens one half exactly; VSWZ permutes the sub-elements of a lane. -/
def ConversionLanes : Prop :=
  ∀ (o : LaneOp) (s : State) (st dt : SubTy), subTy o.c.toNat = some st → subTy o.ty.toNat = some dt →
    let ns := 64 / st.width
    let nd := 64 / dt.width
    let q := LaneX o % 16
    let one := converted s o st dt
    (FloatResult .vcvt .vcvt o s dt.width fun l e =>
      if ns ≤ nd then
        if q * ns ≤ e ∧ e < q * ns + ns then one l e (elemOf st.width (s.opA o l) (e - q * ns))
        else { code := elemOf dt.width (s.opD o l) e, flags := 0 }
      else one l e (elemOf st.width (s.opA o l) (q * nd + e))) ∧
    (FloatResult .vpack .vpack o s dt.width fun l e =>
      one l e (if e < ns then elemOf st.width (s.opA o l) e else elemOf st.width (s.opB o l) (e - ns))) ∧
    (∀ to', subTy (unpackTy o.ty.toNat (LaneX o / 2 % 2 == 1)) = some to' →
      FloatResult .vunpk .vunpk o s to'.width fun l e =>
        cvt dt to' Env.rn (elemOf dt.width (s.opA o l) (LaneX o % 2 * (64 / to'.width) + e))) ∧
    (FloatResult .vswz .vswz o s dt.width fun l e =>
      { code := elemOf dt.width (s.opA o l) (elemOf 4 (s.opB o l) e % nd), flags := 0 })

/-- R204, R205: VBSCALE puts the block scale of the eight values of A and B into one byte of D; VBQUANT puts their eight E2M1 codes under
the scale in C into one half of D. -/
def BlockLanes : Prop :=
  ∀ (o : LaneOp) (s : State),
    let x := LaneX o
    let vals := fun l => (List.range 8).map fun i => flushIn (laneFmt o) (s.cw.fmode.getLsbD 3)
      (unpack (laneFmt o) (elemOf 16 (if i < 4 then s.opA o l else s.opB o l) (i % 4)))
    FloatResult .vbscale .vbscale o s 8 (fun l e =>
      if e = x % 8 then blockScale (vals l) else { code := elemOf 8 (s.opD o l) e, flags := 0 }) ∧
    FloatResult .vbquant .vbquant o s 4 fun l e =>
      if e / 8 = x % 2 then quant { rounding s o true with entry := bayer (l % 8) (e % 8) s.cw.dphase.toNat }
        (elemOf 8 (s.opC o l) (x / 2 % 8)) ((vals l).getD (e % 8) default)
      else { code := elemOf 4 (s.opD o l) e, flags := 0 }

/-- What an exchange reads in lane `j` of A (R214): the lanes of the mask as they are, and the others too unless they are of another
path; under .z, 0 outside the mask. `known` are the lanes whose value the rule fixes. -/
def laneSeen (s : State) (o : LaneOp) (z : Bool) (j : Nat) : Word := if z ∧ (s.opMask o).getLsbD j = false then 0 else s.opA o j

def laneKnown (s : State) (o : LaneOp) (z : Bool) (j : Nat) : Prop :=
  z = true ∨ (s.opMask o).getLsbD j = true ∨ s.otherPathLanes.getLsbD j = false

/-- R214 to R218: VPERM, VBCAST and VSHFL take the sub-element, the lane, or the lane at a distance that they name, wherever its value is
fixed; VRFAL gives the value of the lowest lane of the mask and VBALLOT the lanes whose value is not 0, with the mask above. -/
def ExchangeLanes : Prop :=
  ∀ (o : LaneOp) (s : State),
    let count := if LaneUB o then (s.snapshot o.b.toNat).toNat % 32 else o.b.toNat % 32
    let from' := fun l => match LaneX o % 4 with
      | 0 => if l < count then l else l - count
      | 1 => if 31 < l + count then l else l + count
      | _ => l ^^^ count
    (∀ ty, subTy o.ty.toNat = some ty → LaneReady .vperm o s → ∃ t val, exec (.vperm o) s = .next t ∧
      WritesLanes { s with free := t.free } t o.d (s.opMask o) val 0 ∧ ∀ l < 32, ∀ e < 64 / ty.width,
        let n := 64 / ty.width
        let i := elemOf ty.width (s.opB o l) e % (32 * n)
        laneKnown s o (LaneX o % 2 == 1) (i / n) →
          elemOf ty.width (val l) e = elemOf ty.width (laneSeen s o (LaneX o % 2 == 1) (i / n)) (i % n)) ∧
    (LaneReady .vbcast o s → ∃ t val, exec (.vbcast o) s = .next t ∧
      WritesLanes { s with free := t.free } t o.d (s.opMask o) val 0 ∧ (laneKnown s o false count → ∀ l < 32, val l = s.opA o count)) ∧
    (LaneReady .vshfl o s → ∃ t val, exec (.vshfl o) s = .next t ∧
      WritesLanes { s with free := t.free } t o.d (s.opMask o) val 0 ∧
      ∀ l < 32, laneKnown s o false (from' l) → val l = s.opA o (from' l)) ∧
    (LaneReady .vrfal o s → ∃ t, exec (.vrfal o) s = .next t ∧ ∃ x, WritesReturn s t o.d x 0 ∧
      (s.opMask o = 0 → x = 0) ∧ ∀ l, (s.opMask o).getLsbD l = true → (∀ j < l, (s.opMask o).getLsbD j = false) → x = s.opA o l) ∧
    (LaneReady .vballot o s → ∃ t, exec (.vballot o) s = .next t ∧ ∃ x, WritesReturn s t o.d x 0 ∧
      ∀ l < 32, x.getLsbD l = ((s.opMask o).getLsbD l && s.opA o l != 0) ∧ x.getLsbD (32 + l) = (s.opMask o).getLsbD l)

/-- Values combined in ascending order of their lanes, from the left. -/
def foldLanes (f : Nat → Nat → Nat) : List Nat → Option Nat
  | [] => none
  | x :: rest => some (rest.foldl f x)

/-- The combine of R219 on integers, exact and then wrapped or clamped. -/
def intCombine (w : Nat) (sgn sat : Bool) (op x y : Nat) : Nat :=
  let a := numberOf w sgn x
  let b := numberOf w sgn y
  match op with
  | 0 => fitted w sgn sat (a + b)
  | 1 => if a ≤ b then x else y
  | 2 => if a ≤ b then y else x
  | 3 => x ||| y
  | 4 => x &&& y
  | _ => x ^^^ y

/-- R219, R220 on integers without .sat: VRED gives, for each sub-element position, the combine of the lanes of the mask (0 for an empty
mask), and VSCAN gives each lane of the mask the combine of those up to it, or before it in an exclusive scan. -/
def IntegerReductions : Prop :=
  ∀ ty ∈ intTypes, ∀ (o : LaneOp) (s : State), o.ty.toNat = ty.1 → LaneSat o = false →
    let w := ty.2.1
    let op := LaneX o % 8
    let upto := fun e n => (((List.range n).filter fun l => (s.opMask o).getLsbD l).map fun l => elemOf w (s.opA o l) e)
    (LaneReady .vred o s → ∃ t x, exec (.vred o) s = .next t ∧ WritesReturn s t o.d x 0 ∧
      ∀ e < 64 / w, elemOf w x e = (foldLanes (intCombine w ty.2.2 false op) (upto e 32)).getD 0) ∧
    (LaneReady .vscan o s → ∃ t val, exec (.vscan o) s = .next t ∧ WritesLanes s t o.d (s.opMask o) val 0 ∧
      ∀ l < 32, (s.opMask o).getLsbD l = true → ∀ e < 64 / w, elemOf w (val l) e =
        (foldLanes (intCombine w ty.2.2 false op) (upto e (if 8 ≤ LaneX o % 16 then l else l + 1))).getD 0)

/-- R40, R57, R219, R220 on floating-point types: VRED combines the lanes of the mask by the pairwise tree, two by two from lane 0, a
lane outside the mask standing aside; VSCAN combines them in ascending order. Under FTZ a subnormal value of a lane is read as a zero, and
a NaN that reaches a result without a combine is the canonical one (R34). Both complete, with the flags of their combines. -/
def FloatReductions : Prop :=
  ∀ ty ∈ floatTypes, ∀ (o : LaneOp) (s : State), o.ty.toNat = ty.1 → bitsOf s.cw.fmode.toNat 8 5 = 0 →
    let w := ty.2.bits
    let comb := fun x y => (combine s.cw o x y).code
    let lane := fun e l => if (s.opMask o).getLsbD l then some (flushCode ty.2 (s.cw.fmode.getLsbD 3) (elemOf w (s.opA o l) e)) else none
    let upto := fun e n => (List.range n).filterMap (lane e)
    let out := fun x => (if (unpack ty.2 x).isNan then ty.2.nanCode else x) % 2 ^ w
    (LaneReady .vred o s → ∃ t x flags, exec (.vred o) s = .next t ∧ WritesReturn s t o.d x flags ∧
      ∀ e < 64 / w, elemOf w x e = out ((tree comb ((List.range 32).map (lane e)) 6).getD 0)) ∧
    (LaneReady .vscan o s → ∃ t val flags, exec (.vscan o) s = .next t ∧ WritesLanes s t o.d (s.opMask o) val flags ∧
      ∀ l < 32, (s.opMask o).getLsbD l = true → ∀ e < 64 / w, elemOf w (val l) e =
        out ((foldLanes comb (upto e (if 8 ≤ LaneX o % 16 then l else l + 1))).getD 0))

/-! ## Lane memory (chapter 10) -/

/-- The address of a lane of a lane memory word (R250; with UB the uniform value is added for every one of them, log entry 13). -/
def laneAddress (s : State) (o : LaneOp) (l : Nat) : Word :=
  s.opA o l + (if LaneUB o then s.snapshot o.b.toNat else 0) + o.imm.signExtend 64

/-- The bytes of physical memory, or of a team's scratchpad. -/
def bytesOf (s : State) : Option Nat → List Host.Cell
  | none => s.mem
  | some team => ((s.team? team).map (·.scratch)).getD []

/-- Where a checked location lies. -/
def placeOf : Loc → Option Nat × Nat
  | .phys p _ => (none, p)
  | .scratch team o => (some team, o)
  | .fifo q => (none, q)

/-- No two lanes access a common byte. -/
def lanesApart (w : Nat) (ls : List (Nat × Loc)) : Prop :=
  ls.Pairwise fun x y => (placeOf x.2).1 = (placeOf y.2).1 →
    (placeOf x.2).2 + w ≤ (placeOf y.2).2 ∨ (placeOf y.2).2 + w ≤ (placeOf x.2).2

/-- A checked location in the device's own memory, whose page is not counted, or in a live team's scratchpad. -/
def plainAt (u : State) (w : Nat) : Loc → Prop
  | .phys p page => u.Local p w ∧ u.Uncounted page
  | .scratch team _ => ∃ x, u.team? team = some x ∧ Memory.wf x.scratch = true
  | .fifo _ => False

/-- Every lane of the mask has passed the checks of R250 and lies in the device's own memory or in a live team's scratchpad, nothing
poisoned; `ls` lists the lanes with their places in ascending order, and `u` is the state that the checks left. -/
structure LanesReach (s : State) (acc : Acc) (o : LaneOp) (ls : List (Nat × Loc)) (u : State) : Prop where
  located : (laneLocate acc (laneAddress s o) (vmBytes o) (s.opMask o)).run s = .ok ls u
  region : s.cw.region = none
  clean : s.poison = []
  plain : ∀ x ∈ ls, plainAt u (vmBytes o) x.2
  memory : u.MemWf

/-- The executing wave and its path after a lane word that writes no register; a wait at a rendezvous move is over. -/
def laneStepped (s t : State) : Prop :=
  t.cw = { s.cw with lwords := s.cw.lwords + 1, st := t.cw.st } ∧ (s.cw.st ≠ .waiting → t.cw.st = s.cw.st) ∧
    t.cp = { s.cp with lpc := s.cp.lpc + 1, wait := .none, fixed := t.cp.fixed }

/-- R249 to R252, R254: with b bytes at position p, VLD puts the bytes that each lane of the mask names, little-endian, into their place
of its 64-bit value and keeps the rest of the register; VST stores that part of the register's lanes, and every byte that no lane
covers stays. Neither changes another register. VPREF does nothing, and no poisoned source makes it trap. -/
def LaneLoadsAndStores : Prop :=
  ∀ (o : LaneOp) (s u : State) (ls : List (Nat × Loc)),
    let w := vmBytes o
    let at' := 8 * w * (o.c.toNat % 8)
    (LaneReady .vld o s → LanesReach s .load o ls u → ∃ t val, exec (.vld o) s = .next t ∧
      LaneSteps { u with parts := t.parts, buckets := t.buckets, ctxs := t.ctxs } t 0 ∧ t.cw.v = s.cw.v ∧ t.cw.k = s.cw.k ∧ t.cw.q = s.cw.q ∧
      t.cp.var = s.cp.var ++ [outV o.d (s.opMask o) (laneList.map val) (~~~(.ofNat 64 ((2 ^ (8 * w) - 1) * 2 ^ at')))] ∧
      ∀ x ∈ ls, val x.1 = .ofNat 64 (Memory.readLE (bytesOf u (placeOf x.2).1) (placeOf x.2).2 w * 2 ^ at')) ∧
    (LaneReady .vst o s → LanesReach s .store o ls u → s.wcb = [] → lanesApart w ls →
      ∃ t, exec (.vst o) s = .next t ∧ laneStepped s t ∧
        ∀ space b, Memory.read (bytesOf t space) b =
          match ls.find? fun x => (placeOf x.2).1 = space && (placeOf x.2).2 ≤ b && b < (placeOf x.2).2 + w with
          | some x => .ofNat 8 ((s.opD o x.1).toNat / 2 ^ at' / 256 ^ (b - (placeOf x.2).2))
          | none => Memory.read (bytesOf u space) b) ∧
    (laneLegal .vpref o s.cw.vregs (((s.team? s.cw.team).map (·.acc)).getD 0) = true → (∀ r ∈ laneReads .vpref o, s.pendingAt r = false ∧ s.shortLanes r = 0) →
      ∃ t, exec (.vpref o) s = .next t ∧ LaneMoves { s with free := t.free } t)

/-- R250, R350, R351: VST in an open region. The bytes of each lane of the mask go into the region's buffer, at the lane's address; no byte of
memory or of a scratchpad changes and no write-combining entry is made. VST .rel traps REGION_ILLEGAL there. -/
def RegionLaneStore : Prop :=
  ∀ (o : LaneOp) (s u : State) (r : Region) (ls : List (Nat × Loc)), LaneReady .vst o s → s.cw.region = some r →
    let w := vmBytes o
    let addr := fun l => (laneAddress s o l).toNat
    let lanes := (List.range 32).filter fun l => (s.opMask o).getLsbD l
    let val := fun l => (s.opD o l).toNat / 2 ^ (8 * w * (o.c.toNat % 8))
    let buf := lanes.foldl (fun b l => bufferBytes b (addr l) (leBytes (val l) w)) r.buf
    (o.c.toNat / 8 % 4 = 2 → exec (.vst o) s = .next (s.laneTrapped { cause := 0x14, lanes := s.cp.mask })) ∧
    (o.c.toNat / 8 % 4 ≠ 2 → (laneLocate .store (laneAddress s o) w (s.opMask o)).run s = .ok ls u →
      (∀ x ∈ ls, ∀ p page, x.2 = .phys p page → u.Uncounted page) → lanesApart w ls →
      lanes.Pairwise (fun i j => addr i + w ≤ addr j ∨ addr j + w ≤ addr i) → (regionLines buf).length ≤ 64 →
      ∃ t, exec (.vst o) s = .next t ∧ SameMem u t ∧ t.teams = s.teams ∧ t.wcb = s.wcb ∧ t.cp.var = s.cp.var ∧
        t.cw = { s.cw with lwords := s.cw.lwords + 1, st := t.cw.st, region := some { r with buf } } ∧
        ∀ x, (buf.find? fun c => c.1 == x).map (·.2) =
          match lanes.find? fun l => addr l ≤ x && x < addr l + w with
          | some l => some (BitVec.ofNat 8 (val l / 256 ^ (x - addr l)))
          | none => (r.buf.find? fun c => c.1 == x).map (·.2))

/-- R253, R60: VATOM on lanes whose places are apart. Each lane of the mask takes the old value of its place into d once its result is
written; the place takes the new value, or keeps the old one where a compare and swap fails; no other byte changes. -/
def LaneAtomics : Prop :=
  ∀ (o : LaneOp) (s u : State) (ls : List (Nat × Loc)), LaneReady .vatom o s → LanesReach s .rmw o ls u → s.wcb = [] →
    let w := vmBytes o
    lanesApart w ls →
    let old := fun (x : Nat × Loc) => Memory.readLE (bytesOf u (placeOf x.2).1) (placeOf x.2).2 w
    let new := fun (x : Nat × Loc) => (vatomNew o (old x) ((s.opB o x.1).toNat % 2 ^ (8 * w)) ((s.opD o x.1).toNat % 2 ^ (8 * w))).getD (old x)
    ∃ t val, exec (.vatom o) s = .next t ∧ t.cw = { s.cw with lwords := s.cw.lwords + 1, loose := t.cw.loose, st := t.cw.st } ∧
      (s.cw.st ≠ .waiting → t.cw.st = s.cw.st) ∧
      t.cp = { s.cp with lpc := s.cp.lpc + 1, wait := .none, fixed := t.cp.fixed,
                         var := s.cp.var ++ [outV o.d (s.opMask o) (laneList.map val)] } ∧
      (∀ x ∈ ls, val x.1 = if o.ty = 0x1 then (BitVec.ofNat 32 (old x)).signExtend 64 else .ofNat 64 (old x)) ∧
      ∀ space b, Memory.read (bytesOf t space) b =
        match ls.find? fun x => (placeOf x.2).1 = space && (placeOf x.2).2 ≤ b && b < (placeOf x.2).2 + w with
        | some x => .ofNat 8 (new x / 256 ^ (b - (placeOf x.2).2))
        | none => Memory.read (bytesOf u space) b

/-- The lane memory words with the kind of their accesses. -/
def laneMemoryWords : List (LaneCode × Acc) := [(.vld, .load), (.vst, .store), (.vatom, .rmw)]

/-- R90, R250: the checks of a lane memory word. A misaligned lane traps MISALIGN, with every such lane in HLANES and the first one's
address in HADDR; else the first failing lane's cause, with every lane that fails with it. No byte changes but the accessed and
dirty bits of table entries, since nothing is performed. -/
def LaneAddressTraps : Prop :=
  ∀ e ∈ laneMemoryWords, ∀ (o : LaneOp) (s : State), LaneReady e.1 o s → s.cw.region = none →
    let addr := laneAddress s o
    let lanes := (List.range 32).filter fun l => (s.opMask o).getLsbD l
    let bad := lanes.filter fun l => (addr l).toNat % vmBytes o ≠ 0
    (∀ l rest, bad = l :: rest → exec (e.1.instr o) s =
      .next (s.laneTrapped { cause := 0x06, addr := addr l, lanes := maskOf bad.contains, lane := true })) ∧
    (∀ rs u trap, bad = [] → s.locateAll e.2 addr (vmBytes o) lanes = (rs, u) →
      (rs.findSome? fun r => match r.2 with
        | .bad t => some t
        | _ => none) = some trap →
      let same := fun l => rs.any fun r => r.1 = l && match r.2 with
        | .bad t => t.cause = trap.cause
        | _ => false
      exec (e.1.instr o) s =
        .next (s.laneTrapped { cause := trap.cause, addr := trap.addr, info := trap.info, lanes := maskOf same, lane := true }))

/-- R80, R83, R84, R90, R399: the checks before every lane word of one operation, in their order. Reserved fields trap ILLEGAL_OP; a
register whose result is still to be written makes the word wait; with CHK.STALL, as it was when the block was enqueued, a source that is
not old enough traps STALL_SHORT; an element read in a lane that takes part, a mask read in a lane of the path, that is poisoned traps
SOFT_ERROR_UNCORRECTED with the lanes that read poison. VPREF raises the last never, and the words that read another lane's value (VPERM,
VBCAST, VSHFL, MJ) raise it for the lanes that they read. -/
def LaneWordChecks : Prop :=
  ∀ (c : LaneCode) (o : LaneOp) (s : State),
    let legal := laneLegal c o s.cw.vregs (((s.team? s.cw.team).map (·.acc)).getD 0)
    let refs := laneReads c o ++ laneWrites c o
    let trapped := fun (cause : Nat) (m : BitVec 32) (info : Word) =>
      exec (c.instr o) s = .next (s.laneTrapped { cause, lanes := m, info, lane := true })
    (legal = false → trapped 0x01 s.cp.mask 0) ∧
    (legal = true → (∃ r ∈ refs, s.pendingAt r = true) → exec (c.instr o) s = .next s) ∧
    (legal = true → (∀ r ∈ refs, s.pendingAt r = false) → s.blockChk.getLsbD 0 = true →
      (∃ r ∈ laneReads c o, s.shortLanes r ≠ 0) → trapped 0x04 s.cp.mask 0) ∧
    (let hit := fun r => s.poisonLanes (match r with
        | .k _ => s.cp.mask
        | _ => s.opMask o) r;
      legal = true → c ∉ [.vpref, .vperm, .vbcast, .vshfl, .mj] → (∀ r ∈ refs, s.pendingAt r = false) → (∀ r ∈ laneReads c o, s.shortLanes r = 0) →
      ∀ r rest, ((laneReads c o).filter fun r => hit r ≠ 0) = r :: rest →
        trapped 0x71 (rest.foldl (fun m x => m ||| hit x) (hit r)) (match r with
          | .v _ => 4
          | _ => 6))

/-- R232: a FIFO bank of the context, reached by 8-byte accesses. A load pops the head and a store pushes, when the entries or the room
are there and no earlier access of its kind waits; a lane word does so for each lane of its mask in ascending order, as one unit. Until then the
word waits and nothing has changed. -/
def FifoAccess : Prop :=
  ∀ (q : Nat) (s : State), s.cw.region = none → s.poison = [] →
    let b := s.bank s.cw.dev (s.cw.core / 8) q
    let next := s.fifoTurn (fifoKey q false) = true
    let first := s.fifoTurn (fifoKey q true) = true
    let bankIs := fun (t : State) (xs : List Word) => t = { s with cw := t.cw, cp := t.cp, jointOps := t.jointOps, banks := t.banks } ∧
      t.banks = (s.setBank { b with fifo := xs }).banks ∧ SameMem s t
    let lanes := fun (o : LaneOp) => (List.range 32).filter fun l => (s.opMask o).getLsbD l
    (∀ (d a : SReg) (off : BitVec 11) (addr : Word), addr = s.rs a + off.signExtend 64 * 8 → addr.toNat % 8 = 0 →
      (s.Reaches .load addr 8 (.fifo q) s → next → b.fifo ≠ [] → ∃ t, exec (.sld d a 3 off) s = .next t ∧ bankIs t (b.fifo.drop 1) ∧
        t.cw = { s.cw.movedTo (s.cw.pc + 4) with s := t.cw.s } ∧ ∀ r, t.rs r = if r = d ∧ d ≠ 0 then b.fifo.getD 0 0 else s.rs r) ∧
      (s.Reaches .load addr 8 (.fifo q) s → (b.fifo = [] ∨ ¬ next) → ∃ t, exec (.sld d a 3 off) s = .next t ∧ t.cw.pc = s.cw.pc ∧
        t.cw.wait.isSome = true ∧ t.cw.s = s.cw.s ∧ t.banks = s.banks ∧ SameMem s t) ∧
      (s.Reaches .store addr 8 (.fifo q) s → first → b.fifo.length < 16384 → ∃ t, exec (.sst d a 3 off) s = .next t ∧
        bankIs t (b.fifo ++ [s.rs d]) ∧ t.cw = s.cw.movedTo (s.cw.pc + 4)) ∧
      (s.Reaches .store addr 8 (.fifo q) s → (16384 ≤ b.fifo.length ∨ ¬ first) → ∃ t, exec (.sst d a 3 off) s = .next t ∧
        t.cw.pc = s.cw.pc ∧ t.cw.wait.isSome = true ∧ t.banks = s.banks ∧ SameMem s t)) ∧
    (∀ (o : LaneOp) (ls : List (Nat × Loc)), vmBytes o = 8 → o.c.toNat % 8 = 0 → lanes o ≠ [] → (∀ x ∈ ls, x.2 = .fifo q) →
      let n := (lanes o).length
      let waits := fun (t : State) => t.cw = s.cw ∧ t.banks = s.banks ∧ t.cp.lpc = s.cp.lpc ∧ t.cp.wait ≠ .none ∧ SameMem s t
      let ready := fun (c : LaneCode) (acc : Acc) => LaneReady c o s ∧ (laneLocate acc (laneAddress s o) 8 (s.opMask o)).run s = .ok ls s
      (ready .vld .load → next → n ≤ b.fifo.length → ∃ t val, exec (.vld o) s = .next t ∧ bankIs t (b.fifo.drop n) ∧
        t.cw = { s.cw with lwords := s.cw.lwords + 1, loose := t.cw.loose, st := t.cw.st } ∧ t.cp.lpc = s.cp.lpc + 1 ∧
        t.cp.var = s.cp.var ++ [outV o.d (s.opMask o) (laneList.map val)] ∧ ∀ i, i < n → val ((lanes o).getD i 0) = b.fifo.getD i 0) ∧
      (ready .vld .load → (b.fifo.length < n ∨ ¬ next) → ∃ t, exec (.vld o) s = .next t ∧ waits t) ∧
      (ready .vst .store → s.wcb = [] → first → b.fifo.length + n ≤ 16384 → ∃ t, exec (.vst o) s = .next t ∧
        bankIs t (b.fifo ++ (lanes o).map (s.opD o)) ∧ laneStepped s t) ∧
      (ready .vst .store → s.wcb = [] → (16384 < b.fifo.length + n ∨ ¬ first) →
        ∃ t, exec (.vst o) s = .next t ∧ waits t))

/-! ## Lane control (chapters 04 and 09) -/

/-- A lane control word is done: its path goes on as `goes` says from the state of the step, with no register written. -/
def laneCounted (s : State) (o : LaneOp) : State :=
  { s with cw := { s.cw with lwords := s.cw.lwords + 1 }, cp := s.cp.age (o.stall.toNat + 1) }

/-- R136, R137, R207, R208, R211: LBR and LJMP. The path goes to its target when every lane of it branches, and to the next word when none
does. When some do, one side of its lanes becomes a new path that joins at the LBR's number, one side at the target and the other at the
next word: the taken side, in the wave's other slot, when that is idle, else the side with fewer lanes, the taken one on a tie, as a fragment. It takes
an entry of the core's split table, or is spilled, with a handle of its own, when the table is full; with the context's slice full the LBR
does not complete. A target outside the lane section traps PROTECTION with its byte address. -/
def LaneBranches : Prop :=
  ∀ (o : LaneOp) (s : State) (k : Kernel), s.kernelOf s.cw = some k →
    let target := (s.cp.lpc : Int) + o.imm.toInt
    let inside := 0 ≤ target ∧ target < k.lwords
    let taken := s.cp.mask &&& (if LaneX o % 2 = 1 then ~~~s.cw.rk (.ofNat 3 o.a.toNat) else s.cw.rk (.ofNat 3 o.a.toNat))
    let counts := fun (t : State) => t.cw = { s.cw with lwords := s.cw.lwords + 1, eng := t.cw.eng, st := t.cw.st } ∧
      (s.cw.st ≠ .waiting → t.cw.st = s.cw.st)
    let goes := fun (t : State) (lpc : Nat) => t = { s with cw := t.cw, cp := t.cp } ∧ counts t ∧ t.cw.eng = s.cw.eng ∧
      t.cp = { s.cp with lpc, wait := .none, fixed := t.cp.fixed }
    let beyond := fun (m : BitVec 32) => s.laneTrapped { cause := 0x11, lanes := m, addr := .ofInt 64 (k.lbase + 12 * target), lane := true }
    (LaneReady .ljmp o s → inside → ∃ t, exec (.ljmp o) s = .next t ∧ goes t target.toNat) ∧
    (LaneReady .ljmp o s → ¬ inside → exec (.ljmp o) s = .next (beyond s.cp.mask)) ∧
    (LaneReady .lbr o s → taken = 0 → ∃ t, exec (.lbr o) s = .next t ∧ goes t (s.cp.lpc + 1)) ∧
    (LaneReady .lbr o s → taken = s.cp.mask → taken ≠ 0 → inside → ∃ t, exec (.lbr o) s = .next t ∧ goes t target.toNat) ∧
    (LaneReady .lbr o s → taken ≠ 0 → ¬ inside → exec (.lbr o) s = .next (beyond taken)) ∧
    (LaneReady .lbr o s → taken ≠ 0 → taken ≠ s.cp.mask → inside →
      let rest := s.cp.mask &&& ~~~taken
      let count := fun (m : BitVec 32) => ((List.range 32).filter fun l => m.getLsbD l).length
      let room := s.splitUsed s.cw.dev s.cw.core + s.spilledOn s.cw.dev s.cw.core < 64
      let splits := fun (t : State) (c : Path) => counts t ∧ t.cw.eng.paths = s.cw.eng.paths ++ [c] ∧ c.parent = s.cp.id ∧ c.join = o.b.toNat ∧
        if s.otherSlot.isSome = true ∨ count taken ≤ count rest then
          c.mask = taken ∧ c.lpc = target.toNat ∧ t.cp.mask = rest ∧ t.cp.lpc = s.cp.lpc + 1
        else c.mask = rest ∧ c.lpc = s.cp.lpc + 1 ∧ t.cp.mask = taken ∧ t.cp.lpc = target.toNat
      ((s.otherSlot.isSome = true ∨ room) → ∃ t c, exec (.lbr o) s = .next t ∧ t = { s with cw := t.cw, cp := t.cp } ∧ splits t c ∧
        (s.otherSlot.isSome = true → some c.place = s.otherSlot) ∧ (s.otherSlot = none → c.place = .fragment)) ∧
      (∀ ctx, s.otherSlot = none → ¬ room → s.ctx? s.cw.ctx = some ctx →
        (s.sliceFull ctx = true → exec (.lbr o) s = .next s) ∧
        (s.sliceFull ctx = false → ∃ t c, exec (.lbr o) s = .next t ∧ splits t c ∧ c.place = .spilled ∧
          ∃ e ∈ t.handles, e.ctx = s.cw.ctx ∧ e.kind = 2 ∧ e.obj = some s.cw.uid ∧ c.spill = e.word.toNat)))

/-- R138, R139, R209 to R213: LNOP only steps. LJOIN and LEND stop the path there, and then every path of the block that can join or
pass does. LKILL takes the lanes of its mask out of the wave's live lanes and out of its path, for good; a path left without lanes
ends, and the paths of the program's blocks lose the lanes that a handler's block takes out. A path divided from the executing one that
waits for it at the LJOIN fuses into it: its lanes go on with it. LELECT gives the lowest lane of its mask once its result is written. -/
def LaneControl : Prop :=
  ∀ (o : LaneOp) (s : State),
    (LaneReady .lnop o s → ∃ t, exec (.lnop o) s = .next t ∧ LaneMoves s t) ∧
    (LaneReady .ljoin o s → exec (.ljoin o) s = .next (State.joins
      { laneCounted s o with
        cp := { s.cp.age (o.stall.toNat + 1) with wait := .join o.b.toNat s.nextUid }, nextUid := s.nextUid + 1 }).slotLeft) ∧
    (∀ c, LaneReady .ljoin o s → s.cp.live = true → s.cp.ended = false → s.cw.eng.paths = [c] → c.joinAt = some o.b.toNat →
      c.join = o.b.toNat → c.parent = s.cp.id → c.lpc = s.cp.lpc → c.id ≠ s.cp.id → s.cp.parent ≠ c.id → c.place ≠ .spilled →
      c.place ≠ .reloading → ∃ t, exec (.ljoin o) s = .next t ∧ t.cw.eng.paths = [] ∧
        t.cp = { s.cp with mask := s.cp.mask ||| c.mask, lpc := s.cp.lpc + 1, wait := .none, fixed := t.cp.fixed, var := t.cp.var }) ∧
    (LaneReady .lend o s → s.cp.place ≠ .spilled → s.cp.place ≠ .reloading → exec (.lend o) s = .next (State.joins
      { laneCounted s o with cp := { s.cp with ended := true, wait := .none, fixed := [] } }).slotLeft) ∧
    (LaneReady .lkill o s → s.cp.mask &&& ~~~s.opMask o ≠ 0 → ∃ t, exec (.lkill o) s = .next t ∧
      t.cw = { s.cw with lwords := s.cw.lwords + 1, live := s.cw.live &&& ~~~s.opMask o, held := t.cw.held, st := t.cw.st } ∧
      t.cp = { s.cp with mask := s.cp.mask &&& ~~~s.opMask o, lpc := s.cp.lpc + 1, wait := .none, fixed := t.cp.fixed } ∧
      (s.cw.held.paths = [] → t = { s with cw := { t.cw with held := s.cw.held }, cp := t.cp }) ∧
      ∀ p ∈ t.cw.held.paths, p.mask &&& s.opMask o = 0) ∧
    (LaneReady .lkill o s → s.opMask o = s.cp.mask → s.cw.eng.paths = [] → s.cp.live = true →
      s.cp.place ≠ .spilled → s.cp.place ≠ .reloading →
      ∃ t, exec (.lkill o) s = .next t ∧ t.cw.live = s.cw.live &&& ~~~s.cp.mask ∧ t.cp.ended = true ∧ t.cp.mask = 0) ∧
    (LaneReady .lelect o s → ∃ t m, exec (.lelect o) s = .next t ∧ LaneSteps s t 0 ∧ t.cw.v = s.cw.v ∧ t.cw.k = s.cw.k ∧ t.cw.q = s.cw.q ∧
      t.cp.var = s.cp.var ++ [outK o.d (s.opMask o) m] ∧
      ∀ l < 32, m.getLsbD l = ((s.opMask o).getLsbD l && (List.range l).all fun j => !(s.opMask o).getLsbD j))

/-- R221 to R223: VPASS waits for its slot to be empty and fills it with the values and the mask of its lanes; VTAKE waits for the slot
to be full, takes the lanes that both masks hold, and empties it. An earlier word of the same kind at the slot goes first. -/
def RendezvousSlots : Prop :=
  ∀ (o : LaneOp) (s : State) (team : Team) (x : RvSlot), s.team? s.cw.team = some team → team.slots[o.b.toNat]? = some x →
    let slots := fun (t : State) (y : RvSlot) => ∃ team', t.team? s.cw.team = some team' ∧ team' = { team with slots := team.slots.set o.b.toNat y }
    let waits := fun (t : State) => t.cw = { s.cw with st := t.cw.st } ∧ t.teams = s.teams ∧ t.cp.lpc = s.cp.lpc ∧ SameMem s t ∧
      t.cp.wait ≠ .none ∧ (s.cp.wait = .none → t.cw.st = if s.cw.st = .resident then .waiting else s.cw.st)
    (LaneReady .vpass o s → x.full = false → s.slotTurn o.b.toNat = true → ∃ t y, exec (.vpass o) s = .next t ∧ laneStepped s t ∧
      t.cp.var = s.cp.var ∧ slots t y ∧ y.full = true ∧ y.mask = s.opMask o ∧ SameMem s t ∧
      ∀ l : Fin 32, y.vals[l] = if (s.opMask o).getLsbD l then s.opA o l else 0) ∧
    (LaneReady .vpass o s → (x.full = true ∨ s.slotTurn o.b.toNat = false) → ∃ t, exec (.vpass o) s = .next t ∧ waits t) ∧
    (LaneReady .vtake o s → x.full = true → s.slotTurn (o.b.toNat + 8) = true → ∃ t, exec (.vtake o) s = .next t ∧ SameMem s t ∧
      t.cw = { s.cw with lwords := s.cw.lwords + 1, loose := t.cw.loose, st := t.cw.st } ∧ slots t { x with full := false } ∧ t.cp.lpc = s.cp.lpc + 1 ∧
      t.cp.var = s.cp.var ++ [outV o.d (s.opMask o &&& x.mask) x.vals.toList]) ∧
    (LaneReady .vtake o s → (x.full = false ∨ s.slotTurn (o.b.toNat + 8) = false) → ∃ t, exec (.vtake o) s = .next t ∧ waits t)

/-- R75, R79, R80, R81: a pair of two operations without control effect reads every operand before it writes, then writes the first
one's results and the second one's, and its path takes one step; its flags are those of both. An unlisted op9 and every reserved
lane word trap ILLEGAL_OP; a pair that R80 does not allow traps ILLEGAL_PAIR. A pair of arithmetic operations completes whatever its
operands are, and changes no register but the two destinations, in the lanes of its path. -/
def Pairs : Prop :=
  ∀ (stall : BitVec 4) (x y : ShortOp) (w : BitVec 96) (s : State),
    let illegal := s.laneTrapped { cause := 0x01, lanes := s.cp.mask, lane := true }
    exec (.reservedLaneOpcode w) s = .next illegal ∧
    ((LaneCode.ofOp9 x.op9.toNat = none ∨ LaneCode.ofOp9 y.op9.toNat = none) → exec (.laneWordPair stall x y) s = .next illegal) ∧
    (∀ c d, LaneCode.ofOp9 x.op9.toNat = some c → LaneCode.ofOp9 y.op9.toNat = some d →
      let a := x.long stall
      let b := y.long stall
      let acc := ((s.team? s.cw.team).map (·.acc)).getD 0
      let legal := laneLegal c a s.cw.vregs acc = true ∧ laneLegal d b s.cw.vregs acc = true
      (¬ legal → exec (.laneWordPair stall x y) s = .next illegal) ∧
      (legal → pairLegal c a d b = false →
        exec (.laneWordPair stall x y) s = .next (s.laneTrapped { cause := 0x02, lanes := s.cp.mask, lane := true })) ∧
      (pairLegal c a d b = true → LaneReady c a s → LaneReady d b s → c.op9 < 0x0C0 → d.op9 < 0x0C0 →
        ∃ t, exec (.laneWordPair stall x y) s = .next t ∧ t.cp.lpc = s.cp.lpc + 1 ∧ t.cp.mask = s.cp.mask ∧
          t.cw.lwords = s.cw.lwords + 1 ∧ t.cw.q = s.cw.q ∧ SameMem s t ∧
          ∀ r l, l < 32 → (r ≠ a.d.toNat ∧ r ≠ b.d.toNat ∨ s.cp.mask.getLsbD l = false) → t.cw.lane r l = s.cw.lane r l) ∧
      (pairLegal c a d b = true → LaneReady c a s → LaneReady d b s → ∀ u v outX outY s1 s2,
        (laneInputs c a).run s = .ok u s → (laneInputs d b).run s = .ok v s →
        (laneFx c a u).run s = .ok outX s1 → (laneFx d b v).run s1 = .ok outY s2 →
        exec (.laneWordPair stall x y) s = .next (s2.laneDone stall.toNat
          [({ code := c, op := a, fx := laneFx c }, outX), ({ code := d, op := b, fx := laneFx d }, outY)])))

/-! ## The joint matrix operation (chapters 02 and 12) -/

/-- Member i of a GANG value, and a well-formed value for a wave's index: COUNT 2 to 6, SLICE + COUNT at most 6, bits 3, 7 and those
above the members zero, the members distinct and the wave among them (R274, R275). -/
def gangMember (g i : Nat) : Nat := g / 2 ^ (8 + 4 * i) % 16

def GangWf (g index : Nat) : Prop :=
  2 ≤ g % 8 ∧ g % 8 ≤ 6 ∧ g / 16 % 8 + g % 8 ≤ 6 ∧ g / 8 % 2 = 0 ∧ g / 128 % 2 = 0 ∧ g < 2 ^ (8 + 4 * (g % 8)) ∧
    (∀ i j, i < g % 8 → j < g % 8 → gangMember g i = gangMember g j → i = j) ∧ ∃ i, i < g % 8 ∧ gangMember g i = index

/-- R276: GANGSET, with no block outstanding, puts 0 or a well-formed value into GANG; any other value traps MATRIX_GANG with reason 1
and GANG is as before. -/
def GangWord : Prop :=
  ∀ (a : SReg) (s : State), s.cw.region = none → s.cw.eng.queue = [] → s.Clean [a] →
    ((s.rs a = 0 ∨ GangWf (s.rs a).toNat s.cw.index) → ∃ t, exec (.gangset a) s = .next t ∧ SameMem s t ∧
      t = { s with cw := { s.cw.movedTo (s.cw.pc + 4) with gang := s.rs a } }) ∧
    (s.rs a ≠ 0 → ¬ GangWf (s.rs a).toNat s.cw.index → exec (.gangset a) s = .next (s.takeTrap { cause := 0x50, info := 1 }))

/-- The tile of a team after a word: every other tile and the rest of the team as before. -/
def tileNow (s t : State) (team : Team) (i : Nat) (val : Nat → BitVec 32) : Prop :=
  ∃ team' x, t.team? s.cw.team = some team' ∧ team' = { team with tiles := team.tiles.set i x } ∧ ∀ e < 2048, x.get e = val e

/-- A tile that a word reads or writes: no joint operation writes it, and no element is poisoned. -/
structure TileReady (s : State) (team : Team) (i : Nat) (x : Tile) : Prop where
  live : s.team? s.cw.team = some team
  tile : team.tiles[i]? = some x
  settled : ∀ j ∈ s.jointOps, j.team = team.uid → ∀ a ∈ j.members, a.tile ≠ i
  clean : ∀ e, .tileElem s.cw.team i e ∉ s.poison

/-- The element that a word takes out of a tile (R291): unchanged, or rounded from FP32 to FP16 or BF16. -/
def tileOut (s : State) (o : LaneOp) (x : Tile) (e : Nat) : FRes :=
  if o.ty = 0x8 ∨ o.ty = 0x9 then
    pack (laneFmt o) { rounding s o true with ftz := false, entry := bayer (e / 16 % 8) (e % 8) s.cw.dphase.toNat } (unpack fp32 (x.get e).toNat)
  else { code := (x.get e).toNat, flags := 0 }

/-- The state with DPHASE as AMOVR and ASTORE leave it (R42): one up when they round by DR. -/
def dithered (s : State) (o : LaneOp) : State :=
  if (o.ty = 0x8 ∨ o.ty = 0x9) ∧ (rounding s o true).mode = 5 then
    { s with cw := { s.cw with dphase := .ofNat 64 ((s.cw.dphase.toNat + 1) % 64) } }
  else s

/-- R281, R290, R291, R292: register j of a tile holds its elements 64j to 64j + 63, two a lane, or with a 16-bit type its elements 128j to
128j + 127, four a lane. AMOVR reads them, AMOVW writes those of its mask, AZERO makes every element 0. -/
def TileMoves : Prop :=
  ∀ (o : LaneOp) (s : State) (team : Team) (x : Tile),
    (LaneReady .amovr o s → TileReady s team o.a.toNat x →
      let n := if o.ty = 0x8 ∨ o.ty = 0x9 then 4 else 2
      let res := fun l h => tileOut s o x (32 * n * o.imm.toNat + n * l + h)
      ∃ t val, exec (.amovr o) s = .next t ∧
        HoldsLanes (dithered s o) t o.d (s.opMask o) val (flagsIn (s.opMask o) fun l => ((List.range n).map fun h => (res l h).flags).foldl (· ||| ·) 0) ∧
        ∀ l < 32, (s.opMask o).getLsbD l = true → ∀ h < n, elemOf (64 / n) (val l) h = (res l h).code % 2 ^ (64 / n)) ∧
    (LaneReady .amovw o s → TileReady s team o.d.toNat x →
      ∃ t, exec (.amovw o) s = .next t ∧ laneStepped s t ∧ SameMem s t ∧ tileNow s t team o.d.toNat fun e =>
        if e / 64 = o.imm.toNat ∧ (s.opMask o).getLsbD (e % 64 / 2) = true then .ofNat 32 (elemOf 32 (s.opA o (e % 64 / 2)) (e % 2)) else x.get e) ∧
    (LaneReady .azero o s → TileReady s team o.d.toNat x →
      ∃ t, exec (.azero o) s = .next t ∧ laneStepped s t ∧ SameMem s t ∧ tileNow s t team o.d.toNat fun _ => 0)

/-- R293: ASTORE of rows that do not overlap writes the 128 rows of a tile, row r at its base plus r times its stride, each element as AMOVR gives it,
little-endian; a misaligned base or stride traps MISALIGN, and when a unit fails its checks nothing is written. -/
def TileStore : Prop :=
  ∀ (o : LaneOp) (s u : State) (team : Team) (x : Tile) (rs : List (Nat × Resolved)), LaneReady .astore o s → s.cw.region = none →
    let base := s.snapshot o.b.toNat
    let n := if o.ty = 0x8 ∨ o.ty = 0x9 then 2 else 4
    let addr := fun k => base + o.imm.signExtend 64 * .ofNat 64 (k / n) + .ofNat 64 (16 * (k % n))
    let ls := rs.filterMap fun r => match r.2 with
      | .ok l => some (r.1, l)
      | _ => none
    ((base.toNat % 16 ≠ 0 ∨ o.imm.toNat % 16 ≠ 0) → s.team? s.cw.team = some team →
      exec (.astore o) s = .next (s.laneTrapped { cause := 0x06, addr := base, lanes := s.cp.mask, lane := true })) ∧
    (base.toNat % 16 = 0 → o.imm.toNat % 16 = 0 → TileReady s team o.a.toNat x → s.locateAll .store addr 16 (List.range (128 * n)) = (rs, u) →
      u.MemWf → lanesApart 16 ls → (∀ r ∈ rs, ∃ l, r.2 = .ok l ∧ plainAt u 16 l) →
      ∃ t, exec (.astore o) s = .next t ∧ t.cp.lpc = s.cp.lpc + 1 ∧ t.cw.v = s.cw.v ∧ t.cw.k = s.cw.k ∧ t.cw.q = s.cw.q ∧
        t.cw.dphase = (dithered s o).cw.dphase ∧
        t.cw.fstat = s.cw.fstat ||| .ofNat 64 (((List.range 2048).map fun e => (tileOut s o x e).flags).foldl (· ||| ·) 0) ∧
        ∀ space b, Memory.read (bytesOf t space) b = match ls.find? fun r =>
            (placeOf r.2).1 = space && (placeOf r.2).2 ≤ b && b < (placeOf r.2).2 + 16 with
          | some r =>
            let i := b - (placeOf r.2).2
            .ofNat 8 ((tileOut s o x (16 * (r.1 / n) + 16 / n * (r.1 % n) + i / n)).code / 256 ^ (i % n))
          | none => Memory.read (bytesOf u space) b) ∧
    (base.toNat % 16 = 0 → o.imm.toNat % 16 = 0 → TileReady s team o.a.toNat x → s.locateAll .store addr 16 (List.range (128 * n)) = (rs, u) →
      ∀ trap, lowestTrap rs = some trap →
      exec (.astore o) s = .next (s.laneTrapped { cause := trap.cause, addr := trap.addr, info := trap.info, lanes := s.cp.mask, lane := true }))

/-- R58, R259, R277 to R279: the INT8 product. Each element of a member's tile takes its old value plus the sum of 64 products of a row
of the A panel and a column of its B registers, modulo 2^32, and raises no flag. -/
def IntegerProduct : Prop :=
  ∀ (p : List Host.Cell) (pa : Nat) (amix : Bool) (b : List (List Word)) (band : Word) (old : Tile),
    let new := mjTile p pa 3 amix b band old
    new.2 = 0 ∧ ∀ m n, m < 128 → n < 16 → Tile.get { undef := none, cells := new.1 } (16 * m + n) =
      .ofInt 32 ((old.get (16 * m + n)).toInt + ((List.range 64).map fun k =>
        (Memory.read p (pa + 64 * m + 16 * (k / 16 ^^^ m % 4) + k % 16)).toInt *
          (BitVec.ofNat 8 (elemOf 8 (laneOf (b.getD (k / 16) []) (2 * (k % 16) + n / 8)) (n % 8))).toInt).sum)

/-- The arrival of an MJ's wave and the entry that it would open. -/
def arrivalOf (s : State) (o : LaneOp) : MjArrival :=
  { wave := s.cw.uid, path := s.cp.id, hand := s.cw.level == .handler, tile := o.d.toNat, tag := o.imm.toNat, breg := o.a.toNat,
    band := if LaneUC o then s.snapshot o.c.toNat else 0, since := s.time s.cw.dev, word := s.word,
    loose := (List.range (if o.ty = 0xC then 5 else 4)).any fun j => s.cw.loose.contains (o.a.toNat + j) }

/-- R276, R283 to R286: MJ, under the GANG value that its block was enqueued with. With GANG 0 it traps MATRIX_GANG with reason 5. Its path waits at the latch when it is the first member to come, or
when others are still to come; the arrival of the last one releases the operation: its entry is gone, the path goes on, and every
member's tile holds the product of its B registers with the panel. A member that differs in gang, type, panel or tile from the entry that it
joins makes every wave of the entry trap MATRIX_GANG with reason 2; a gang that names no live wave makes them trap it with reason 4. The
entry is gone then, and no tile has changed. A member comes to the entry of its gang, or else to the first one that names it. -/
def JointOperation : Prop :=
  ∀ (o : LaneOp) (s : State) (team : Team), LaneReady .mj o s → s.team? s.cw.team = some team →
    let g := s.blockGang
    let pa := s.snapshot o.b.toNat
    let size := if o.ty = 0xC then 10304 else 8192
    let panel := pa.toNat % 2 ^ 24
    let mine := s.latch.filter fun e => e.team = team.uid
    let a := arrivalOf s o
    let inside := 2 ^ 56 ≤ pa.toNat ∧ ((pa.toNat - 2 ^ 56) / 2 ^ 24 = 0 ∨ (pa.toNat - 2 ^ 56) / 2 ^ 24 = team.tpos + 1) ∧
      panel + size ≤ team.banks * 131072
    let ready := g.toNat % 8 ≠ 0 ∧ pa.toNat % 64 = 0 ∧ inside ∧ (∀ e, .tileElem s.cw.team o.d.toNat e ∉ s.poison) ∧
      (∀ x, .scratchWord s.cw.team x ∈ s.poison → x + 8 ≤ panel ∨ panel + size ≤ x) ∧
      (∀ e ∈ s.latch, e.uid < s.nextUid ∧ ∀ b ∈ e.arrivals, b.wave ≠ s.cw.uid)
    let fits := fun (e : LatchEntry) => e.gang = g ∧ e.ty = o.ty.toNat ∧ e.amix = decide (LaneX o % 2 = 1) ∧ e.pa = pa.toNat ∧
      ∀ b ∈ e.arrivals, b.tile ≠ a.tile
    let found := (mine.find? fun x => x.gang = g).or (mine.find? fun x => gangNames x.gang s.cw.index)
    let fails := fun (t : State) (before : List MjArrival) (reason : Word) => t.jointOps = s.jointOps ∧ t.teams = s.teams ∧ SameMem s t ∧
      ∀ b ∈ before ++ [a], (s.pathOf b.wave b.path b.hand).isSome = true → ∃ w, t.wave? b.wave = some w ∧
        ∃ x ∈ w.pending, x.cause = 0x50 ∧ x.info = reason ∧ x.lane = true
    let without := fun (e : LatchEntry) => s.latch.filter fun x => x.uid != e.uid
    let trapped := fun (cause : Nat) (addr info : Word) => exec (.mj o) s = .next (s.laneTrapped { cause, addr, info, lanes := s.cp.mask, lane := true })
    (g.toNat % 8 = 0 → trapped 0x50 0 5) ∧
    (g.toNat % 8 ≠ 0 → pa.toNat % 64 ≠ 0 → trapped 0x06 pa 0) ∧
    (g.toNat % 8 ≠ 0 → pa.toNat % 64 = 0 → ¬ inside → trapped 0x11 pa 0) ∧
    (ready → s.gangAlive team.uid g = true → g.toNat % 8 ≠ 1 → found = none →
      ∃ t e, exec (.mj o) s = .next t ∧ t.latch = s.latch ++ [e] ∧ e.arrivals = [a] ∧ e.team = team.uid ∧ fits { e with arrivals := [] } ∧
        t.cp.wait = .latch ∧ t.cp.lpc = s.cp.lpc ∧ t.cw.v = s.cw.v ∧ t.teams = s.teams ∧ SameMem s t) ∧
    (∀ e, ready → s.gangAlive team.uid g = true → found = some e → fits e →
      (e.arrivals.length + 1 ≠ g.toNat % 8 → ∃ t, exec (.mj o) s = .next t ∧ t.cp.wait = .latch ∧ t.cp.lpc = s.cp.lpc ∧ t.cw.v = s.cw.v ∧
        t.teams = s.teams ∧ SameMem s t ∧ t.latch = s.latch.map fun x => if x.uid = e.uid then { e with arrivals := e.arrivals ++ [a] } else x) ∧
      (e.arrivals.length + 1 = g.toNat % 8 → (∀ b ∈ e.arrivals ++ [a], s.blockOthers b = 0 ∧ b.tile < team.tiles.length) →
        (e.arrivals.Pairwise fun x y => x.tile ≠ y.tile) →
        ∃ t j team', exec (.mj o) s = .next t ∧ t.cp.lpc = s.cp.lpc + 1 ∧ t.cp.wait = .none ∧ t.cw.v = s.cw.v ∧ SameMem s t ∧
          t.latch = (s.latch.filter fun x => x.uid != e.uid) ∧ t.jointOps = s.jointOps ++ [j] ∧ j.members = e.arrivals ++ [a] ∧
          t.team? team.uid = some team' ∧ team' = { team with tiles := team'.tiles } ∧ ∀ b ∈ e.arrivals ++ [a], team'.tiles[b.tile]? =
            some { undef := none, cells := (mjTile team.scratch panel o.ty.toNat e.amix (s.mjOperands o.ty.toNat b).1 b.band
              (team.tiles.getD b.tile { undef := none, cells := [] })).1 })) ∧
    (∀ e, ready → found = some e → ¬ fits e → ∃ t, exec (.mj o) s = .next t ∧ t.latch = without e ∧ fails t e.arrivals 2) ∧
    (∀ e, ready → s.gangAlive team.uid g = false → found = some e → fits e →
      ∃ t, exec (.mj o) s = .next t ∧ t.latch = without e ∧ fails t e.arrivals 4) ∧
    (ready → s.gangAlive team.uid g = false → found = none → ∃ t, exec (.mj o) s = .next t ∧ t.latch = s.latch ∧ fails t [] 4)

/-- R286 to R289: MFENCE goes on once no result of its path is held, and of a team only the note of what no MFENCE has ordered changes; until then
nothing does. MWAIT goes on once none of the
operations of the wave with its tag, or with .all of the wave, that were under way when it issued is under way; until then its path holds
which they are. An operation completes in the order of the releases that share a slice with it: MJOPS counts its members, and tiles whose
operands stood are as they were written, while those of an operation whose operands were written meanwhile are undefined. -/
def MatrixWaits : Prop :=
  (∀ (o : LaneOp) (s : State),
    let mine := fun (j : JointOp) => ∃ a ∈ j.members, a.wave = s.cw.uid ∧ (LaneX o % 2 = 1 ∨ a.tag = o.imm.toNat)
    let busy := ∃ j ∈ s.jointOps, mine j ∧ ∀ us, s.cp.wait = .product us → j.uid ∈ us
    (LaneReady .mfence o s → s.cp.var = [] → ∃ t, exec (.mfence o) s = .next t ∧ LaneMoves { s with teams := t.teams } t ∧
      ∀ u x, s.team? u = some x → ∃ y, t.team? u = some y ∧ y = { x with unfenced := y.unfenced }) ∧
    (LaneReady .mfence o s → s.cp.var ≠ [] → exec (.mfence o) s = .next s) ∧
    (LaneReady .mwait o s → ¬ busy → ∃ t, exec (.mwait o) s = .next t ∧ LaneMoves s t) ∧
    (LaneReady .mwait o s → busy → ∃ t us, exec (.mwait o) s = .next t ∧ t = { s with cp := { s.cp with wait := .product us } } ∧
      ((∀ vs, s.cp.wait ≠ .product vs) → ∀ u, u ∈ us ↔ ∃ j ∈ s.jointOps, mine j ∧ j.uid = u) ∧ ∀ vs, s.cp.wait = .product vs → us = vs)) ∧
  (∀ (s : State) (j : JointOp) (c : Ctx), s.turn = .event (.jointOperationComplete j.uid) → s.jointOps.head? = some j →
    s.ctx? j.ctx = some c →
    ∃ t c', exec .jointOperationComplete s = .next t ∧
      t = { s with jointOps := s.jointOps.filter fun x => x.uid != j.uid, products := t.products, ctxs := t.ctxs, teams := t.teams, free := t.free } ∧
      t.ctx? j.ctx = some c' ∧ c' = { c with counters := { c.counters with mjops := c.counters.mjops + .ofNat 64 j.members.length } } ∧
      (j.dirty = false → j.dirtyTiles = [] → t.products = s.products ++ [j] ∧ t.teams = s.teams) ∧
      (j.dirty = true → ∀ x, s.team? j.team = some x → ∃ y n, t.team? j.team = some y ∧
        ∀ a ∈ j.members, a.tile < x.tiles.length → y.tiles[a.tile]? = some { undef := some n, cells := [] }))

/-- R10, R224, R284: 2^20 cycles at 600 MHz without release. A member at the latch leaves its entry and traps MATRIX_GANG with reason 3;
a path at a rendezvous slot traps RENDEZVOUS_TIMEOUT with the slot in HINFO. -/
def LaneTimeouts : Prop :=
  ∀ (s : State) (w : Wave), s.wave? w.uid = some w → w.uid ≠ 0 →
    let late := fun (since : Nat) => 2 ^ 20 * 1000 ≤ (s.time w.dev - since) * 600
    let pends := fun (t : State) (cause : Nat) (info : Word) => ∃ w' x, t.wave? w.uid = some w' ∧ w'.pending = w.pending ++ [x] ∧
      x.cause = cause ∧ x.info = info ∧ x.lane = true ∧ SameMem s t
    (∀ a, (s.latch.flatMap (·.arrivals)).find? (fun a => a.wave == w.uid) = some a → (s.pathOf w.uid a.path a.hand).isSome = true →
      s.turn = .event (.mjLatchTimeout w.uid) →
      (late a.since → ∃ t, exec .mjLatchTimeout s = .next t ∧ pends t 0x50 3 ∧ ∀ e ∈ t.latch, ∀ b ∈ e.arrivals, b.wave ≠ w.uid) ∧
      (¬ late a.since → exec .mjLatchTimeout s = .next s)) ∧
    (∀ path hand r since word, s.slotWaiter w.uid path = some (hand, r, since, word) → s.turn = .event (.rendezvousTimeout w.uid path) →
      (late since → ∃ t, exec .rendezvousTimeout s = .next t ∧ pends t 0x51 (.ofNat 64 (r % 8)) ∧ t.teams = s.teams) ∧
      (¬ late since → exec .rendezvousTimeout s = .next s))

/-! ## Events of waves (chapters 04, 06, 12 and 17) -/

/-- The class of a trap in the order of R389, and its age or batch within its class. -/
def trapClass (t : Trap) : Nat := if t.lane then 1 else if t.xfer then 2 else 0

def trapKey (t : Trap) : Nat := if trapClass t = 2 then t.info.toNat % 2 ^ 32 else t.seq

/-- R180, R387, R389: TRAP_ENTRY. At a scalar word boundary, a wait for a page among them, a wave on a core of a running context takes its
first due trap: those of its scalar side before those of its lanes and those of its copies, the oldest first, copies by batch; the
others stay pending. One of its lanes or copies is left to the turn of the wave's next word, where that word may issue, since its own trap
comes first. -/
def TrapEntries : Prop :=
  (∀ (w : Wave), w.level = .ordinary →
    (w.pending ≠ [] → w.dueTrap.isSome = true) ∧
    ∀ t, w.dueTrap = some t → t ∈ w.pending ∧
      ∀ x ∈ w.pending, trapClass t < trapClass x ∨ (trapClass t = trapClass x ∧ trapKey t ≤ trapKey x)) ∧
  (∀ (s : State) (w : Wave) (t : Trap) (k : Kernel) (h : Nat), s.Due (.trapEntry w.uid) → s.waves.find? (·.uid == w.uid) = some w →
    (s.focus w.uid).atBoundary w = true → w.dueTrap = some t → HasHandler (s.focus w.uid) k h →
    let left := (t.lane = true ∨ t.xfer = true) ∧ w.wait = none ∧ (s.focus w.uid).scalarReady w = true
    (left → exec .trapEntry s = .next (s.focus w.uid)) ∧
    (¬ left → ∃ u, exec .trapEntry s = .next u ∧ u.cw.pending.length + 1 = w.pending.length ∧
      EntersHandler { s.focus w.uid with cw := { w with pending := u.cw.pending } } u t w.pc k h))

/-- R145: HANDLER_SHARE_EXPIRE. After 1 ms at handler level a wave has no share of its own. -/
def HandlerShares : Prop :=
  ∀ (s : State) (w : Wave), s.Due (.handlerShareExpire w.uid) → w.uid ≠ 0 → s.wave? w.uid = some w →
    ∃ t, exec .handlerShareExpire s = .next t ∧ ChangesWave s t w.uid
      { w with entered := if w.level = .handler ∧ w.entered + 1000000 ≤ s.time w.dev + 1 then 0 else w.entered }

/-- R139, R174, R175: LANE_BLOCK_END. The running block of a wave on its core whose paths have all ended, with their results written,
leaves the queue; the next one, if there is one, starts with one path at its first word over the live lanes. -/
def LaneBlockEnds : Prop :=
  ∀ (s : State) (w : Wave), s.Due (.laneBlockEnd w.uid) → w.uid ≠ 0 → s.wave? w.uid = some w →
    ((w.st.onCore = false ∨ w.eng.running = false ∨ ∃ p ∈ w.eng.paths, p.ended = false ∨ p.var ≠ []) →
      ∃ t, exec .laneBlockEnd s = .next t ∧ ChangesWave s t w.uid w) ∧
    (w.st.onCore = true → w.eng.running = true → (∀ p ∈ w.eng.paths, p.ended = true ∧ p.var = []) →
      ∃ t eng, exec .laneBlockEnd s = .next t ∧ ChangesWave s t w.uid { w with eng } ∧ eng.queue = w.eng.queue.drop 1 ∧
        (eng.queue = [] → eng.running = false ∧ eng.paths = []) ∧
        ∀ b, eng.queue.head? = some b → eng.running = true ∧ ∃ p, eng.paths = [p] ∧ p.lpc = b.start ∧ p.mask = w.live ∧
          p.place = .slotA ∧ p.ended = (w.live == 0))

/-- R83, R289: LANE_RESULT_WRITE. The oldest held result of a path goes into its register: the lanes of its mask, with the bits that it
keeps, for a v register, the bits of its mask for a k register. A joint operation of which it is an operand is marked, and nothing else
outside the wave changes but tiles that the write leaves undefined. -/
def LaneResultWrites : Prop :=
  ∀ (s : State) (w : Wave) (p : Path) (r : VarPend) (rest : List VarPend), s.Due (.laneResultWrite w.uid p.id) → w.uid ≠ 0 →
    s.wave? w.uid = some w → w.eng.paths.find? (·.id == p.id) = some p → p.var = r :: rest →
    ∃ t w', exec .laneResultWrite s = .next t ∧ t.wave? w.uid = some w' ∧ (∀ v, v ≠ w.uid → t.wave? v = s.wave? v) ∧
      t = { s with waves := t.waves, jointOps := t.jointOps, latch := t.latch, products := t.products, teams := t.teams, free := t.free } ∧
      (s.jointOps = [] → s.latch = [] → s.products = [] → ChangesWave s t w.uid w') ∧
      (∀ n, r.reg = .v n → ∀ j ∈ t.jointOps, ∀ a ∈ j.members, a.wave = w.uid → a.breg ≤ n → n < a.breg + (if j.ty = 0xC then 5 else 4) →
        j.dirty = true) ∧ w' = { w with v := w'.v, k := w'.k, q := w'.q, eng := w'.eng } ∧
      w'.eng.paths.find? (·.id == p.id) = some { p with var := rest } ∧
      (∀ n, r.reg = .v n → n < 128 → w'.k = w.k ∧ w'.q = w.q ∧ ∀ m l, l < 32 → w'.lane m l =
        if m = n ∧ r.lanes.getLsbD l = true then (w.lane n l &&& r.keep) ||| (laneOf r.vals l &&& ~~~r.keep) else w.lane m l) ∧
      (∀ n, r.reg = .k n → w'.v = w.v ∧ w'.q = w.q ∧ ∀ m : KReg, w'.rk m =
        if m.toNat = n % 8 then (w.rk m &&& ~~~r.lanes) ||| ((r.vals.getD 0 0).setWidth 32 &&& r.lanes) else w.rk m) ∧
      (∀ n, r.reg = .q n → w'.v = w.v ∧ w'.k = w.k ∧ ∀ m : QReg, w'.rq m = if m.toNat = n % 8 then r.vals.getD 0 0 else w.rq m)

/-- R137, R141: FRAGMENT_RELOAD. A fragment whose record is loaded is resident again and its handle is gone; with none loading, a
spilled one takes a free entry of its core's split table. -/
def FragmentReloads : Prop :=
  ∀ (s : State) (dev core : Nat) (w : Wave) (p : Path), s.Due (.fragmentReload dev core) → w.uid ≠ 0 → s.wave? w.uid = some w →
    (∀ x ∈ s.fragmentsOn dev core (fun p => p.active && (p.place == .reloading || p.place == .spilled)), x = (w.uid, false, p)) →
    s.fragmentsOn dev core (fun p => p.active && (p.place == .reloading || p.place == .spilled)) ≠ [] →
    w.eng.paths.find? (·.id == p.id) = some p →
    (p.place = .reloading → ∃ t w', exec .fragmentReload s = .next t ∧ t.wave? w.uid = some w' ∧ w' = { w with eng := w'.eng } ∧
      w'.eng.paths.find? (·.id == p.id) = some { p with place := .fragment, spill := 0 } ∧
      t.handles = s.handles.map fun e =>
        if e.ctx = w.ctx ∧ e.word = .ofNat 32 p.spill ∧ e.obj ≠ none then { e with obj := none, kind := 0, gen := e.gen + 1 } else e) ∧
    (p.place = .spilled → s.splitUsed dev core < 64 → ∃ t w', exec .fragmentReload s = .next t ∧ ChangesWave s t w.uid w' ∧
      w' = { w with eng := w'.eng } ∧ w'.eng.paths.find? (·.id == p.id) = some { p with place := .reloading })

end Sys2Proof.Claims

/-- Events of waves and their lanes: the statements named. -/
def Obligations.WaveEvents : Prop := TrapEntries ∧ HandlerShares ∧ LaneBlockEnds ∧ LaneResultWrites ∧ FragmentReloads

/-! ## Events of copies and tensors (chapters 11 and 16) -/

namespace Sys2Proof.Claims

/-- R261, R262: COPY_START. The only copy queued on a hoop whose wave stands on a core of a running context starts on a free engine of
the core's hoop; a copy whose engines are both taken, or whose wave is not on a core, stays as it is. -/
def CopyStarts : Prop :=
  ∀ (s : State) (c : Copy) (w : Wave), s.Due (.copyStart c.uid) → s.copies = [c] → c.st = .queued → c.job ≠ .tconv →
    (c.job = .tload → c.readGen.isSome = true) → s.wave? c.wave = some w →
    (w.st.onCore = true → s.ctxRuns w.ctx = true → c.bitmap.clr = false →
      exec .copyStart s = .next { s with copies := [{ c with st := .started, hoop := w.core / 8, engine := 1, cleared := true, restart := false }] }) ∧
    ((w.st.onCore = false ∨ s.ctxRuns w.ctx = false) → exec .copyStart s = .next s)

/-- R261, R262: no hoop has more than two copies on its engines through a start. -/
def CopyEngines : Prop :=
  ∀ (s t : State) (u dev hoop : Nat), s.Due (.copyStart u) → exec .copyStart s = .next t →
    (s.copies.map (·.uid)).Nodup →
    (s.copies.filter fun c => c.dev == dev && c.hoop == hoop && c.onEngine).length ≤ 2 →
    (t.copies.filter fun c => c.dev == dev && c.hoop == hoop && c.onEngine).length ≤ 2

/-- R264, R269: CHUNK_COMPLETE of a copy between the scratchpads of one team. The bytes of the chunk are written, each from its source,
every other byte of the scratchpad is as before, and no tile changes unless an unawaited product's panel was written; the chunk counts,
and the copy is done with its last one. -/
def CopyChunks : Prop :=
  ∀ (s : State) (c : Copy) (k : Nat) (team : Team) (x : Ctx) (src dst : Nat → Nat), s.Due (.chunkComplete c.uid k) →
    s.copy? c.uid = some c → c.job = .copy → c.st = .started → c.chunks.contains k = false → c.bitmap.en = false →
    s.poison = [] → s.team? team.uid = some team → Memory.wf team.scratch = true → c.team = team.uid → (∀ y ∈ c.written, y.1 ≠ k) →
    team.uid ≠ 0 → s.ctx? c.ctx = some x → x.st ≠ .terminating →
    let d := copyDesc c.words none
    let ns := (List.range (min 512 (d.total - 512 * k))).map (512 * k + ·)
    512 * k < d.total → d.red = 0 → d.overlapping = false →
    (∀ n, n < d.total → ∃ a, d.srcAt (fun _ => 0) n = some a ∧ s.locate (s.engineWave c) .load a 1 = (.ok (.scratch team.uid (src n)), s)) →
    (∀ n ∈ ns, s.locate (s.engineWave c) .store (d.dstAt n) 1 = (.ok (.scratch team.uid (dst n)), s)) →
    (∀ m n, m < d.total → n ∈ ns → src m ≠ dst n) →
    ∃ t team' c', exec .chunkComplete s = .next t ∧ t.team? team.uid = some team' ∧
      team' = { team with scratch := team'.scratch, tiles := team'.tiles, unfenced := team'.unfenced } ∧ (s.products = [] → team'.tiles = team.tiles) ∧
      (∀ b, Memory.read team'.scratch b = match ns.reverse.find? fun n => dst n == b with
        | some n => Memory.read team.scratch (src n)
        | none => Memory.read team.scratch b) ∧ SameMem s t ∧
      t.copy? c.uid = some c' ∧ c'.chunks = k :: c.chunks ∧ c'.st = if c.chunks.length + 1 = (d.total + 511) / 512 then .done else .started

/-- R109, R246, R269: any chunk that an engine moves counts its bytes in XBYTES and sets its bit; the last one ends the transfer. An aligned
word of a chunk may be written before the rest. -/
def ChunkCounts : Prop :=
  ∀ (s u : State) (c : Copy) (k n : Nat), s.copy? c.uid = some c → s.chunkDue c k = true →
    (s.Due (.chunkComplete c.uid k) → (engChunk c k none).run s = .ok n u → exec .chunkComplete s = .next (u.chunkDone c k n)) ∧
    ∀ x, s.Due (.chunkWord c.uid k x) → (engChunk c k (some x)).run s = .ok n u → exec .chunkComplete s = .next (u.wordDone c k x n)

/-- R261, R267: COPY_STOP. A chunk whose access fails stops its copy there, its engine is free, and its wave has a pending trap of a
copy with the cause and the address, bit 63 and the batch in HINFO. -/
def CopyStops : Prop :=
  ∀ (s u : State) (c : Copy) (w : Wave) (k : Nat) (trap : Trap), s.Due (.copyStop c.uid k) → s.copy? c.uid = some c → c.uid ≠ 0 →
    c.wave ≠ 0 → s.chunkDue c k = true → (engChunk c k none).run s = .error (.bad trap) u → s.wave? c.wave = some w → s.ended c.wave = false →
    ∃ t w' x c', exec .copyStop s = .next t ∧ SameMem s t ∧ t.teams = s.teams ∧ t.copy? c.uid = some c' ∧ c'.st = .stopped ∧ c'.stopChunk = k ∧
      c'.engine = 0 ∧ c'.chunks = c.chunks ∧ t.wave? c.wave = some w' ∧ w'.pending = w.pending ++ [x] ∧ x.cause = trap.cause ∧
      x.addr = trap.addr ∧ x.xfer = true ∧ x.copy = c.uid ∧ x.info.toNat / 2 ^ 63 = 1 ∧ x.info.toNat % 2 ^ 32 = c.batch % 2 ^ 32

/-- R246: what a copy has written under a chunk's bit, and loads need not see yet, is visible before any turn but that of a scalar word that
orders nothing (log entry 6). -/
def LateWords : Prop :=
  ∀ s t : State, s.turn = .idle → step s = .next t → t.late = [] ∨ t.turnOrdersNothing = true

end Sys2Proof.Claims

/-- The copy engines: the statements named. It rests on choices of the model: log entry 6. -/
def Obligations.CopyEvents : Prop := CopyStarts ∧ CopyEngines ∧ CopyChunks ∧ ChunkCounts ∧ CopyStops ∧ LateWords

/-- R367, R371: TLOAD_READ_POINT fixes the generation that a queued TLOAD reads once the tensor's has reached its least one. TCONV on a
mesh of one device: the check starts it once its tensor is sealed, the commit brings in the new words and the next generation at
once, and the retirement, with no TLOAD of the old generation in flight, ends the lock and the copy. -/
def Obligations.ConversionEvents : Prop :=
  ∀ (s : State) (c : Copy) (x : Tensor), s.copy? c.uid = some c → c.tensor = x.uid → s.tensor? x.uid = some x →
    let copyIs := fun (t : State) (c' : Copy) => t.copies = s.copies.map fun y => if y.uid = c.uid then c' else y
    ((s.copies.map (·.uid)).Nodup) →
    (s.Due (.tloadReadPoint c.uid) → c.job = .tload → c.st = .queued → c.readGen = none →
      let least := (c.words.getD 4 0).toNat / 2 ^ 32
      (least ≤ x.gen → ∃ t, exec .tloadReadPoint s = .next t ∧ t = { s with copies := t.copies } ∧ copyIs t { c with readGen := some x.gen }) ∧
      (x.gen < least → exec .tloadReadPoint s = .next s)) ∧
    (c.job = .tconv → s.meshTensors x = [some x] → s.convOf x = some c →
      (s.Due (.tconvCheck c.uid) → c.phase = 0 → c.st = .queued → s.waveThere c = true →
        (x.sealed = true → ∃ t, exec .tconvCheck s = .next t ∧ t = { s with copies := t.copies } ∧
          copyIs t { c with phase := 1, st := .started, readGen := some x.gen }) ∧
        (x.sealed = false → exec .tconvCheck s = .next s)) ∧
      (s.Due (.tconvCommit c.uid) → c.phase = 1 → c.st = .started →
        (c.chunks.length = (s.copyTotal c + 511) / 512 → ∃ t x', exec .tconvCommit s = .next t ∧ t = { s with tensors := t.tensors, copies := t.copies } ∧
          t.tensor? x.uid = some x' ∧ x' = { x with words := convWords x.words c.words, gen := (x.gen + 1) % 2 ^ 32 } ∧
          copyIs t { c with phase := 2, words := c.words ++ x.words }) ∧
        (c.chunks.length ≠ (s.copyTotal c + 511) / 512 → exec .tconvCommit s = .next s)) ∧
      (s.Due (.tconvRetire c.uid) → c.phase = 2 → c.inFlight = true → some x.gen ≠ c.readGen → c.readGen.isSome = true →
        let late := ∃ y ∈ s.copies, y.job = .tload ∧ y.inFlight = true ∧ y.readGen = c.readGen ∧ y.tensor = x.uid
        (¬ late → ∀ k, s.ctx? c.ctx = some k → k.st ≠ .terminating → ∃ t x', exec .tconvRetire s = .next t ∧ SameMem s t ∧
          t.tensor? x.uid = some x' ∧ x' = { x with sealed := false, locked := [] } ∧ t.copy? c.uid = some { c with st := .done, engine := 0, peerWait := none }) ∧
        (late → exec .tconvRetire s = .next s)))

/-! ## Events of timers, watches, names, tiles and censuses (chapters 14 and 16) -/

namespace Sys2Proof.Claims

/-- R319, R321, R322: an armed timer whose deadline has come fires while its context's events are recorded: one-shot, once, and it is
disarmed; periodic, once for each deadline passed, its next one still to come. A watch whose comparison holds of a word that its context
may still read matches, at its home agent or polled. -/
def TimersAndWatches : Prop :=
  (∀ (s : State) (x : Timer), s.Due (.timerFire x.uid) → s.timer? x.uid = some x →
    let now := s.time x.dev
    ∃ t y, exec .timerFire s = .next t ∧ t = { s with timers := t.timers } ∧ t.timer? x.uid = some y ∧
      y = { x with armed := y.armed, firings := y.firings, deadline := y.deadline } ∧
      ((s.recordsEvents x.ctx = false ∨ x.armed = false ∨ now < x.deadline.toNat) → y = x) ∧
      (s.recordsEvents x.ctx = true → x.armed = true → x.deadline.toNat ≤ now →
        (x.period = 0 → y = { x with armed := false, firings := x.firings + 1 }) ∧
        (x.period ≠ 0 → now + x.period.toNat < 2 ^ 64 → y.armed = true ∧ now < y.deadline.toNat ∧
          y.deadline.toNat ≤ now + x.period.toNat ∧ y.deadline.toNat = x.deadline.toNat + (y.firings - x.firings) * x.period.toNat))) ∧
  (∀ (s : State) (x : Watch), s.watch? x.uid = some x →
    let holds := s.watchReads x && x.holds s.mem
    (s.Due (.watchMatch x.uid) → ∃ t, exec .watchMatch s = .next t ∧ t = { s with watches := t.watches } ∧
      t.watch? x.uid = some { x with matched := x.matched || (!x.polled && holds) }) ∧
    (s.Due (.watchPoll x.uid) → ∃ t, exec .watchPoll s = .next t ∧ t = { s with watches := t.watches } ∧
      t.watch? x.uid = some (if x.polled then
        { x with matched := x.matched || holds, polledAt := ((s.ctx? x.ctx).map fun c => s.time c.dev).getD 0 } else x)))

/-- R311, R345: NAME_REHOME. Every partition that changes to or from the domain is in its new domain, and no other changes. A page lent to a
device that has no partition left in its owner's domain is lost to its holder; nothing else changes of the loans. -/
def NamesRehomed : Prop :=
  ∀ (s : State) (domain : Nat), s.Due (.nameRehome domain) →
    ∃ t, exec .nameRehome s = .next t ∧ t = { s with parts := t.parts, lent := t.lent } ∧ t.parts.length = s.parts.length ∧
      t.lent = (s.lent.map fun l =>
        if ∃ p ∈ t.parts, p.dev = l.holder ∧ p.domain = t.domainOf l.dev (t.frameCode l.dev (l.addr / 65536)).toNat then l
        else { l with lost := true }) ∧
      ∀ (i : Nat) (p : Part), s.parts[i]? = some p → t.parts[i]? = some (match p.nextDomain with
        | some d => if d = domain ∨ p.domain = domain then { p with domain := d, nextDomain := none } else p
        | none => p)

/-- R377, R379: CENSUS_BROADCAST_ARRIVE at a core of its asker's device that the broadcast has not reached. With no entry of the key
there the core is reached; an entry of the key records the census and, with a responder entry in its kernel, is matched once and a
responder is queued; one whose list is full holds the broadcast back. -/
def CensusBroadcasts : Prop :=
  ∀ (s : State) (c : Census) (core : Nat), s.Due (.censusBroadcastArrive c.uid c.dev core) → s.census? c.uid = some c → core < 512 →
    c.mesh = none → c.st = .collecting → c.targets = [c.dev] → (c.dev * 512 + core) ∉ c.reached → s.memberDrains c c.dev = false →
    (∀ e ∈ s.tiles, e.dest = none) → (s.tiles.map (·.uid)).Nodup →
    let here := s.tiles.filter fun e => e.dev = c.dev ∧ e.core = core ∧ e.ctx = c.ctx ∧ e.st ≠ .dropping ∧ e.key &&& c.mask = c.key &&& c.mask ∧
      c.uid ∉ e.list
    (here = [] → ∃ t, exec .censusBroadcastArrive s = .next t ∧ t = { s with censuses := t.censuses, tiles := t.tiles } ∧ t.tiles = s.tiles ∧
      t.census? c.uid = some { c with reached := (c.dev * 512 + core) :: c.reached }) ∧
    (∀ e x k, here = [e] → e.list.length < 8 → (∀ m ∈ s.responders, m.uid < s.nextUid) → s.ctx? e.ctx = some x → x.kernel? e.kernel = some k → c.resp < k.responders.length →
      ∃ (t : State) (m y : Match), exec .censusBroadcastArrive s = .next t ∧ SameMem s t ∧ t.tile? e.uid = some { e with list := e.list ++ [c.uid] } ∧
        t.census? c.uid = some { c with matched := c.matched + 1, reached := (c.dev * 512 + core) :: c.reached } ∧
        t.responders = s.responders ++ [m] ∧ m = { y with spawned := m.spawned, handle := m.handle } ∧ y.census = c.uid ∧ y.tile = e.uid ∧ y.addr = e.addr ∧
        y.core = core ∧ y.ended = false) ∧
    (∀ e, e ∈ here → 8 ≤ e.list.length → exec .censusBroadcastArrive s = .next s)

/-- R381, R382, R383: CENSUS_COMPLETE. A census that every core of its targets has seen, with every match answered, ends with its status:
the value, 0 without a reply, and the count of replies are stored at its result, in either order or together, and every list drops its
id. A result that the tables admit and a peer refuses is stored nowhere, and the census ends with a write fault. While a core or a reply is
still to come, from devices that answer, nothing changes. -/
def CensusEnds : Prop :=
  ∀ (s : State) (c : Census), s.Due (.censusComplete c.uid) → s.census? c.uid = some c → c.st = .collecting → c.abort = false →
    (∀ e ∈ s.tiles, e.dest = none) → c.owner = true → s.MemWf →
    let seen := ∀ d ∈ c.targets, ∀ k < 512, (d * 512 + k) ∈ c.reached
    (seen → c.replies = c.matched → ∀ p page u, (s.draw.2.translate (s.engineOf c.ctx) .store c.result.toNat false) = (.at p page, u) →
      let combines := fun (v : Word) => (c.values = [] → v = 0) ∧ (∀ x, c.values = [x] → v = x) ∧
        (c.comb = 0 → v = c.values.foldl (· + ·) 0)
      let stores := fun (t : State) (v : Word) (first second : Bool) => ∀ b, Memory.read t.mem b =
        if first = true ∧ p ≤ b ∧ b < p + 8 then BitVec.ofNat 8 ((if c.replies = 0 then 0 else v.toNat) / 256 ^ (b - p))
        else if second = true ∧ p + 8 ≤ b ∧ b < p + 16 then BitVec.ofNat 8 (c.replies / 256 ^ (b - p - 8)) else Memory.read u.mem b
      let ends := fun (t : State) => exec .censusComplete s = .next t ∧
        t.census? c.uid = some { c with st := .complete, values := [], writeFault := false } ∧ ∀ e ∈ t.tiles, c.uid ∉ e.list
      (c.part = none → s.draw.2.resultLands (s.engineOf c.ctx) p = true → u.resultLands (s.engineOf c.ctx) p = true →
        if Config.pick s.free % 3 = 2 then ∃ (t : State) (v : Word), ends t ∧ combines v ∧ stores t v true true
        else ∃ (t : State) (v : Word) (second : Bool), exec .censusComplete s = .next t ∧
          combines v ∧ t.census? c.uid = some { c with part := some (second, v) } ∧ stores t v (!second) second) ∧
      (∀ second v, c.part = some (second, v) → u.resultLands (s.engineOf c.ctx) p = true → ∃ t, ends t ∧ stores t v second (!second)) ∧
      (u.resultLands (s.engineOf c.ctx) p = false → Config.pick s.free % 3 = 2 → ∃ t, exec .censusComplete s = .next t ∧ SameMem u t ∧
        t.census? c.uid = some { c with st := .complete, values := [], writeFault := true })) ∧
    ((∀ d ∈ c.targets, s.reachable c.dev d = true) → (¬ seen ∨ c.replies ≠ c.matched) → exec .censusComplete s = .next s)

/-- R376, R377: TMOVE_COMMIT. A moving entry whose broadcasts in progress have reached its source core stands at its destination, active, at
its new address, and the wave that waits for the commit of its move, also one that has left the wait for its handler, knows of it; until then it
stays. -/
def TileMovesCommit : Prop :=
  ∀ (s : State) (e : TileEnt) (core : Nat) (addr : Word) (before : List Nat), s.Due (.tmoveCommit e.uid) → s.tile? e.uid = some e →
    e.st = .moving → e.dest = some (core, addr, before, []) → e.list.length ≤ 8 →
    let open' := ∃ x ∈ before, ∃ c, s.census? x = some c ∧ c.st = .collecting ∧ (e.dev * 512 + e.core) ∉ c.reached
    (¬ open' → ∃ t, exec .tmoveCommit s = .next t ∧ t = { s with tiles := t.tiles, waves := t.waves } ∧
      t.tile? e.uid = some { e with core, addr, st := .active, dest := none } ∧
      let tells := fun (r : WaitRec) => if r.kind = .move ∧ r.obj = e.uid then { r with kind := .moved } else r
      ∀ v w, v ≠ 0 → s.wave? v = some w → t.wave? v = some { w with wait := w.wait.map tells, abandoned := w.abandoned.map tells }) ∧
    (open' → exec .tmoveCommit s = .next s)

end Sys2Proof.Claims

/-- Events of objects: the statements named. -/
def Obligations.ObjectEvents : Prop :=
  TimersAndWatches ∧ NamesRehomed ∧ CensusBroadcasts ∧ CensusEnds ∧ TileMovesCommit

/-! ## The dispatcher (chapters 05 and 06) -/

namespace Sys2Proof.Claims

/-- The fields of a launch record (R120): the words of its message. -/
def recordField (r : List Word) (w lo n : Nat) : Nat := (r.getD w 0).toNat / 2 ^ lo % 2 ^ n

/-- R121: the status with which a record ends at once, and 0 for one that starts. -/
def RecordStatuses : Prop :=
  ∀ (s : State) (c : Ctx) (r : List Word), r.length = 16 →
    let grid := recordField r 1 0 16 * recordField r 1 16 16 * recordField r 1 32 16
    let reserved := recordField r 0 8 8 ≠ 0 ∨ recordField r 0 25 39 ≠ 0 ∨ recordField r 1 48 16 ≠ 0 ∨ recordField r 3 32 32 ≠ 0 ∨
      r.getD 13 0 ≠ 0 ∨ r.getD 14 0 ≠ 0 ∨ r.getD 15 0 ≠ 0
    let bad := reserved ∨ grid = 0 ∨ recordField r 2 0 6 ≠ 0
    (bad → s.recordStatus c r = 1) ∧
    (¬ bad → c.kernel? (recordField r 0 0 8) = none → s.recordStatus c r = 2) ∧
    (¬ bad → ∀ k, c.kernel? (recordField r 0 0 8) = some k →
      (2 ^ 32 ≤ grid * k.rows * k.cols → s.recordStatus c r = 1) ∧
      (grid * k.rows * k.cols < 2 ^ 32 - 1 → k.entries.length ≤ recordField r 0 16 8 → s.recordStatus c r = 2) ∧
      (grid * k.rows * k.cols < 2 ^ 32 - 1 → recordField r 0 16 8 < k.entries.length →
        s.recordStatus c r = if s.anyPlace c.dev (s.recordMask c r) k then 0 else 3))

/-- R121, R122, R123: LAUNCH_RECORD_HEAD. The record at the head of a launch port of a context that may run is taken. A bad one ends at
once with its status and no team; a good one under ORDER waits until the port's earlier launches are over, with their stores performed and no
copy of a wave of theirs under way. -/
def LaunchHeads : Prop :=
  ∀ (s : State) (p : Port) (m : Msg) (rest : List Msg) (c : Ctx), s.Due (.launchRecordHead p.uid) → s.port? p.uid = some p →
    p.launch = true → p.st = .opened → p.queue = m :: rest → m.via = none → s.ctx? p.ctx = some c → s.placeable c.uid = true →
    (∀ l ∈ s.launches, l.uid < s.nextUid) →
    let status := s.recordStatus c m.words
    let earlier := ∃ l ∈ s.launches, l.port = p.uid ∧ s.launchQuiet l = false
    (status = 0 → recordField m.words 0 24 1 = 1 → earlier → exec .launchRecordHead s = .next s) ∧
    (status ≠ 0 → ∃ t l, exec .launchRecordHead s = .next t ∧
      t = { s with launches := s.launches ++ [l], ports := t.ports, nextUid := s.nextUid + 1 } ∧
      t.port? p.uid = some { p with queue := rest } ∧ l.status = status ∧ l.complete = true ∧ l.teams = 0 ∧ l.record = m.words ∧
      l.done = s.time c.dev)

/-- R125, R130: the entry state of the waves of a launch: the wave of index i in the team at position p of cluster n. -/
def EntryState (r : List Word) (c : Ctx) (k : Kernel) (n p i : Nat) (w : Wave) : Prop :=
  let teams := k.rows * k.cols
  let gx := recordField r 1 0 16
  let gy := recordField r 1 16 16
  w.index = i ∧ w.tpos = p ∧ w.clusterIndex = .ofNat 32 n ∧ w.teamIndex = .ofNat 32 (n * teams + p) ∧
    w.gridpos = .ofNat 64 (n % gx + n / gx % gy * 2 ^ 16 + n / (gx * gy) * 2 ^ 32) ∧
    w.rs 1 = r.getD 2 0 ∧ w.rs 2 = .ofNat 64 i ∧ w.rs 3 = .ofNat 64 (n * teams + p) ∧ w.rs 4 = .ofNat 64 n ∧
    w.rs 5 = .ofNat 64 (gx * gy * recordField r 1 32 16 * teams) ∧ w.rs 6 = .ofNat 64 (2 ^ 56) ∧ w.rs 7 = .ofNat 64 (recordField r 3 0 32) ∧
    w.rs 61 = .ofNat 64 (c.spillBase + w.slot * c.slotSize + k.spill) ∧ w.slot ∉ c.slotsUsed ∧
    (∀ x : SReg, 8 ≤ x.toNat → x ≠ 61 → w.rs x = 0) ∧ w.pc = .ofNat 64 (k.sbase + 4 * k.entries.getD (recordField r 0 16 8) 0) ∧
    w.k = .replicate 8 0 ∧ w.q = .replicate 8 0 ∧ w.fstat = 0 ∧ w.fmode = 0 ∧ w.live = BitVec.allOnes 32 ∧ w.level = .ordinary

/-- R125, R130, R132: a good record of a kernel of one team and one wave. Its launch begins with cluster 0, which stands in a run list,
or behind a full one in the object table. -/
def LaunchStarts : Prop :=
  ∀ (s : State) (p : Port) (m : Msg) (rest : List Msg) (c : Ctx) (k : Kernel), s.Due (.launchRecordHead p.uid) → s.port? p.uid = some p →
    p.launch = true → p.st = .opened → p.queue = m :: rest → m.via = none → s.ctx? p.ctx = some c → s.placeable c.uid = true →
    (∀ l ∈ s.launches, l.uid < s.nextUid ∧ (l.port = p.uid → s.launchQuiet l = true)) → s.UidsGiven → (∀ x ∈ s.clusters, x.launch ≠ some s.nextUid) → s.recordStatus c m.words = 0 →
    c.kernel? (recordField m.words 0 0 8) = some k → k.rows = 1 → k.cols = 1 → k.waves = 1 → s.roomForWaves c 1 = true →
    ∃ t l w x, exec .launchRecordHead s = .next t ∧ t.port? p.uid = some { p with queue := rest } ∧ SameMem s t ∧
      t.launches = s.launches ++ [l] ∧ l.record = m.words ∧ l.since = m.stamp ∧ l.complete = false ∧ l.next = 1 ∧ l.created = 1 ∧ l.prio = .ofNat 3 p.prio ∧
      t.waves = s.waves ++ [w] ∧ EntryState m.words c k 0 0 0 w ∧ w.launch = some l.uid ∧ w.prio = l.prio ∧
      t.clusters = s.clusters ++ [x] ∧ x.launch = some l.uid ∧ x.teams = [w.team] ∧ x.since = m.stamp ∧
      ((x.st = .inRunList ∧ w.st = .ready) ∨ (x.st = .inTable ∧ w.st = .created))

/-- R132, R133, R142: RUN_LIST_ADMIT. A cluster that waits in the object table enters the run list of its hoop once that has room and none
of its level came before it: its waves are ready. One that was evicted enters once no copy of it runs, behind those that wait. An entry
that only another hoop can take goes to that hoop. -/
def RunLists : Prop :=
  ∀ (s : State) (c : Cluster), s.Due (.runListAdmit c.uid) → s.cluster? c.uid = some c → s.placeable c.ctx = true →
    let used := (s.clusters.filter fun x => x.dev == c.dev && x.home == c.home && x.st == .inRunList).length
    let ahead := fun (n : Nat) => ∃ x ∈ s.clusters, x.uid ≠ c.uid ∧ x.dev = c.dev ∧ x.home = c.home ∧ x.st = .inTable ∧ x.prio = c.prio ∧ x.arrival < n
    let now := s.waves.map fun w => if w.team ∈ c.teams ∧ w.st ≠ .exited then { w with st := .ready } else w
    let corners := s.cornersFor c (s.clusterMask c)
    (c.st = .inTable →
      (used < 2048 → ¬ ahead c.arrival → ∃ t, exec .runListAdmit s = .next t ∧
        t = { s with clusters := t.clusters, waves := now, ctxs := t.ctxs } ∧ t.cluster? c.uid = some { c with st := .inRunList }) ∧
      ((2048 ≤ used ∨ ahead c.arrival) → exec .runListAdmit s = .next s)) ∧
    (c.st = .parked → s.clusterSaving c = true → exec .runListAdmit s = .next s) ∧
    (c.st = .parked → s.clusterSaving c = false → (hoopsFor (s.clusterMask c) c.rows c.cols c.lc1).contains c.home = true →
      ∃ t, exec .runListAdmit s = .next t ∧
        (used < 2048 → ¬ ahead s.nextUid → t = { s with clusters := t.clusters, waves := now, ctxs := t.ctxs, nextUid := s.nextUid + 1 } ∧
          t.cluster? c.uid = some { c with st := .inRunList, arrival := s.nextUid }) ∧
        ((2048 ≤ used ∨ ahead s.nextUid) → t = { s with clusters := t.clusters, nextUid := s.nextUid + 1 } ∧
          t.cluster? c.uid = some { c with st := .inTable, arrival := s.nextUid })) ∧
    (c.st = .inRunList → ((∃ y ∈ corners, y / 8 = c.home) ∨ c.hold.isSome = true ∨ corners = []) →
      exec .runListAdmit s = .next { s with free := s.free + 1 }) ∧
    (c.st = .inRunList → corners ≠ [] → (∀ y ∈ corners, y / 8 ≠ c.home) → c.hold = none →
      ∃ t x, exec .runListAdmit s = .next t ∧ SameMem s t ∧ t.cluster? c.uid = some x ∧ (∃ y ∈ corners, x.home = y / 8) ∧
        (x.st = .inRunList ∨ x.st = .inTable) ∧ x.since = c.since) ∧
    (c.st = .placed → exec .runListAdmit s = .next s)

/-- R129, R130, R133, R142: CLUSTER_PLACE. The best placeable cluster takes a rectangle of its hoop that is free with its
banks: its teams stand on the rectangle's cores in the order of TPOS, and their waves are resident, at the level that they held. Work that another goes before
stays. -/
def Placements : Prop :=
  ∀ (s : State) (c : Cluster) (corner : Nat) (cores : List Nat), s.Due (.clusterPlace c.uid corner) → s.cluster? c.uid = some c →
    rectangle corner c.rows c.cols c.lc1 = some cores → (c.launch = none ∨ c.fresh = false) → c.teams.length = cores.length → c.teams.Nodup →
    s.creditRounds c.dev (((s.ctx? c.ctx).map (·.func)).getD 0) = s → (∀ x ∈ s.teams, ∀ y ∈ s.teams, x.uid = y.uid → x = y) →
    let ready := c.st = .inRunList ∧ s.placeable c.ctx = true ∧ s.launchTurn c = true ∧ corner / 8 = c.home ∧ (c.hold = none ∨ c.hold = some corner) ∧
      s.fits c.dev c.uid (s.clusterMask c) (s.needOf c) cores = true
    (ready → s.isBest c = true → s.banksFit c.dev cores (s.needOf c) false = true →
      ∃ t, exec .clusterPlace s = .next t ∧ SameMem s t ∧
        t.cluster? c.uid = some { c with st := .placed, corner, home := corner / 8, hold := none, fresh := false } ∧
        (∀ (i u : Nat) (x : Team), c.teams[i]? = some u → s.team? u = some x → ∃ core, cores[i]? = some core ∧ t.team? u = some { x with core }) ∧
        ∀ (i u : Nat) (w : Wave), c.teams[i]? = some u → w ∈ s.waves → w.team = u → w.st ≠ .exited → ∃ core, cores[i]? = some core ∧
          { w with core, st := if w.level = .handler then .handler else .resident } ∈ t.waves) ∧
    ((¬ ready ∨ s.isBest c = false) → exec .clusterPlace s = .next s)

/-- R127, R128: the rectangles. With LC0 the cores of rows × cols consecutive hoops and columns of one die; with LC1 the columns of a die
pair; `none` where it leaves them. -/
def Rectangles : Prop :=
  ∀ (corner rows cols i j : Nat), corner < 512 → i < rows → j < cols →
    (∀ cores, rectangle corner rows cols false = some cores → corner % 8 + cols ≤ 8 ∧ corner / 8 % 8 + rows ≤ 8 ∧ cores.length = rows * cols ∧
      cores[i * cols + j]? = some (corner + 8 * i + j)) ∧
    (rectangle corner rows cols false = none → 8 < corner % 8 + cols ∨ 8 < corner / 8 % 8 + rows) ∧
    (∀ cores, rectangle corner rows cols true = some cores →
      let col := 8 * (corner / 64 % 2) + corner % 8 + j
      cores[i * cols + j]? = some (corner / 128 * 128 + 64 * (col / 8) + 8 * (corner / 8 % 8 + i) + col % 8))

/-- R146, R147: PREEMPTION for a waiting cluster of a launch. The victim loses the cores of the hoops that the preferred rectangle
touches, its clusters there without a handler are evicted, and the cluster holds the rectangle; a launch that is no victim stays. -/
def Preemptions : Prop :=
  ∀ (s : State) (v own : Launch) (c : Cluster) (corner : Nat) (cores : List Nat), s.Due (.preemption v.uid c.uid corner) →
    s.launch? v.uid = some v → s.cluster? c.uid = some c → c.launch = some own.uid → s.launch? own.uid = some own → own.complete = false →
    rectangle corner c.rows c.cols c.lc1 = some cores → c.st = .inRunList → s.placeable c.ctx = true → c.hold = none →
    s.cornersFor c (s.clusterMask c) = [] →
    let lost := hoopsMask cores
    (s.isVictim v c = true → preferred corner (s.preemptCorners v c) = true → ∃ t v' c', exec .preemption s = .next t ∧ SameMem s t ∧
      t.launch? v.uid = some v' ∧ (own.uid, lost) ∈ v'.removed ∧ t.cluster? c.uid = some c' ∧ c'.hold = some corner ∧ c'.home = corner / 8 ∧
      ∀ x ∈ s.victims v lost, s.protectedCluster x = false → ∃ y, t.cluster? x.uid = some y ∧ y.st = .parked) ∧
    (s.isVictim v c = false → exec .preemption s = .next s)

/-- R134, R396: IDLE_TEAM_EVICT. A placed cluster whose waves of a team have all waited 100 µs, in a blocking wait, at a rendezvous move or for
a page, with work of no lower priority waiting in
the run list of its hoop, that no rectangle of the hoop can take, and no handler running, is saved: its waves are parked with their registers, each region discarded. -/
def IdleEvictions : Prop :=
  ∀ (s : State) (x : Team) (c : Cluster), s.Due (.idleTeamEvict x.uid) → s.team? x.uid = some x → s.cluster? x.cluster = some c →
    c.uid = x.cluster → c.st = .placed →
    let late := fun (since : Nat) => since + 100000 ≤ s.time x.dev
    let long := fun (w : Wave) => (w.st = .waiting ∧ ((∃ r, w.wait = some r ∧ r.blocking = true ∧ late r.since) ∨
      ∃ p ∈ w.eng.paths, ∃ slot since ord word, p.wait = .slot slot since ord word ∧ late since)) ∨ (w.pageWait.isSome = true ∧ late w.pageSince)
    let idle := ∀ w ∈ s.waves, w.team = x.uid → w.st ≠ .exited → long w
    let wanted := ∃ y ∈ s.clusters, y.dev = x.dev ∧ y.st = .inRunList ∧ y.home = x.core / 8 ∧ c.prio.toNat ≤ s.effOf y ∧
      s.placeable y.ctx = true ∧ ∀ z ∈ s.cornersFor y (s.clusterMask y), z / 8 ≠ y.home
    (idle → wanted → s.protectedCluster c = false → s.jointOps = [] → s.latch = [] → s.products = [] → ∃ t, exec .idleTeamEvict s = .next t ∧ SameMem s t ∧
      t.cluster? c.uid = some { c with st := .parked, since := s.time c.dev } ∧
      t.waves = s.waves.map fun w => if w.team ∈ c.teams ∧ w.st.onCore = true then w.save else w) ∧
    ((¬ idle ∨ ¬ wanted ∨ s.protectedCluster c = true) → exec .idleTeamEvict s = .next s)

/-- R133, R353, R396: what a save keeps and drops: every register, the results of its lanes written, the block queue and the paths, but
for those of an open region, which is replayed from its IRB. -/
def SavedWaves : Prop :=
  ∀ w : Wave, let x := w.save
    x.s = w.s ∧ x.st = .parked ∧ x.region = none ∧ x.level = w.level ∧ x.hpc = w.hpc ∧ x.hcause = w.hcause ∧ x.fstat = w.fstat ∧
      x.v = w.flushPends.v ∧ x.k = w.flushPends.k ∧ x.q = w.flushPends.q ∧ x.live = w.live ∧ x.pending = w.pending ∧
      (w.region = none → x.pc = w.pc ∧ x.eng.queue = w.eng.queue ∧ x.eng.paths.map (fun p => (p.id, p.lpc, p.mask)) =
        w.eng.paths.map (fun p => (p.id, p.lpc, p.mask))) ∧
      ∀ r, w.region = some r → x.pc = r.irb ∧ x.eng.queue = [] ∧ x.replays = w.replays + 1

/-- R123, R124: COMPLETION_MESSAGE of a launch that is complete with its waves' stores performed, once: eight words with its USER word, status, times and counts into its port with a free
slot; dropped without a port that takes it; waiting while the port is full. -/
def CompletionMessages : Prop :=
  ∀ (s : State) (l : Launch), s.Due (.completionMessage l.uid) → s.launch? l.uid = some l →
    let r := l.record
    let message : List Word := [r.getD 4 0, .ofNat 64 (l.status * 2 ^ 32 + recordField r 0 16 8 * 256 + recordField r 0 0 8), .ofNat 64 l.started,
      .ofNat 64 l.done, .ofNat 64 l.teams, .ofNat 64 l.killed, 0, 0]
    let sent := fun (t : State) => t.launch? l.uid = some { l with sent := true }
    (s.launchOver l = false ∨ l.sent = true → exec .completionMessage s = .next s) ∧
    (s.launchOver l = true → l.sent = false → (recordField r 3 0 32 = 0 ∨ s.complPort l = none) →
      ∃ t, exec .completionMessage s = .next t ∧ t = { s with launches := t.launches } ∧ sent t) ∧
    (∀ p, s.launchOver l = true → l.sent = false → recordField r 3 0 32 ≠ 0 → s.complPort l = some p → s.port? p.uid = some p →
      (p.freeSlots = 0 → exec .completionMessage s = .next s) ∧
      (p.freeSlots ≠ 0 → ∃ t m, exec .completionMessage s = .next t ∧ sent t ∧ t.port? p.uid = some { p with queue := p.queue ++ [m] } ∧
        m.words = message ∧ m.grants = [] ∧ m.reply = none ∧ SameMem s t))

/-- R113: TIME_SLICE_SWITCH. When the slice of the running function is over, and none of its clusters, write-combining entries or copies is
left, the next function of the partition by number, cyclically, runs from now, and what its timers missed is recorded. A device whose park
entry is in progress, or that is parked, switches no more, and a TMOVE that waits for its commit holds the switch back. -/
def TimeSlices : Prop :=
  ∀ (s : State) (p : Part), s.Due (.timeSliceSwitch p.dev p.num) → s.part? p.dev p.num = some p →
    let here := fun (f : Func) => f.dev = p.dev ∧ f.part = p.num ∧ f.tornDown = false
    let held := s.devParked p.dev = true ∨ s.devParking p.dev = true
    let isOver := (∃ f ∈ s.funcs, here f ∧ f.num ≠ p.running) ∧ p.sliceFrom + p.sliceNs ≤ s.time p.dev
    (∃ f ∈ s.funcs, here f ∧ f.num = p.running) → ((s.funcs.filter fun f => f.dev == p.dev && f.part == p.num).map (·.num)).Nodup →
    (isOver → ¬ held → (∀ w ∈ s.allWaves, w.moving = false) → (∀ x ∈ s.clusters, x.st ≠ .placed) → s.wcb = [] → (∀ x ∈ s.copies, x.st ≠ .started) →
      ∃ t q, exec .timeSliceSwitch s = .next t ∧ t = { s with parts := t.parts, timers := t.timers } ∧ t.part? p.dev p.num = some q ∧
        q = { p with running := q.running, sliceFrom := s.time p.dev } ∧ (∃ f ∈ s.funcs, here f ∧ f.num = q.running) ∧
        (p.running < q.running → ∀ f ∈ s.funcs, here f → p.running < f.num → q.running ≤ f.num) ∧
        (q.running ≤ p.running → ∀ f ∈ s.funcs, here f → f.num ≤ p.running ∧ q.running ≤ f.num) ∧
        ((s.ctxs.map (·.uid)).Nodup → ∀ x ∈ s.timers, (s.timers.filter fun y => y.uid == x.uid) = [x] →
          let next := (∃ c ∈ s.ctxs, c.uid = x.ctx ∧ c.dev = p.dev ∧ c.func = q.running) ∧ t.recordsEvents x.ctx = true
          (next → t.timer? x.uid = some (x.fire (s.time x.dev))) ∧ (¬ next → t.timer? x.uid = some x))) ∧
    (¬ isOver ∨ held → exec .timeSliceSwitch s = .next s)

end Sys2Proof.Claims

/-- Launch records and completions: the statements named. -/
def Obligations.Launches : Prop := RecordStatuses ∧ LaunchHeads ∧ LaunchStarts ∧ CompletionMessages

/-- Run lists, placement and time slices: the statements named. It rests on choices of the model: log entry 36. -/
def Obligations.Dispatching : Prop := RunLists ∧ Rectangles ∧ Placements ∧ TimeSlices

/-- Pre-emption and eviction: the statements named. -/
def Obligations.Evictions : Prop := Preemptions ∧ IdleEvictions ∧ SavedWaves

/-! ## Requests about memory, banks, buffers and ports (chapters 05, 10, 13 and 15) -/

namespace Sys2Proof.Claims

/-- A function's control port holds an answer. -/
def Answers (t : State) (dev func : Nat) (ws : List Word) : Prop := ∃ f, t.func? dev func = some f ∧ f.answer = ws

/-- The frames of a range have a code, and every other frame has the one that it had. -/
def FramesBecome (s t : State) (dev first count : Nat) (code : BitVec 8) : Prop :=
  ∀ d x, t.frameCode d x = if d = dev ∧ first ≤ x ∧ x < first + count then code else s.frameCode d x

/-- One record more is posted to a function (R449). -/
def Posts (s t : State) (dev func : Nat) (r : List Word) : Prop :=
  ∀ f, s.func? dev func = some f → ∃ g, t.func? dev func = some g ∧ g.records = f.records ++ [r]

/-- R339, R340: invalidation requests. A request is taken, with bits [63:8] of its word 0; one that covers a byte of a held page, or at stage 1
an address of a receive window, completes HELD at once; of a closed port's window only the pages still mapped count. While requests of both stages are open, no entry that one of them
covers serves. INVALIDATION_COMPLETE drops every entry that was built from an entry which the request covers, on every core, and posts its
record. -/
def Invalidations : Prop :=
  let hits := fun (first len a n : Nat) => len = 0 ∨ (a < first + len ∧ first < a + n)
  let taken := fun (s t : State) (r : Invalidation) => r.uid = s.nextUid ∧ t.invals = s.invals ++ [r] ∧
    ((∀ x ∈ s.invals, x.dev = r.dev → x.func = r.func → x.code = r.code) → t = { s with invals := t.invals, nextUid := s.nextUid + 1 }) ∧
    ((∃ x ∈ s.invals, x.dev = r.dev ∧ x.func = r.func ∧ x.code ≠ r.code) →
      ∀ e ∈ t.tlb, ∀ x ∈ t.invals, x.dev = r.dev → x.func = r.func → s.entryCovered x e = false)
  (∀ (s : State) (dev func tag num first len c : Nat), s.Due (.invalidateStage1 dev func tag num first len) → s.numbered dev func num = some c →
    (∀ r ∈ s.invals, r.uid < s.nextUid) →
    let word0 : Word := .ofNat 64 (tag * 256 + 0x20)
    let held := (∃ h ∈ s.holds, h.ctx = c ∧ hits first len h.page.toNat h.size) ∨ ∃ p ∈ s.ports, p.ctx = c ∧
      if p.st = .closed then ∃ e ∈ p.window, hits first len e.va e.grant.size else p.winSize ≠ 0 ∧ hits first len p.winBase p.winSize
    (¬ held → ∃ t r, exec .invalidateStage1 s = .next t ∧ r = { uid := r.uid, dev, func, code := 0x20, ctx := some c, first, len, word0 } ∧
      taken s t r) ∧
    (held → ∃ t, exec .invalidateStage1 s = .next t ∧ t.invals = s.invals ∧ t.tlb = s.tlb ∧
      Posts s t dev func [word0, Config.statusHeld, 0, 0, 0, 0, 0, 0])) ∧
  (∀ (s : State) (dev func tag first len : Nat), s.Due (.invalidateStage2 dev func tag first len) → (∀ r ∈ s.invals, r.uid < s.nextUid) →
    let word0 : Word := .ofNat 64 (tag * 256 + 0x21)
    let held := ∃ h ∈ s.holds, ∃ c, s.ctx? h.ctx = some c ∧ c.dev = dev ∧ c.func = func ∧ h.size2 ≠ 0 ∧ hits first len h.ia h.size2
    (¬ held → ∃ t r, exec .invalidateStage2 s = .next t ∧ r = { uid := r.uid, dev, func, code := 0x21, ctx := none, first, len, word0 } ∧
      taken s t r) ∧
    (held → ∃ t, exec .invalidateStage2 s = .next t ∧ t.invals = s.invals ∧ t.tlb = s.tlb ∧
      Posts s t dev func [word0, Config.statusHeld, 0, 0, 0, 0, 0, 0])) ∧
  ∀ (s : State) (r : Invalidation), s.Due (.invalidationComplete r.uid) → r ∈ s.invals → (∀ x ∈ s.invals, x.uid = r.uid → x = r) →
    s.invalHeld r = false → s.wcb = [] →
    let hit := fun (a n : Nat) => hits r.first r.len (a / n * n) n
    let covered := fun (e : TlbEntry) => e.dev = r.dev ∧ ((s.ctx? e.ctx).map (·.func)) = some r.func ∧
      if r.code = 0x20 then r.ctx = some e.ctx ∧ hit e.va e.size1 else hit e.ia e.size2 ∨ ∃ x ∈ e.tables, hit x.1 x.2
    ∃ t, exec .invalidationComplete s = .next t ∧ (∀ e, e ∈ t.tlb ↔ e ∈ s.tlb ∧ ¬ covered e) ∧ (∀ x, x ∈ t.invals ↔ x ∈ s.invals ∧ x ≠ r) ∧
      Posts s t r.dev r.func [r.word0, 0, 0, 0, 0, 0, 0, 0]

/-- R355: ACCESS_COUNT_ADD. When an entry is dropped or its count has reached 16, the count is added to CNT of the leaf that it was made from,
where a walk of its context's tables still comes to that leaf in a frame of the partition and it counts; CNT saturates at 4,095 and the rest of the
leaf stays. -/
def AccessCounts : Prop :=
  ∀ (s : State) (e : TlbEntry) (drop : Bool) (c : Ctx), s.Due (.accessCountAdd e.dev e.core e.va drop) → s.tlb = [e] → e.ct1 = true →
    e.ct2 = false → e.size1 ≠ 65536 → s.ctx? e.ctx = some c → c.migPort = none → s.MemWf →
    let old := Memory.readLE s.mem e.leaf1 8
    let counts := s.counts e false = true
    ((drop = true ∨ 16 ≤ e.count) → ∃ t, exec .accessCountAdd s = .next t ∧
      t = { s with mem := t.mem, tlb := if drop then [] else [{ e with count := 0 }] } ∧
      Memory.readLE t.mem e.leaf1 8 = (if counts then old % 2 ^ 52 + min 4095 (old / 2 ^ 52 + e.count) * 2 ^ 52 else old) ∧
      ∀ b, b < e.leaf1 ∨ e.leaf1 + 8 ≤ b → Memory.read t.mem b = Memory.read s.mem b) ∧
    (drop = false → e.count < 16 → exec .accessCountAdd s = .next s)

/-- R342, R344: FREE_FRAMES sends frames of the partition that asks to scrubbing, all or none; ASSIGN_FRAMES gives out free ones and sends
frames of the system to scrubbing; FRAME_SCRUB_COMPLETE leaves a frame of zeros, free. -/
def FrameRequests : Prop :=
  (∀ (s : State) (dev part first count : Nat) (p : Part) (f : Func), s.Due (.freeFrames dev part first count) → s.part? dev part = some p →
    s.func? dev p.running = some f → 1 ≤ part → part ≤ 20 →
    let x := first / 65536
    let owned := first % 65536 = 0 ∧ x + count ≤ 23437500 ∧ ∀ i < count, s.frameCode dev (x + i) = .ofNat 8 part
    (owned → ∃ t, exec .freeFrames s = .next t ∧ FramesBecome s t dev x count 0xFE ∧ Answers t dev p.running [0] ∧ SameMem s t) ∧
    (¬ owned → ∃ t, exec .freeFrames s = .next t ∧ t.owners = s.owners ∧ Answers t dev p.running [1] ∧ SameMem s t)) ∧
  (∀ (s : State) (dev first count : Nat) (code : BitVec 8), s.Due (.assignFrames dev first count code) → first + count ≤ 23437500 →
    let all := fun (c : BitVec 8) => ∀ i < count, s.frameCode dev (first + i) = c
    let allowed := ((1 ≤ code.toNat ∧ code.toNat ≤ 20 ∨ code = 0xFF) ∧ all 0) ∨ (code = 0xFE ∧ all 0xFF)
    (allowed → ∃ t, exec .assignFrames s = .next t ∧ t = { s with owners := t.owners } ∧ FramesBecome s t dev first count code) ∧
    (¬ allowed → exec .assignFrames s = .next s)) ∧
  ∀ (s : State) (dev frame : Nat), s.Due (.frameScrubComplete dev frame) →
    (s.frameCode dev frame = 0xFE → ∃ t, exec .frameScrubComplete s = .next t ∧ FramesBecome s t dev frame 1 0 ∧
      ∀ b, Memory.read t.mem b = if physOf dev (frame * 65536) ≤ b ∧ b < physOf dev (frame * 65536) + 65536 then 0 else Memory.read s.mem b) ∧
    (s.frameCode dev frame ≠ 0xFE → exec .frameScrubComplete s = .next s)

/-- R345: a lent page of 64 KiB or more that its holder has released, or that the root monitor reclaims from one that has restarted or left the domain, leaves the lent table
and is scrubbed, but for the frames that have left the partition that lent them. -/
def LentPages : Prop :=
  (∀ (s : State) (l : Lent), s.Due (.lentFrameRelease l.dev l.addr) → l ∈ s.lent → (∀ x ∈ s.lent, x.dev = l.dev → x.addr = l.addr → x = l) →
    65536 ≤ l.size →
    (l.released = true → ∃ t, exec .lentFrameRelease s = .next t ∧ t = { s with lent := s.lent.filter (· ≠ l), owners := t.owners } ∧
      ∀ d x, t.frameCode d x = if d = l.dev ∧ l.addr / 65536 ≤ x ∧ x < l.addr / 65536 + l.size / 65536 ∧ s.frameCode d x = .ofNat 8 l.part
        then 0xFE else s.frameCode d x) ∧
    (l.released = false → exec .lentFrameRelease s = .next s)) ∧
  ∀ (s : State) (dev holder : Nat), s.Due (.lentFrameReclaim dev holder) → (∀ l ∈ s.lent, 65536 ≤ l.size) →
    let back := fun (l : Lent) => l.dev = dev ∧ l.holder = holder ∧ l.lost = true
    ∃ t, exec .lentFrameReclaim s = .next t ∧ t = { s with lent := t.lent, owners := t.owners } ∧ (∀ l, l ∈ t.lent ↔ l ∈ s.lent ∧ ¬ back l) ∧
      ∀ d x,
        let scrubs := ∃ l ∈ s.lent, back l ∧ d = dev ∧ l.addr / 65536 ≤ x ∧ x < l.addr / 65536 + l.size / 65536 ∧ s.frameCode d x = .ofNat 8 l.part
        (scrubs → t.frameCode d x = 0xFE) ∧ (¬ scrubs → t.frameCode d x = s.frameCode d x)

/-- R229: HOOP_BANK_CONTROL notes the mode that a bank of a partition's hoop is to change to, or takes an assigned FIFO bank from its context
while a change of it waits on; BANK_DRAIN_COMPLETE changes a cache way, a
scratchpad bank that no team owns, or an empty FIFO bank without a context. No other bank changes. -/
def HoopBanks : Prop :=
  let only := fun (s t : State) (b : Bank) => ∀ d h n, (d, h, n) ≠ (b.dev, b.hoop, b.bank) → t.bank d h n = s.bank d h n
  (∀ (s : State) (dev hoop bank : Nat) (mode : BankMode), s.Due (.hoopBankControl dev hoop bank mode none) → bank < 64 →
    let b := s.bank dev hoop bank
    ((∃ p ∈ s.parts, p.dev = dev ∧ hoop ∈ p.hoops) → ∃ t, exec .hoopBankControl s = .next t ∧ t = { s with banks := t.banks } ∧ only s t b ∧
      (b.mode ≠ mode → t.bank dev hoop bank = { b with pending := some mode, pendingOwner := none }) ∧
      (b.mode = mode → mode ≠ .fifo ∨ b.owner = none → t.bank dev hoop bank = { b with pending := none, pendingOwner := none }) ∧
      (b.mode = mode → mode = .fifo → b.owner ≠ none → t.bank dev hoop bank = { b with owner := none })) ∧
    ((∀ p ∈ s.parts, p.dev = dev → hoop ∉ p.hoops) → exec .hoopBankControl s = .next s)) ∧
  ∀ (s : State) (dev hoop bank : Nat), s.Due (.bankDrainComplete dev hoop bank) →
    let b := s.bank dev hoop bank
    let free := b.mode = .cacheWay ∨ (b.owner = none ∧ (b.mode = .fifo → b.fifo = []))
    (∀ m, b.pending = some m → free → ∃ t, exec .bankDrainComplete s = .next t ∧ t = { s with banks := t.banks } ∧ only s t b ∧
      t.bank dev hoop bank = { b with mode := m, owner := if m = .fifo then b.pendingOwner else none, fifo := [], pending := none,
                                      pendingOwner := none }) ∧
    (b.pending = none ∨ ¬ free → exec .bankDrainComplete s = .next s)

/-- R237, R415: an entry of a write-combining buffer drains when it is as old as the ageing timer, which is from 250 ns to 64 µs: its bytes,
and no others, are written. A refused drain writes nothing, and its waves trap at their next boundary; a wave
at handler level whose handler stored no byte of it, once that has returned. -/
def WriteCombining : Prop :=
  (∀ (s : State) (dev part ns : Nat), s.Due (.setAgeingTimer dev part ns) →
    (250 ≤ ns ∧ ns ≤ 64000 → ∃ t, exec .setAgeingTimer s = .next t ∧ t = { s with parts := t.parts } ∧
      ∀ d n, t.part? d n = if d = dev ∧ n = part then (s.part? d n).map fun (p : Part) => { p with ageing := ns } else s.part? d n) ∧
    (ns < 250 ∨ 64000 < ns → exec .setAgeingTimer s = .next s)) ∧
  (∀ (s : State) (e : WcbEntry) (p : Part), s.Due (.wcbAgeingExpire e.dev e.core e.line) → s.wcb = [e] → s.parts = [p] → p.dev = e.dev →
    e.core / 8 ∈ p.hoops → s.drainRefusal e = none → (e.bytes.map (·.off)).Nodup → s.MemWf →
    (e.born + p.ageing ≤ s.time e.dev → ∃ t, exec .wcbAgeingExpire s = .next t ∧ t.wcb = [] ∧
      (∀ x ∈ e.bytes, Memory.read t.mem (e.line + x.off) = x.val) ∧
      ∀ b, (∀ x ∈ e.bytes, b ≠ e.line + x.off) → Memory.read t.mem b = Memory.read s.mem b) ∧
    (s.time e.dev < e.born + p.ageing → exec .wcbAgeingExpire s = .next s)) ∧
  ∀ (s : State) (e : WcbEntry) (w : Wave) (down : Bool), s.Due (.wcbDrainRefused e.dev e.core e.line down) → s.wcb = [e] → s.waves = [w] →
    w.uid ≠ 0 → w.st ≠ .exited → e.bytes ≠ [] → (∀ b ∈ e.bytes, b.wave = w.uid) → s.reachable e.dev (e.line / 2 ^ 43) = true →
    let traps := fun (cause : Nat) => ∃ t x, exec .wcbDrainRefused s = .next t ∧ SameMem s t ∧ t.wcb = [] ∧
      t.waves = [{ w with pending := w.pending ++ [x], seq := w.seq + 1 }] ∧ x.cause = cause ∧ x.boundary = true ∧ x.addr = .ofNat 64 e.line ∧
      x.pend = (w.level == .handler && !(e.bytes.any (·.hand)))
    (down = false → s.frameOk e.dev e.part e.line false = false → traps 0x11) ∧
    (down = false → s.frameOk e.dev e.part e.line false = true → exec .wcbDrainRefused s = .next s) ∧
    (down = true → s.lineTornDown e.line = true → traps 0x70) ∧ (down = true → s.lineTornDown e.line = false → exec .wcbDrainRefused s = .next s)

/-- R235, R236: the allocations of the 20 partitions at a home-agent port sum to at most 1,386 tokens and the buckets of a partition's contexts
to its allocation. TOKEN_WINDOW_REFILL fills every bucket at the end of its window of 1 µs; an idle partition lends up to half, token by token,
to one whose requests wait. A request takes its tokens from its bucket, where its context's own
has them too. -/
def TokenBuckets : Prop :=
  (∀ (s : State) (dev port part tokens : Nat), s.Due (.tokenAllocation dev port part tokens) →
    let others := ((s.buckets.filter fun b => b.dev == dev && b.port == port && b.part != part && b.part != 0).map (·.alloc)).sum
    let allowed := 1 ≤ part ∧ part ≤ 20 ∧ port < 512 ∧ others + tokens ≤ 1386
    (allowed → ∃ t, exec .tokenAllocation s = .next t ∧ t = { s with buckets := t.buckets } ∧
      (∃ b ∈ t.buckets, b.dev = dev ∧ b.port = port ∧ b.part = part) ∧
      ∀ b ∈ t.buckets, (b.dev = dev ∧ b.port = port ∧ b.part = part → b.alloc = tokens) ∧
        (¬ (b.dev = dev ∧ b.port = port ∧ b.part = part) → b ∈ s.buckets)) ∧
    (¬ allowed → exec .tokenAllocation s = .next s)) ∧
  (∀ (s : State) (c : Ctx) (b : Bucket) (port tokens : Nat), s.Due (.contextBucket c.uid port tokens) → s.ctxs = [c] → s.buckets = [b] →
    b.dev = c.dev → b.port = port → b.part = c.part →
    (tokens ≤ b.alloc → ∃ t x, exec .contextBucket s = .next t ∧ t = { s with ctxs := [{ c with buckets := x }], funcs := t.funcs } ∧
      (port, tokens, tokens) ∈ x) ∧
    (b.alloc < tokens → ∃ t, exec .contextBucket s = .next t ∧ t = { s with funcs := t.funcs })) ∧
  (∀ (s : State) (dev port : Nat), s.Due (.tokenWindowRefill dev port) →
    let due := fun (b : Bucket) => b.dev = dev ∧ b.port = port ∧ b.window < s.time dev / 1000
    ((∀ b ∈ s.buckets, ¬ due b) → exec .tokenWindowRefill s = .next s) ∧
    ((∃ b ∈ s.buckets, due b) → (∀ b ∈ s.buckets, b.dev = dev → b.port = port → b.queue = []) →
      ∃ t, exec .tokenWindowRefill s = .next t ∧ t = { s with buckets := t.buckets, ctxs := t.ctxs } ∧
        t.buckets = s.buckets.map fun b => if due b then
          { b with tokens := b.alloc, queue := [], lendable := if b.part = 0 then 0 else b.alloc / 2, window := s.time dev / 1000 } else b) ∧
    ∀ (x y : Bucket) (k u : Nat), s.buckets = [x, y] → due x → due y → x.part ≠ y.part → 1 ≤ x.part → x.part ≤ 20 → 1 ≤ y.part → y.part ≤ 20 →
      x.queue = [] → x.window = y.window → y.window + 1 = s.time dev / 1000 → s.ctx? u = none → y.queue = [(u, y.alloc + k)] → k ≤ x.alloc / 2 → 0 < k →
      ∃ t x' y', exec .tokenWindowRefill s = .next t ∧ t.buckets = [x', y'] ∧ x'.tokens = x.alloc - k ∧ x'.lendable = x.alloc / 2 - k ∧
        y'.tokens = 0 ∧ y'.queue = [] ∧
        t.part? dev x.part = (s.part? dev x.part).map fun p => { p with lentBytes := p.lentBytes + .ofNat 64 (64 * k) }) ∧
  ∀ (s : State) (dev part ctx port k : Nat) (b : Bucket), s.bucket? dev port part = some b → (∀ x ∈ s.buckets, x.queue = []) → k ≤ b.tokens →
    (∀ c x, s.ctx? ctx = some c → c.buckets.find? (·.1 == port) = some x → k ≤ x.2.2) →
    (s.charge dev part ctx port k).bucket? dev port part = some { b with tokens := b.tokens - k, lendable := min b.lendable (b.tokens - k) }

/-- R310, R416, R419, R307: LAUNCH_PORT_CREATE makes a launch port of the context; PORT_WINDOW_PLACE places a port of the function's in one of
its 4,096 slots; MSIX_BIND binds a vector of the function's 64, or of the 2,048 of the physical function; WINDOW_UNMAP unmaps a page. -/
def PortRequests : Prop :=
  (∀ (s : State) (c : Ctx) (f : Func) (depth prio : Nat), s.Due (.launchPortCreate c.uid depth prio) → s.ctx? c.uid = some c →
    s.func? c.dev c.func = some f → c.st ≠ .dead → c.st ≠ .terminating →
    let ok := 1 ≤ depth ∧ depth ≤ 4096 ∧ prio ≤ c.ceiling ∧ c.quotaUsed + 128 * depth ≤ c.quota ∧ s.sliceFull c = false
    (ok → ∃ t p, exec .launchPortCreate s = .next t ∧ t.ports = s.ports ++ [p] ∧ p.ctx = c.uid ∧ p.launch = true ∧ p.depth = depth ∧
      p.prio = prio ∧ p.st = .opened ∧ p.queue = [] ∧ p.winSize = 0 ∧ (∃ h ∈ t.handles, h.ctx = c.uid ∧ h.kind = 3 ∧ h.obj = some p.uid) ∧
      t.ctx? c.uid = some { c with quotaUsed := c.quotaUsed + 128 * depth } ∧ Answers t c.dev c.func [0]) ∧
    (¬ ok → ∃ t, exec .launchPortCreate s = .next t ∧ t = { s with funcs := t.funcs } ∧ Answers t c.dev c.func [1])) ∧
  (∀ (s : State) (slot : Nat) (p : Port) (c : Ctx) (f : Func), s.Due (.portWindowPlace f.dev f.num slot p.uid) → s.port? p.uid = some p →
    s.ctx? p.ctx = some c → s.func? f.dev f.num = some f →
    let ok := slot < 4096 ∧ c.dev = f.dev ∧ c.func = f.num
    ∃ t g, exec .portWindowPlace s = .next t ∧ t = { s with funcs := t.funcs } ∧ t.func? f.dev f.num = some g ∧
      (ok → g.slots.find? (·.1 == slot) = some (slot, p.uid) ∧ g.answer = [0]) ∧ (¬ ok → g = { f with answer := [1] })) ∧
  (∀ (s : State) (vector : Nat) (p : Port) (c : Ctx) (f : Func), s.Due (.msixBind f.dev f.num p.uid vector) → s.port? p.uid = some p →
    s.ctx? p.ctx = some c → s.func? f.dev f.num = some f →
    let ok := vector < (if f.num = 0 then 2048 else 64) ∧ c.dev = f.dev ∧ c.func = f.num
    ∃ t, exec .msixBind s = .next t ∧ t = { s with funcs := t.funcs, ports := t.ports } ∧
      (ok → t.port? p.uid = some { p with vector := some vector } ∧ Answers t f.dev f.num [0]) ∧
      (¬ ok → t.ports = s.ports ∧ Answers t f.dev f.num [1])) ∧
  ∀ (s : State) (p : Port) (va : Word) (e : WinEntry), s.Due (.windowUnmap p.uid va) → s.port? p.uid = some p → p.window = [e] →
    let hit := e.va ≤ va.toNat ∧ va.toNat < e.va + e.grant.size ∧ e.granted = false
    (hit → ∃ t, exec .windowUnmap s = .next t ∧ SameMem s t ∧ t.port? p.uid = some { p with window := [] } ∧
      (t.lent = s.lent.map fun l => if l.dev = e.grant.dev ∧ l.addr = e.grant.addr then { l with released := true } else l)) ∧
    (¬ hit → exec .windowUnmap s = .next s)

/-- R113, R356: SET_TIME_SLICE sets a slice from 250 µs to 64 ms, SET_MIGRATION_THRESHOLD a threshold from 1 to 4,095 and the port of its
notifications; other values are refused. -/
def ContextSettings : Prop :=
  (∀ (s : State) (dev part ns : Nat) (p : Part) (f : Func), s.Due (.setTimeSlice dev part ns) → s.part? dev part = some p →
    s.func? dev p.running = some f → ∃ t, exec .setTimeSlice s = .next t ∧ t = { s with parts := t.parts, funcs := t.funcs } ∧
      t.part? dev part = some (if 250000 ≤ ns ∧ ns ≤ 64000000 then { p with sliceNs := ns } else p) ∧
      Answers t dev p.running [if 250000 ≤ ns ∧ ns ≤ 64000000 then 0 else 1]) ∧
  ∀ (s : State) (c : Ctx) (f : Func) (threshold : Nat) (port : Option Nat), s.Due (.setMigrationThreshold c.uid threshold port) →
    s.ctx? c.uid = some c → s.func? c.dev c.func = some f →
    let ok := 1 ≤ threshold ∧ threshold ≤ 4095
    ∃ t, exec .setMigrationThreshold s = .next t ∧ t = { s with ctxs := t.ctxs, funcs := t.funcs } ∧
      t.ctx? c.uid = some (if ok then { c with threshold, migPort := port } else c) ∧ Answers t c.dev c.func [if ok then 0 else 1]

end Sys2Proof.Claims

/-- Invalidation, counts, frames and lent pages: the statements named. It rests on choices of the model: log entry 29. -/
def Obligations.MemoryRequests : Prop := Invalidations ∧ AccessCounts ∧ FrameRequests ∧ LentPages

/-- Hoop banks, write combining and token buckets: the statements named. It rests on choices of the model: log entries 39, 58. -/
def Obligations.BanksAndBuffers : Prop := HoopBanks ∧ WriteCombining ∧ TokenBuckets

/-- Port requests and settings: the statements named. -/
def Obligations.PortsAndSettings : Prop := PortRequests ∧ ContextSettings

/-! ## The rim and the host links (chapters 13, 19, 20 and 21) -/

namespace Sys2Proof.Claims

/-- R402, R403, R404: the wire form of a packet. A flit is 160 bytes: header, payload, sequence number, acknowledgement and the CRC-64 of header
and payload, which a receiver finds right; its fields read back. -/
def Flits : Prop :=
  ∀ (header : Nat) (payload : List Byte) (lseq lack : BitVec 12), header < 2 ^ 128 → payload.length ≤ 128 →
    let f := flitOf header payload lseq lack
    f.length = 160 ∧ flitOk f = true ∧ flitHeader f = header ∧ flitLseq f = lseq ∧ flitLack f = lack ∧
      (f.drop 16).take payload.length = payload

/-- R402, R404: FLIT_RECEIVE at an up port. A flit that fails its CRC is dropped, and the 16th failure in turn retrains the port; a good one out
of order is dropped; a good one in order with a reserved KIND is counted as an error, and the input slot that its credit took is free. -/
def FlitReceipt : Prop :=
  ∀ (s : State) (p : RimPort) (f : List Byte), s.Due (.flitReceive p.dev p.port f) → s.rimPort? p.dev p.port = some p → p.st = .up →
    (flitOk f = false → ¬ (p.resync = true ∧ flitLseq f ≠ p.expect) → ∃ t, exec .flitReceive s = .next t ∧ t = { s with rimPorts := t.rimPorts } ∧
      t.rimPort? p.dev p.port = some (if p.fails = 15 then { p with st := .training, fails := 0, since := s.time p.dev }
        else { p with resync := true, fails := p.fails + 1 })) ∧
    (flitOk f = true → p.replay = [] → s.packets = [] →
      (flitLseq f ≠ p.expect → ∃ t, exec .flitReceive s = .next t ∧ t = { s with rimPorts := t.rimPorts } ∧ t.rimPort? p.dev p.port = some p) ∧
      (flitLseq f = p.expect → 9 < hKIND (flitHeader f) → ∃ t, exec .flitReceive s = .next t ∧ t = { s with rimPorts := t.rimPorts } ∧
        t.rimPort? p.dev p.port = some (let left := if (s.farPort p).isSome = true then p.slots.erase (vcOf (flitHeader f) (hHOP (flitHeader f))) else p.slots
          { p with expect := p.expect + 1, resync := false, fails := 0, errors := p.errors + 1, slots := left })))

/-- R402, R409, R343: a write packet that arrives at its device stores its bytes at the home agent when the frame's owner is in the sender's
domain, and nothing when it is not; the first response of its tag ends a request. -/
def FlitDelivery : Prop :=
  (∀ (s : State) (p : RimPort) (header : Nat) (data : List Byte) (lack : BitVec 12), header < 2 ^ 128 → data.length = 8 * hLEN header →
    data.length ≤ 128 → s.Due (.flitReceive p.dev p.port (flitOf header data p.expect lack)) → s.rimPort? p.dev p.port = some p → p.st = .up →
    p.replay = [] → s.packets = [] → s.MemWf → hKIND header = 1 → hDST header = p.dev → bitAt header 99 = false →
    let a := physOf p.dev (hADDR header % 2 ^ 43)
    ∃ t, exec .flitReceive s = .next t ∧ ∀ b, Memory.read t.mem b =
      if s.ownerInDomain (hSRC header) (hGROUP header) a = true ∧ a ≤ b ∧ b < a + data.length then data.getD (b - a) 0 else Memory.read s.mem b) ∧
  ∀ (s : State) (p : RimPort) (r : RimReq) (header : Nat) (lack : BitVec 12), header < 2 ^ 128 →
    s.Due (.flitReceive p.dev p.port (flitOf header [] p.expect lack)) → s.rimPort? p.dev p.port = some p → p.st = .up →
    p.replay = [] → s.packets = [] → hKIND header = 4 → hDST header = p.dev → bitAt header 99 = false → hLEN header = 1 → s.rimReqs = [r] →
    r.dev = p.dev → r.tag = hTAG header → ∃ t, exec .flitReceive s = .next t ∧ t = { s with rimReqs := [], rimPorts := t.rimPorts }

/-- R24, R401, R404, R413, R428, R436: the life of a rim port. An entry in the port map trains it from its stored parameters. Within 10 ms it comes
up when the map is valid, its record is accepted, where it has one to try, and its other end can lock; then the time bases are exchanged. It stays
off when the map is not valid, and takes a full retrain when the record is refused. 10 ms without training takes it down, and the far end of its
link, and a full retrain follows where its stored parameters were tried; a retrain request trains a port that is down, and its far end. -/
def RimPortLife : Prop :=
  let works := fun (d : Dev) => (d.stage = .stageB ∨ d.stage = .full) ∧ d.parked = false ∧ d.iodError = false
  (∀ (s : State) (dev port peer : Nat) (isY : Bool), s.Due (.portMapWrite dev port peer isY) →
    (port < 32 → ∃ t p, exec .portMapWrite s = .next t ∧ t = { s with rimPorts := t.rimPorts } ∧ t.rimPort? dev port = some p ∧
      p.peer = peer ∧ p.isY = isY ∧ p.st = .training ∧ p.lseq = 0 ∧ p.expect = 0 ∧ p.replay = [] ∧ p.slots = [] ∧ p.again = true ∧ p.full = false) ∧
    (32 ≤ port → exec .portMapWrite s = .next s)) ∧
  (∀ (s : State) (p : RimPort) (d : Dev), s.Due (.rimLinkTrained p.dev p.port) → s.rimPort? p.dev p.port = some p → s.dev? p.dev = some d →
    let trains := p.st = .training ∧ p.full = false ∧ s.time p.dev ≤ p.since + 10000000 ∧ works d
    let place := fun (i j : Nat) => if j < i then j else j - 1
    let valid := p.peer ≠ p.dev ∧ p.peer % 16 < s.podW ∧ p.peer / 16 < s.podH ∧ p.dev % 16 < s.podW ∧ p.dev / 16 < s.podH ∧
      (if p.isY = true then p.peer % 16 = p.dev % 16 else p.peer / 16 = p.dev / 16) ∧
      (s.podW = 16 → s.podH = 16 → p.port = if p.isY = true then 15 + place (p.dev / 16) (p.peer / 16) else place (p.dev % 16) (p.peer % 16))
    let accepted := p.again = false ∨ s.accepts p.dev (.rimPort p.port) s.free = true
    (¬ trains → exec .rimLinkTrained s = .next s) ∧
    (trains → ¬ valid → ∃ t, exec .rimLinkTrained s = .next t ∧ t = { s with rimPorts := t.rimPorts, devs := t.devs } ∧
      t.rimPort? p.dev p.port = some { p with st := .off }) ∧
    (trains → valid → ¬ accepted → ∃ t, exec .rimLinkTrained s = .next t ∧ t = { s with rimPorts := t.rimPorts, free := t.free } ∧
      t.rimPort? p.dev p.port = some { p with full := true, since := s.time p.dev }) ∧
    (trains → valid → accepted → s.peerReady p false = false → ∃ t, exec .rimLinkTrained s = .next t ∧ t = { s with free := t.free }) ∧
    (trains → valid → accepted → s.peerReady p false = true → ∃ t q, exec .rimLinkTrained s = .next t ∧ t.rimPort? p.dev p.port = some q ∧
      q.st = .up ∧ q.peer = p.peer ∧ q.again = false ∧ s.time p.peer ≤ t.time p.dev ∧ s.time p.dev ≤ t.time p.dev ∧
      ∀ x, s.farPort p = some x → s.rimPort? x.dev x.port = some x → ∃ y, t.rimPort? x.dev x.port = some y ∧ y.st = .up)) ∧
  (∀ (s : State) (p : RimPort), s.Due (.portDown p.dev p.port) → s.rimPort? p.dev p.port = some p → p.replay = [] → s.packets = [] →
    p.peer ≠ p.dev → (∀ q, s.farPort p = some q → q.replay = [] ∧ s.rimPort? q.dev q.port = some q) →
    let down := fun (x : RimPort) => { x with st := .down, lseq := 0, expect := 0, again := false, full := false }
    let late := p.st = .training ∧ p.full = false ∧ p.since + 10000000 ≤ s.time p.dev
    (late → ∃ t, exec .portDown s = .next t ∧ t = { s with rimPorts := t.rimPorts, devs := t.devs } ∧
      t.rimPort? p.dev p.port = some (if p.again = true then { down p with full := true, since := s.time p.dev } else down p) ∧
      ∀ q, s.farPort p = some q → t.rimPort? q.dev q.port = some (down q)) ∧
    (¬ late → exec .portDown s = .next s)) ∧
  ∀ (s : State) (p : RimPort) (d : Dev), s.Due (.portRetrainRequest p.dev p.port) → s.rimPort? p.dev p.port = some p → s.dev? p.dev = some d →
    p.peer ≠ p.dev →
    let waits := p.st = .down ∧ p.full = false ∧ works d
    (waits → ∃ t, exec .portRetrainRequest s = .next t ∧ t = { s with rimPorts := t.rimPorts } ∧
      t.rimPort? p.dev p.port = some { p with st := .training, again := true, since := s.time p.dev } ∧
      ∀ q e, s.farPort p = some q → s.rimPort? q.dev q.port = some q → s.dev? q.dev = some e → works e → q.st = .down → q.full = false →
        t.rimPort? q.dev q.port = some { q with st := .training, again := true, since := s.time q.dev }) ∧
    (¬ waits → exec .portRetrainRequest s = .next s)

/-- R405, R406: at a device in the row of a packet's destination column the egress is in Y, to the destination, with hop class 3; elsewhere it is
in X with class 1. With one trained port to the target that has room, it is taken. -/
def Routes : Prop :=
  ∀ (ports : List RimPort) (dev h p : Nat) (free : Nat → Nat → Nat) (queued : Nat → Nat),
    let isY := hDST h % 16 = dev % 16
    let target := if isY then hDST h else dev / 16 * 16 + hDST h % 16
    let cls := if isY then 3 else 1
    portsTo ports dev target (decide isY) = [p] → 4 ≤ free p cls → queued p ≤ 48 →
    routePacket ports dev h free queued = some (p, setField h 100 2 cls)

/-- R411, R412: an outstanding request whose target answers again ends; one without a response for 1 ms completes poisoned, so that its wave
traps at its next boundary; a hold response of a target that answers, and is not torn down, restarts the 1 ms. -/
def RimRequests : Prop :=
  (∀ (s : State) (r : RimReq) (w : Wave), s.Due (.requestTimeout r.dev r.tag) → s.rimReqs = [r] → s.waves = [w] → w.uid ≠ 0 → r.wave = w.uid →
    r.copy = 0 → r.census = 0 → s.copies = [] →
    (s.reachable r.dev r.dst = true → exec .requestTimeout s = .next { s with rimReqs := [] }) ∧
    (s.reachable r.dev r.dst = false → r.issued + 1000000 ≤ s.time r.dev →
      exec .requestTimeout s = .next { s with rimReqs := [], waves := [{ w with poisonWait := true }] }) ∧
    (s.reachable r.dev r.dst = false → s.time r.dev < r.issued + 1000000 → exec .requestTimeout s = .next s)) ∧
  ∀ (s : State) (r : RimReq), s.Due (.holdResponse r.dev r.tag) → s.rimReqs = [r] →
    (s.reachable r.dev r.dst = true → s.holderDrains r = false → exec .holdResponse s = .next { s with rimReqs := [{ r with issued := s.time r.dev }] }) ∧
    (s.reachable r.dev r.dst = false ∨ s.holderDrains r = true → exec .holdResponse s = .next s)

/-- R418, R420, R343, R430: HDM_RANGE sets one of 20 ranges; an access of the host through one whose frames all belong to its partition reads or
writes its bytes, any other reads nothing and writes nothing. R248: a host store to its own memory is seen there. -/
def HostMemory : Prop :=
  (∀ (s : State) (range part base size : Nat) (d : Dev), s.Due (.hdmRange d.id range part base size) → s.dev? d.id = some d →
    ∃ t x, exec .hdmRange s = .next t ∧ t = { s with devs := t.devs } ∧ t.dev? d.id = some x ∧
      (range < 20 → x.hdm.find? (·.1 == range) = some (range, part, base, size)) ∧ (20 ≤ range → x = d)) ∧
  (∀ (s : State) (range part base size addr len : Nat) (data : Option (List Byte)) (d : Dev), s.Due (.hostCxlMemAccess d.id range addr len data) →
    s.dev? d.id = some d → d.hdm.find? (·.1 == range) = some (range, part, base, size) → 1 ≤ part → part ≤ 20 → s.MemWf →
    let n := (data.map (·.length)).getD len
    let ok := (d.stage = .stageB ∨ d.stage = .full) ∧ d.parked = false ∧ base ≤ addr ∧ addr + n ≤ base + size ∧
      ∀ i < n, s.frameCode d.id ((addr + i) / 65536) = .ofNat 8 part
    let a := physOf d.id addr
    ∃ t, exec .hostCxlMemAccess s = .next t ∧
      (ok → data = none → SameMem s t ∧ t.dev? d.id = some { d with reply := (List.range len).map fun i => Memory.read s.mem (a + i) }) ∧
      (∀ bs, ok → data = some bs → ∀ b, Memory.read t.mem b = if a ≤ b ∧ b < a + n then bs.getD (b - a) 0 else Memory.read s.mem b) ∧
      (¬ ok → SameMem s t ∧ t.dev? d.id = some { d with reply := [] })) ∧
  ∀ (s : State) (dev addr : Nat) (data : List Byte), s.Due (.hostSnoop dev addr data) → s.MemWf →
    (data ≠ [] → addr + data.length ≤ 2 ^ 51 → ∃ t, exec .hostSnoop s = .next t ∧ ∀ b, Memory.read t.mem b =
      if hostBase + addr ≤ b ∧ b < hostBase + addr + data.length then data.getD (b - (hostBase + addr)) 0 else Memory.read s.mem b) ∧
    (data = [] ∨ 2 ^ 51 < addr + data.length → exec .hostSnoop s = .next s)

/-- R310, R419, R426, R430: a host write of 64 bytes to a slot with a port, or 128 to one with a launch port, enters a message; a write of another
size, or to a slot without a port that takes sends, is an error of the function; a full port drops it, and DROPS counts to 511. -/
def HostWrites : Prop :=
  ∀ (s : State) (slot n : Nat) (words : List Word) (i : Instr) (f : Func) (d : Dev) (p : Port),
    (i = .hostPortWrite ∧ n = 8 ∧ s.Due (.hostPortWrite f.dev f.num slot words) ∨
      i = .hostLaunchWrite ∧ n = 16 ∧ s.Due (.hostLaunchWrite f.dev f.num slot words)) →
    s.func? f.dev f.num = some f → f.draining = false → f.tornDown = false → f.slots.find? (·.1 == slot) = some (slot, p.uid) →
    s.port? p.uid = some p → s.dev? f.dev = some d → d.parked = false →
    let right := s.shut p = false ∧ words.length = n ∧ (n = if p.launch = true then 16 else 8)
    (right → p.freeSlots ≠ 0 → ∃ t m, exec i s = .next t ∧ SameMem s t ∧ t.port? p.uid = some { p with queue := p.queue ++ [m] } ∧
      m.words = words ∧ m.grants = [] ∧ m.reply = none) ∧
    (right → p.freeSlots = 0 → ∃ t, exec i s = .next t ∧ t = { s with ports := t.ports } ∧
      t.port? p.uid = some { p with drops := min 511 (p.drops + 1) }) ∧
    (¬ right → ∃ t, exec i s = .next t ∧ t = { s with funcs := t.funcs } ∧ t.func? f.dev f.num = some { f with errors := f.errors + 1 })

/-- R419: a host read of 64 bytes of a slot returns the head message and takes it off its port; a read of another size, of a launch port or of
an empty one returns ones. -/
def HostReads : Prop :=
  ∀ (s : State) (slot bytes : Nat) (f : Func) (d : Dev) (p : Port), s.Due (.hostPortRead f.dev f.num slot bytes) → s.func? f.dev f.num = some f →
    f.slots.find? (·.1 == slot) = some (slot, p.uid) → s.port? p.uid = some p → s.dev? f.dev = some d → d.parked = false →
    (p.st = .opened ∨ p.st = .bound) →
    (∀ m rest, p.queue = m :: rest → bytes = 64 → p.launch = false → m.grants = [] → m.reply = none → m.via = none →
      ∃ t, exec .hostPortRead s = .next t ∧ SameMem s t ∧ t.port? p.uid = some { p with queue := rest } ∧ Answers t f.dev f.num m.words) ∧
    ((p.queue = [] ∨ bytes ≠ 64 ∨ p.launch = true) → ∃ t, exec .hostPortRead s = .next t ∧ t = { s with funcs := t.funcs } ∧
      Answers t f.dev f.num (List.replicate 8 (BitVec.allOnes 64)))

/-- R31, R425: measurement block 1 is the firmware record and block 1 + p the attestation record of partition p; an uncorrectable error of the IOD
poisons the packets at the device and those that its links, in both directions, have not delivered, and the requests that wait there. -/
def Measurement : Prop :=
  (∀ (s : State) (d : Dev) (block : Nat), s.Due (.spdmRequest d.id block) → s.dev? d.id = some d →
    ∃ t x, exec .spdmRequest s = .next t ∧ t = { s with devs := t.devs } ∧ t.dev? d.id = some { d with reply := x } ∧
      (block = 1 → ofLeBytes x = d.fwRecord.toNat ∧ x.length = 32) ∧
      ∀ p, block ≠ 1 → s.part? d.id (block - 1) = some p → ofLeBytes x = p.attest.toNat ∧ x.length = 32) ∧
  ∀ (s : State) (r : RimReq) (d : Dev) (w : Wave), s.Due (.iodUncorrectableError d.id) → s.dev? d.id = some d → s.rimReqs = [r] → r.dev = d.id →
    s.waves = [w] → w.uid ≠ 0 → r.wave = w.uid → r.census = 0 → s.copies = [] →
    ∃ t, exec .iodUncorrectableError s = .next t ∧ SameMem s t ∧ t.rimReqs = [] ∧ t.waves = [{ w with poisonWait := true }] ∧
      t.dev? d.id = some { d with iodError := true } ∧ t.packets.length = s.packets.length ∧
      (∀ (i : Nat) (x y : Packet), s.packets[i]? = some x → t.packets[i]? = some y → x.dev = d.id → y.header.getLsbD 99 = true ∧ y.payload = x.payload) ∧
      ∀ p ∈ s.rimPorts, (p.dev = d.id ∨ p.peer = d.id) → ∀ f ∈ s.inFlight p, ∃ q ∈ t.rimPorts, q.dev = p.dev ∧ q.port = p.port ∧ poisonFlit f ∈ q.replay

end Sys2Proof.Claims

/-- Flits and routing: the statements named. It rests on choices of the model: log entry 26. -/
def Obligations.LinkFlits : Prop := Flits ∧ FlitReceipt ∧ FlitDelivery ∧ Routes

/-- Rim ports and rim requests: the statements named. It rests on choices of the model: log entry 26. -/
def Obligations.RimPorts : Prop := RimPortLife ∧ RimRequests

/-- What the host does through its links: the statements named. -/
def Obligations.HostLinks : Prop := HostMemory ∧ HostWrites ∧ HostReads ∧ Measurement

/-! ## What system software does to contexts, pages and partitions (chapters 04, 05, 15, 20 and 22) -/

namespace Sys2Proof.Claims

/-- R96, R98, R109, R112: CONTEXT_CREATE makes a created context with the lowest free number of its function (the model's choice among the free
ones, log entry 49), weight 16, threshold 256 and no counts; SVC is the partition's service core's to ask for (R105); with 4,096 live contexts of the function, or a field out of its range, it is refused. -/
def ContextBirth : Prop :=
  ∀ (s : State) (dev : Nat) (x : ContextSpec) (f : Func), s.Due (.contextCreate dev x) → s.func? dev x.func = some f → f.draining = false →
    f.tornDown = false → f.part ≠ 0 →
    let live := s.ctxs.filter fun c => c.dev == dev && c.st != .dead
    let mine := live.filter fun c => c.func == x.func
    let ok := mine.length < 4096 ∧ live.length < 16384 ∧ 64 ≤ x.slice ∧ x.slice ≤ 1048576 ∧ (live.map (·.slice)).sum + x.slice ≤ 2 ^ 20 ∧
      x.spillBase % 4096 = 0 ∧ x.slotSize % 4096 = 0 ∧ x.slotSize ≤ 1048576 ∧ x.launchCeiling ≤ 7 ∧ x.root1 % 2048 = 0 ∧
      (x.svc = true → x.bySvc = f.part)
    (ok → ∃ t c, exec .contextCreate s = .next t ∧ t = { s with ctxs := s.ctxs ++ [c], funcs := t.funcs, nextUid := s.nextUid + 1 } ∧
      Answers t dev x.func [0] ∧ c.uid = s.nextUid ∧ c.dev = dev ∧ c.func = x.func ∧ c.part = f.part ∧ c.st = .created ∧ c.svc = x.svc ∧
      c.slice = x.slice ∧ c.root1 = x.root1 ∧ c.ceiling = x.launchCeiling ∧ c.weight = 16 ∧ c.threshold = 256 ∧ c.kernels = [] ∧
      (∀ m ∈ mine, m.num ≠ c.num) ∧ (∀ n < c.num, ∃ m ∈ mine, m.num = n) ∧ c.counters.cycles = 0 ∧ c.counters.evicts = 0) ∧
    (¬ ok → ∃ t, exec .contextCreate s = .next t ∧ t = { s with funcs := t.funcs } ∧ Answers t dev x.func [1])

/-- R98, R112, R114: enabling makes a loaded context runnable with its weight; parking saves its waves and keeps its state for the resume;
resuming one that the device park did not park, and whose copies have stopped, gives the state back and records what its timers missed. -/
def ContextRuns : Prop :=
  (∀ (s : State) (c : Ctx) (f : Func) (weight : Nat), s.Due (.contextEnable c.uid weight) → s.ctx? c.uid = some c → s.func? c.dev c.func = some f →
    (c.st = .loaded → 1 ≤ weight → weight ≤ 255 → ∃ t, exec .contextEnable s = .next t ∧ t = { s with ctxs := t.ctxs, funcs := t.funcs } ∧
      t.ctx? c.uid = some { c with weight, st := .runnable, credit := max c.credit 0 } ∧ Answers t c.dev c.func [0]) ∧
    ((weight = 0 ∨ 255 < weight ∨ c.st = .created) → ∃ t, exec .contextEnable s = .next t ∧ t = { s with funcs := t.funcs } ∧
      Answers t c.dev c.func [1])) ∧
  (∀ (s : State) (c : Ctx), s.Due (.contextPark c.uid) → s.ctx? c.uid = some c → s.wcb = [] → s.jointOps = [] → s.copies = [] →
    (∀ x ∈ s.clusters, ∀ y ∈ s.clusters, x.uid = y.uid → x = y) →
    (c.st = .runnable ∨ c.st = .active → ∃ t x, exec .contextPark s = .next t ∧ SameMem s t ∧ t.ctx? c.uid = some x ∧ x.st = .parked ∧
      x.before = c.st ∧ x.deviceParked = false ∧
      (∀ k ∈ s.clusters, k.ctx = c.uid → k.st = .placed → ∃ y, t.cluster? k.uid = some y ∧ y.st = .parked) ∧
      ∀ k ∈ s.clusters, k.ctx = c.uid → k.st = .placed → ∀ w ∈ s.waves, w.team ∈ k.teams → w.st.onCore = true →
        ∃ v ∈ t.waves, v = w.save) ∧
    (c.st ≠ .runnable → c.st ≠ .active → exec .contextPark s = .next s)) ∧
  ∀ (s : State) (c : Ctx), s.Due (.contextResume c.uid) → s.ctx? c.uid = some c → s.clusters = [] → s.waves = [] → c.before = .runnable →
    (c.st = .parked → c.deviceParked = false → s.copiesRun c.uid = false → ∃ t, exec .contextResume s = .next t ∧
      t = { s with ctxs := t.ctxs, timers := t.timers } ∧ t.ctx? c.uid = some { c with st := .runnable } ∧
      ∀ x ∈ s.timers, (s.timers.filter fun y => y.uid == x.uid) = [x] →
        t.timer? x.uid = some (if x.ctx = c.uid ∧ t.recordsEvents c.uid = true then x.fire (s.time x.dev) else x)) ∧
    (c.st ≠ .parked ∨ c.deviceParked = true ∨ s.copiesRun c.uid = true → exec .contextResume s = .next s)

/-- R98, R115: CONTEXT_TERMINATE ends every wave of the context with no handler run, and with no copy of it running the context is dead and holds
no object, kernel or mesh; every wave of another context stays just as it is and goes on. CONTEXT_RELEASE kills the faulting wave of a faulted context and makes it
runnable, or active when waves of it are ready again; with no wave left its deficit is cleared (R112). Any other context stays as it is. -/
def ContextEnds : Prop :=
  (∀ (s : State) (c : Ctx), s.Due (.contextTerminate c.uid) → s.ctx? c.uid = some c → c.st ≠ .terminating → c.st ≠ .dead → s.wcb = [] →
    s.copies = [] → s.UidsGiven → (∀ x ∈ s.ctxs, ∀ y ∈ s.ctxs, x.uid = y.uid → x = y) →
    ∃ t x, exec .contextTerminate s = .next t ∧ t.ctx? c.uid = some x ∧ x.st = .dead ∧ x.kernels = [] ∧ x.meshes = [] ∧
      (∀ w ∈ t.waves, w.ctx = c.uid → w.st = .exited) ∧
      (∀ w ∈ s.waves, w.ctx = c.uid → w.st ≠ .exited → ∃ v ∈ t.waves, v.uid = w.uid ∧ v.cause = 1 ∧ v.s = w.s) ∧
      (s.latch = [] → ∀ w ∈ s.waves, w.ctx ≠ c.uid → w ∈ t.waves) ∧
      (∀ p ∈ t.ports, p.ctx ≠ c.uid) ∧ (∀ x ∈ t.timers, x.ctx ≠ c.uid) ∧ (∀ x ∈ t.watches, x.ctx ≠ c.uid) ∧ (∀ x ∈ t.handles, x.ctx ≠ c.uid) ∧
      (∀ x ∈ t.tensors, x.ctx ≠ c.uid) ∧ (∀ x ∈ t.tiles, x.ctx ≠ c.uid) ∧ (∀ x ∈ t.tlb, x.ctx ≠ c.uid) ∧
      ∀ x ∈ t.censuses, x.ctx = c.uid → x.st ≠ .collecting) ∧
  ∀ (s : State) (c : Ctx), s.Due (.contextRelease c.uid) → s.ctx? c.uid = some c →
    (∀ w, c.st = .faulted → s.wave? c.faulting = some w → w.st ≠ .exited → w.ctx = c.uid → w.uid ≠ 0 →
      let busy := fun (t : State) => ∃ v ∈ t.waves, v.ctx = c.uid ∧ (v.st = .ready ∨ v.st.onCore = true)
      ∃ t x v, exec .contextRelease s = .next t ∧ t.ctx? c.uid = some x ∧ x.faulting = 0 ∧
        (busy t → x.st = .active) ∧ (¬ busy t → x.st = .runnable) ∧
        ((∀ v ∈ s.waves, v.ctx = c.uid → v.uid ≠ w.uid → v.st = .exited) → x.credit = max c.credit 0) ∧
        t.wave? w.uid = some v ∧ v.st = .exited ∧ v.cause = 1) ∧
    (c.st ≠ .faulted → exec .contextRelease s = .next s)

/-- R118, R449: a container that cannot be read fails at step 1; its refusal extends the attestation record of the partition by 0x02, NAME and the
step, and posts a record. R119: KERNEL_UNLOAD frees the number and scrubs the frames, those that the partition still owns, of a kernel that no
launch and no census needs. -/
def KernelLoads : Prop :=
  (∀ (s : State) (c : Ctx) (p : Part) (a : Word) (b1 b2 b3 : Nat), s.Due (.kernelLoad c.uid a b1 b2 b3) → s.ctx? c.uid = some c →
    c.st ≠ .terminating → c.st ≠ .dead → s.part? c.dev c.part = some p →
    let refused := fun (name : List Byte) (r : BitVec 256) (stage seg : Nat) => ∃ t q, exec .kernelLoad s = .next t ∧ SameMem s t ∧
      t.ctxs = s.ctxs ∧ t.part? c.dev c.part = some q ∧ q.attest = extendRecord r ([0x02] ++ name ++ [.ofNat 8 stage]) ∧
      ∀ f, s.func? c.dev c.func = some f → ∃ g rec, t.func? c.dev c.func = some g ∧ g.records = f.records ++ [rec] ∧
        rec.getD 0 0 = .ofNat 64 (0x31 + c.num * 2 ^ 20) ∧ rec.getD 1 0 = .ofNat 64 (stage + seg * 256) ∧ rec.getD 2 0 = a
    (s.readContainer c.uid a.toNat = none → refused (s.containerName c.uid a.toNat) p.attest 1 0xFF) ∧
    (∀ x i, s.readContainer c.uid a.toNat = some x → checkStep1 c x = .error i → refused x.name p.attest 1 i) ∧
    (∀ x r i, s.readContainer c.uid a.toNat = some x → checkStep1 c x = .ok () → s.checkStep2 c a.toNat x p.attest x.segs = (r, some i) →
      refused x.name r 2 i) ∧
    (∀ x r i, s.readContainer c.uid a.toNat = some x → checkStep1 c x = .ok () → s.checkStep2 c a.toNat x p.attest x.segs = (r, none) →
      checkStep3 x = .error i → refused x.name r 3 i) ∧
    (∀ x r, s.readContainer c.uid a.toNat = some x → checkStep1 c x = .ok () → s.checkStep2 c a.toNat x p.attest x.segs = (r, none) →
      checkStep3 x = .ok () → s.mapKernel c x b1 b2 b3 = none → refused x.name r 4 0xFF)) ∧
  (∀ (s : State) (c : Ctx) (p : Part) (a : Word) (sbase lbase dbase : Nat) (x : Container) (r : BitVec 256) (u : State) (n : Nat),
    s.Due (.kernelLoad c.uid a sbase lbase dbase) → s.ctx? c.uid = some c → c.st = .created → s.part? c.dev c.part = some p →
    s.readContainer c.uid a.toNat = some x → checkStep1 c x = .ok () → s.checkStep2 c a.toNat x p.attest x.segs = (r, none) →
    checkStep3 x = .ok () → s.mapKernel c x sbase lbase dbase = some (u, n) →
    ∃ t q k d, exec .kernelLoad s = .next t ∧ t.part? c.dev c.part = some q ∧ q.attest = r ∧ t.ctx? c.uid = some d ∧ d.st = .loaded ∧
      d.kernels = c.kernels ++ [k] ∧ k.num = n ∧ (∀ y ∈ c.kernels, y.num ≠ n) ∧ k.waves = leField x.header 0x28 1 ∧
      k.vregs = 16 * leField x.header 0x29 1 ∧ k.entries = words4 (x.bytes 5) ∧ k.sbase = sbase ∧ k.swords * 4 = (x.bytes 1).length / 4 * 4) ∧
  ∀ (s : State) (c : Ctx) (n : Nat) (f : Func), s.Due (.kernelUnload c.uid n) → s.ctx? c.uid = some c → s.func? c.dev c.func = some f →
    (∀ k, c.kernel? n = some k → s.launches = [] → s.ports = [] → s.lent = [] → s.tiles = [] → ∃ t, exec .kernelUnload s = .next t ∧
      t = { s with ctxs := t.ctxs, owners := t.owners, funcs := t.funcs } ∧
      t.ctx? c.uid = some { c with kernels := c.kernels.filter fun x => x.num != n } ∧ Answers t c.dev c.func [0] ∧
      ∀ d x, t.frameCode d x = if d = c.dev ∧ x ∈ k.frames ∧ s.frameCode d x = .ofNat 8 c.part then 0xFE else s.frameCode d x) ∧
    (c.kernel? n = none ∨ s.launchNeeds c.uid n = true ∨ (∃ k, c.kernel? n = some k ∧ s.censusNeeds c.uid k = true) → ∃ t, exec .kernelUnload s = .next t ∧
      t = { s with funcs := t.funcs } ∧ Answers t c.dev c.func [1])

/-- R353, R354, R368: PAGE_READY holds the page, with the whole size of its leaves, for each wave that waits for any byte of it and lets it go on
at its IRB; PAGE_REFUSED makes each trap
PAGE_FAULT with REASON 6 and RGN, and STAGE, LEVEL and WR of the access, at its next boundary; HOLD_REPORT gives the pages held for a context. -/
def PageAnswers : Prop :=
  (∀ (s : State) (c : Ctx) (va : Word), s.ctx? c.uid = some c →
    let waits := fun (size : Nat) (w : Wave) => w.ctx = c.uid ∧ ∃ a, w.pageWait = some a ∧ a.toNat / size = va.toNat / size
    let leaf := s.leavesAt c.uid va.toNat
    let awake := fun (w : Wave) => if w.st = .waiting then WaveState.resident else w.st
    (s.Due (.pageReady c.uid va) → ∃ t, exec .pageReady s = .next t ∧
      t = { s with waves := t.waves, ctxs := t.ctxs, copies := t.copies, holds := t.holds } ∧ t.waves.length = s.waves.length ∧
      (∀ (i : Nat) (w v : Wave), s.waves[i]? = some w → t.waves[i]? = some v → (¬ waits leaf.size w → v = w) ∧
        (waits leaf.size w → v = { w with pageWait := none, replays := w.replays + 1, st := awake w } ∧
          ∃ h ∈ t.holds, h = { leaf with wave := w.uid } ∧ h.ctx = c.uid ∧ h.page.toNat = va.toNat / leaf.size * leaf.size)) ∧
      ∀ h ∈ s.holds, h ∈ t.holds) ∧
    (s.Due (.pageRefused c.uid va) → ∃ t, exec .pageRefused s = .next t ∧
      t = { s with waves := t.waves, copies := t.copies } ∧ t.waves.length = s.waves.length ∧
      ∀ (i : Nat) (w v : Wave), s.waves[i]? = some w → t.waves[i]? = some v → (¬ waits 4096 w → v = w) ∧
        (waits 4096 w → ∃ x, v = { w with pageWait := none, st := awake w, pending := w.pending ++ [x], seq := w.seq + 1 } ∧ x.cause = 0x10 ∧
          w.pageWait = some x.addr ∧ x.info = w.pageInfo ||| .ofNat 64 (2 ^ 48 + 6 * 2 ^ 44) ∧ x.boundary = true))) ∧
  ∀ (s : State) (c : Ctx) (f : Func), s.Due (.holdReport c.uid) → s.ctx? c.uid = some c → s.func? c.dev c.func = some f →
    ∃ t, exec .holdReport s = .next t ∧ t = { s with funcs := t.funcs } ∧
      Answers t c.dev c.func ((s.holds.filter fun h => h.ctx == c.uid).map (·.page))

/-- R311, R423, R435: a partition takes a hoop of a joined die that no partition holds, and gives up one without a placed team, which is gated;
a change that would take a frame is refused; DOMAIN_ASSIGN notes a domain from 1 to 255 for the move of the names. -/
def PartitionChanges : Prop :=
  (∀ (s : State) (p : Part) (d : Dev) (hoop : Nat), s.Due (.partitionChange p.dev p.num (.giveHoop hoop)) → 1 ≤ p.num → p.num ≤ 20 →
    s.part? p.dev p.num = some p → s.dev? p.dev = some d → (∀ f ∈ s.funcs, f.draining = false) →
    let ok := hoop < 64 ∧ hoop / 8 ∈ d.dies ∧ ∀ q ∈ s.parts, q.dev = p.dev → hoop ∉ q.hoops
    (ok → ∃ t, exec .partitionChange s = .next t ∧ t = { s with parts := t.parts, gated := t.gated } ∧
      t.part? p.dev p.num = some { p with hoops := p.hoops ++ [hoop] } ∧ (p.dev, hoop) ∉ t.gated) ∧
    (¬ ok → exec .partitionChange s = .next s)) ∧
  (∀ (s : State) (p : Part) (hoop : Nat), s.Due (.partitionChange p.dev p.num (.takeHoop hoop)) → 1 ≤ p.num → p.num ≤ 20 →
    s.part? p.dev p.num = some p → (∀ f ∈ s.funcs, f.draining = false) →
    let stands := ∃ x ∈ s.teams, x.dev = p.dev ∧ x.core / 8 = hoop ∧ s.placedTeam x = true
    (hoop ∈ p.hoops → ¬ stands → ∃ t, exec .partitionChange s = .next t ∧ SameMem s t ∧
      t.part? p.dev p.num = some { p with hoops := p.hoops.filter (· != hoop) } ∧ (p.dev, hoop) ∈ t.gated) ∧
    (hoop ∉ p.hoops ∨ stands → exec .partitionChange s = .next s)) ∧
  (∀ (s : State) (dev part first count : Nat), s.Due (.partitionChange dev part (.takeFrames first count)) →
    exec .partitionChange s = .next s) ∧
  ∀ (s : State) (dev part domain : Nat), s.Due (.domainAssign dev part domain) →
    (1 ≤ domain ∧ domain ≤ 255 → ∃ t, exec .domainAssign s = .next t ∧ t = { s with parts := t.parts } ∧
      ∀ d n, t.part? d n = if d = dev ∧ n = part then (s.part? d n).map fun (p : Part) => { p with nextDomain := some domain } else s.part? d n) ∧
    (domain = 0 ∨ 255 < domain → exec .domainAssign s = .next s)

/-- R426: FUNCTION_TEARDOWN of a virtual function lets it drain and ends its contexts; 100 µs on, with every context dead,
TEARDOWN_DRAIN_EXPIRE drops the packets of its contexts and unbinds it, and with the partition's last function its group's packets go and its
frames enter scrubbing. The physical function is not torn down. -/
def Teardown : Prop :=
  (∀ (s : State) (f : Func), s.Due (.functionTeardown f.dev f.num) → s.func? f.dev f.num = some f → f.tornDown = false → f.draining = false →
    (∀ x ∈ s.ctxs, ∀ y ∈ s.ctxs, x.uid = y.uid → x = y) →
    (f.num ≠ 0 → f.part ≠ 0 → (∀ c ∈ s.ctxs, c.dev = f.dev → c.func = f.num → c.st = .dead) →
      ∃ t, exec .functionTeardown s = .next t ∧ t = { s with funcs := t.funcs } ∧
        t.func? f.dev f.num = some { f with draining := true, drainFrom := s.time f.dev }) ∧
    (f.num = 0 ∨ f.part = 0 → exec .functionTeardown s = .next s)) ∧
  ∀ (s : State) (f : Func), s.Due (.teardownDrainExpire f.dev f.num) → s.func? f.dev f.num = some f → f.part ≤ 20 →
    let due := f.draining = true ∧ (∀ c ∈ s.ctxs, c.dev = f.dev → c.func = f.num → c.st = .dead) ∧ f.drainFrom + 100000 ≤ s.time f.dev
    let last := ∀ g ∈ s.funcs, g.dev = f.dev → g.part = f.part → g.num = f.num
    (due → ∃ t, exec .teardownDrainExpire s = .next t ∧ (¬ last ∨ (s.lent = [] ∧ s.ports = []) → SameMem s t) ∧
      t.func? f.dev f.num = some { f with draining := false, tornDown := true, part := 0, slots := [] } ∧
      (∀ x ∈ t.packets, x ∈ s.packets ∧ s.packetOf f false x.header.toNat = false ∧
        (last → ¬ (hGROUP x.header.toNat = f.part ∧ packetDev x.header.toNat = f.dev))) ∧
      (∀ x ∈ s.packets, s.packetOf f true x.header.toNat = false → x ∈ t.packets) ∧
      (last → s.lent = [] → s.ports = [] →
        ∀ r ∈ s.owners, r.dev = f.dev → r.code = .ofNat 8 f.part → ∀ x, r.first ≤ x → x < r.first + r.count →
          t.frameCode f.dev x ≠ .ofNat 8 f.part)) ∧
    (¬ due → exec .teardownDrainExpire s = .next s)

end Sys2Proof.Claims

/-- The life of a context, and page answers: the statements named. It rests on choices of the model: log entries 34, 49. -/
def Obligations.ContextRequests : Prop := ContextBirth ∧ ContextRuns ∧ ContextEnds ∧ PageAnswers

/-- Loading and unloading kernels: the statements named. It rests on choices of the model: log entries 51, 9. -/
def Obligations.Loader : Prop := KernelLoads

/-- Partitions, domains and teardown: the statements named. It rests on choices of the model: log entry 40. -/
def Obligations.Partitions : Prop := PartitionChanges ∧ Teardown

/-! ## Start, power, wear, errors and the service cores (chapters 02, 18, 20 and 22) -/

namespace Sys2Proof.Claims

/-- R24, R427, R432: POWER_GOOD counts itself in the wear record, zeroes the time base and enters stage A; a device that has started stays. Only
interfaces with an acceptable record are trained then (R428), and only service cores whose images pass their verification run (R425).
START_STAGE_B, once CD0's interfaces and the host links are trained, joins CD0 and makes partition 1, on its eight hoops, the safe partition,
bound to the physical function; which frames lie in its 192 GB is the model's choice (log entries 28 and 52). DIE_JOIN by the root monitor joins
each other die once its own interfaces are trained, and with the last, and no port of the map in training, the device has full function. -/
def Start : Prop :=
  (∀ (s : State) (d : Dev), s.Due (.powerGood d.id) → s.dev? d.id = some d →
    (d.stage = .off → ∃ t e, exec .powerGood s = .next t ∧ SameMem s t ∧ t.dev? d.id = some e ∧ e.stage = .stageA ∧ e.time = 0 ∧ e.dies = [] ∧
      e.wear = { d.flash with power := .ofNat 32 (min (2 ^ 32 - 1) (d.flash.power.toNat + 1)) } ∧ e.flash = e.wear ∧ e.fwRecord = firmwareRecord ∧
      (∀ i ∈ e.trained, ∃ r ∈ s.trainings, r.dev = d.id ∧ r.iface = i ∧ r.crc = r.check ∧ d.flash.thermal.toNat < r.thermal + 64 ∧
        d.flash.hoursSum < r.hours + 2000) ∧
      (∀ n ≤ 128, ∃ f, t.func? d.id n = some f ∧ f.part = 0) ∧
      ∀ k < 22, ∃ c ∈ t.svcCores, c.dev = d.id ∧ c.core = k ∧ c.running = imageOk k) ∧
    (d.stage ≠ .off → exec .powerGood s = .next s)) ∧
  (∀ (s : State) (d : Dev) (f : Func) (root2 first count w h : Nat), s.Due (.startStageB d.id root2 first count w h) → s.dev? d.id = some d →
    s.func? d.id 0 = some f →
    let ok := d.stage = .stageA ∧ d.iodError = false ∧ ∀ i ∈ [Interface.hostLink 0, .hostLink 1] ++ dieInterfaces 0, i ∈ d.trained
    (ok → ∃ t p, exec .startStageB s = .next t ∧ SameMem s t ∧ t.dev? d.id = some { d with stage := .stageB, dies := [0] } ∧
      t.part? d.id 1 = some p ∧ p.hoops = List.range 8 ∧ p.ageing = 2000 ∧ p.sliceNs = 4000000 ∧ p.running = 0 ∧
      t.func? d.id 0 = some { f with part := 1, root2 } ∧
      (w ≤ 16 → h ≤ 16 → d.id % 16 < w → d.id / 16 < h → t.podW = w ∧ t.podH = h) ∧
      ∀ x < 2929687, t.frameCode d.id x = if first ≤ x ∧ x < first + count then 0xFF else 1) ∧
    (¬ ok → exec .startStageB s = .next s)) ∧
  ∀ (s : State) (d : Dev) (die : Nat), s.Due (.dieJoin d.id die) → s.dev? d.id = some d →
    let ok := d.stage = .stageB ∧ 1 ≤ die ∧ die ≤ 7 ∧ die ∉ d.dies ∧ s.svcRuns d.id 20 = true ∧ d.iodError = false ∧
      ∀ i ∈ dieInterfaces die, i ∈ d.trained
    let rimDone := ∀ p ∈ s.rimPorts, p.dev = d.id → p.st ≠ .training ∧ p.full = false
    (ok → ∃ t, exec .dieJoin s = .next t ∧ SameMem s t ∧
      (d.dies.length = 7 ∧ rimDone → t.dev? d.id = some { d with dies := d.dies ++ [die], stage := .full }) ∧
      (¬ (d.dies.length = 7 ∧ rimDone) → t.dev? d.id = some { d with dies := d.dies ++ [die] }) ∧
      ∀ f, s.func? d.id 0 = some f → ∃ g r, t.func? d.id 0 = some g ∧ g.records = f.records ++ [r]) ∧
    (¬ ok → exec .dieJoin s = .next s)

/-- R437, R432: a restart and a loss of power leave nothing of what the device held; its time base counts on through a restart, and after a loss
of power its wear is what flash held, but for a thermal count in progress. An orderly power-off writes the wear record first. -/
def Ends : Prop :=
  let gone := fun (t : State) (n : Nat) => (∀ w ∈ t.waves, w.dev ≠ n) ∧ (∀ x ∈ t.teams, x.dev ≠ n) ∧ (∀ x ∈ t.ctxs, x.dev ≠ n) ∧
    (∀ x ∈ t.ports, x.dev ≠ n) ∧ (∀ x ∈ t.copies, x.dev ≠ n) ∧ (∀ x ∈ t.tiles, x.dev ≠ n) ∧ (∀ x ∈ t.owners, x.dev ≠ n) ∧ (∀ x ∈ t.parts, x.dev ≠ n) ∧
    (∀ x ∈ t.tlb, x.dev ≠ n) ∧ (∀ x ∈ t.rimPorts, x.dev ≠ n) ∧ ∀ a < 2 ^ 43, Memory.read t.mem (physOf n a) = 0
  (∀ (s : State) (d : Dev), s.Due (.restart d.id) → s.dev? d.id = some d →
    (d.stage ≠ .off → ∃ t e, exec .restart s = .next t ∧ gone t d.id ∧ t.dev? d.id = some e ∧ e.stage = .stageA ∧ e.time = d.time ∧ e.wear = d.wear) ∧
    (d.stage = .off → exec .restart s = .next s)) ∧
  (∀ (s : State) (d : Dev), s.Due (.powerLoss d.id) → s.dev? d.id = some d →
    ∃ t e, exec .powerLoss s = .next t ∧ gone t d.id ∧ t.dev? d.id = some e ∧ e.stage = .off ∧ e.wear = e.flash ∧
      (e.flash = d.flash ∨ e.flash = { d.flash with thermal := d.wear.thermal })) ∧
  ∀ (s : State) (d : Dev), s.Due (.orderlyPowerOff d.id) → s.dev? d.id = some d →
    ∃ t e, exec .orderlyPowerOff s = .next t ∧ gone t d.id ∧ t.dev? d.id = some e ∧ e.stage = .off ∧ e.flash = e.wear ∧
      e.wear.thermal = d.wear.thermal ∧ e.wear.power = d.wear.power ∧ e.wear.park = d.wear.park

/-- R428, R432, R436: a full retrain writes the interface's record, of now, with its CRC-32C, and the interface is trained, a rim port from its
stored parameters again; HOURS_WRITE and THERMAL_CYCLE, of the housekeeping core, keep the wear record, whose counts saturate;
WEAR_COUNTER_READ gives it in four words, HOURS in bits 119 to 0. -/
def Wearing : Prop :=
  (∀ (s : State) (d : Dev) (i : Interface), s.Due (.fullRetrainComplete d.id i) → s.dev? d.id = some d →
    let trains := d.stage ≠ .off ∧ d.parked = false ∧ d.iodError = false
    (trains → ∃ t r, exec .fullRetrainComplete s = .next t ∧ SameMem s t ∧ r ∈ t.trainings ∧
      (∀ x, x ∈ t.trainings ↔ x = r ∨ (x ∈ s.trainings ∧ ¬ (x.dev = d.id ∧ x.iface = i))) ∧ r.dev = d.id ∧ r.iface = i ∧
      r.thermal = d.wear.thermal.toNat ∧ r.hours = d.wear.hoursSum ∧ r.crc = r.check ∧
      ((∀ p, i ≠ .rimPort p) → t.rimPorts = s.rimPorts ∧ t.dev? d.id = some { d with trained := i :: d.trained.filter (· != i) }) ∧
      ∀ p q, i = .rimPort p → s.rimPort? d.id p = some q → (q.full = false → t.rimPorts = s.rimPorts) ∧
        (q.full = true → ∃ x, t.rimPort? d.id p = some x ∧ x.full = false ∧ x.again = false ∧ (x.st = .up ∨ x.st = .training))) ∧
    (¬ trains → exec .fullRetrainComplete s = .next s)) ∧
  (∀ (s : State) (d : Dev), s.Due (.hoursWrite d.id) → s.dev? d.id = some d →
    (s.svcRuns d.id 21 = false → exec .hoursWrite s = .next s) ∧
    (s.svcRuns d.id 21 = true → ∃ t e, exec .hoursWrite s = .next t ∧ t = { s with devs := t.devs, free := t.free } ∧ t.dev? d.id = some e ∧ e.flash = e.wear ∧
      e.wear = { d.wear with hours := e.wear.hours } ∧ e.wear.hours.length = d.wear.hours.length ∧
      ∀ i, (d.wear.hours.getD i 0).toNat ≤ (e.wear.hours.getD i 0).toNat)) ∧
  (∀ (s : State) (d : Dev), s.Due (.thermalCycle d.id) → s.dev? d.id = some d →
    (s.svcRuns d.id 21 = false → exec .thermalCycle s = .next s) ∧
    (s.svcRuns d.id 21 = true → ∃ t, exec .thermalCycle s = .next t ∧ t = { s with devs := t.devs } ∧ t.dev? d.id = some { d with
      flash := { d.flash with thermal := d.wear.thermal }, thermalAt := d.time,
      wear := { d.wear with thermal := .ofNat 32 (min (2 ^ 32 - 1) (d.wear.thermal.toNat + 1)) } })) ∧
  ∀ (s : State) (d : Dev) (f : Func) (a b c e g : BitVec 24), s.Due (.wearCounterRead d.id) → s.dev? d.id = some d → s.func? d.id 0 = some f →
    d.wear.hours = [a, b, c, e, g] →
    ∃ t x, exec .wearCounterRead s = .next t ∧ t = { s with funcs := t.funcs } ∧ Answers t d.id 0 x ∧ x.length = 4 ∧
      (∀ i < 4, (x.getD i 0) = (d.wear.record >>> (64 * i)).setWidth 64) ∧ x.getD 3 0 = d.wear.thermal.setWidth 64 <<< 32 ||| d.wear.power.setWidth 64 ∧
      (x.getD 0 0).setWidth 24 = a ∧ x.getD 2 0 = d.wear.park.setWidth 64 <<< 32

/-- R17, R28: the cap is at most 3,600 W. At an evaluation of the housekeeping core above it issue is withheld from ordinary waves, then from
census responders too, handlers never, until the average falls below the cap; when the second class begins is open (log entry 54). -/
def Power : Prop :=
  (∀ (s : State) (d : Dev) (watts : Nat), s.Due (.setPowerCap d.id watts) → s.dev? d.id = some d →
    (watts ≤ 3600 → ∃ t, exec .setPowerCap s = .next t ∧ t = { s with devs := t.devs } ∧ t.dev? d.id = some { d with cap := watts }) ∧
    (3600 < watts → exec .setPowerCap s = .next s)) ∧
  (∀ (s : State) (d : Dev) (watts : Nat), s.Due (.powerCapEvaluate d.id watts) → s.dev? d.id = some d →
    (s.svcRuns d.id 21 = false → exec .powerCapEvaluate s = .next s) ∧
    (s.svcRuns d.id 21 = true → ∃ t n, exec .powerCapEvaluate s = .next t ∧ t = { s with devs := t.devs, free := t.free } ∧
      t.dev? d.id = some { d with avg := watts, withheld := n } ∧ (watts < d.cap → n = 0) ∧ (watts = d.cap → n = d.withheld) ∧
      (d.cap < watts → d.withheld = 0 → n = 1) ∧ (d.cap < watts → d.withheld ≠ 0 → n = d.withheld ∨ n = 2))) ∧
  ∀ (level : Nat) (w : Wave), (w.level = .handler → withheldFrom level w = false) ∧ (level = 0 → withheldFrom level w = false) ∧
    (w.responder.isSome = true → level < 2 → withheldFrom level w = false) ∧
    (w.level = .ordinary → w.st.onCore = true → w.responder = none → 1 ≤ level → withheldFrom level w = true)

/-- R429, R430, R431: PARK_REQUEST parks every context that runs and, with no copy running, the device; one park more is counted. While a started
copy of the device runs the entry is in progress and the request stands.
RESUME_REQUEST gives back the contexts that the device park took, and no others. -/
def DevicePark : Prop :=
  (∀ (s : State) (d : Dev) (c : Ctx), s.Due (.parkRequest d.id) → s.dev? d.id = some d → s.ctxs = [c] → c.dev = d.id → s.clusters = [] →
    s.wcb = [] → s.trainings = [] → s.rimPorts = [] →
    let runs := ∃ x ∈ s.copies, x.dev = d.id ∧ x.st = .started
    (d.stage = .full → d.parked = false → d.iodError = false → c.st = .active ∨ c.st = .runnable → runs →
      ∃ t, exec .parkRequest s = .next t ∧ SameMem s t ∧ t.ctxs = [{ c with before := c.st, st := .parked, deviceParked := true }] ∧
        t.dev? d.id = some { d with parking := true } ∧ t.inputs = .parkRequest d.id :: s.inputs) ∧
    (d.stage = .full → d.parked = false → d.iodError = false → c.st = .active ∨ c.st = .runnable → ¬ runs →
      ∃ t e, exec .parkRequest s = .next t ∧ SameMem s t ∧ t.ctxs = [{ c with before := c.st, st := .parked, deviceParked := true }] ∧
        t.dev? d.id = some e ∧ e.parked = true ∧ e.parking = false ∧ e.wear.park = .ofNat 32 (min (2 ^ 32 - 1) (d.wear.park.toNat + 1)) ∧ e.flash = e.wear) ∧
    (d.stage ≠ .full ∨ d.parked = true ∨ d.iodError = true → exec .parkRequest s = .next s)) ∧
  ∀ (s : State) (d : Dev) (c : Ctx), s.Due (.resumeRequest d.id) → s.dev? d.id = some d → s.ctxs = [c] → c.dev = d.id → s.clusters = [] → s.waves = [] →
    s.rimPorts = [] → c.before = .runnable → c.st = .parked →
    (d.parked = true → d.iodError = false → ∃ t, exec .resumeRequest s = .next t ∧ SameMem s t ∧ t.dev? d.id = some { d with parked := false } ∧
      t.ctxs = [if c.deviceParked = true then { c with st := .runnable, deviceParked := false } else c]) ∧
    (d.parked = false ∨ d.iodError = true → exec .resumeRequest s = .next s)

/-- R398, R399: a corrected error is counted, for the partition it concerns too, and nothing else changes; an uncorrected one is counted so and poisons its unit, or faults the context
whose state it struck, with a record. -/
def Errors : Prop :=
  (∀ (s : State) (d : Dev) (store part : Nat), s.Due (.correctedError d.id store part) → s.dev? d.id = some d →
    ∃ t x, exec .correctedError s = .next t ∧ t = { s with devs := t.devs } ∧
      t.dev? d.id = some { d with telemetry := { d.telemetry with corrected := x, partErrors := (part, store, true) :: d.telemetry.partErrors } } ∧
      ∀ i < d.telemetry.corrected.length, x.getD i 0 = d.telemetry.corrected.getD i 0 + if i = store then 1 else 0) ∧
  (∀ (s : State) (d : Dev) (store : Nat) (u : ErrUnit), s.Due (.uncorrectedError d.id store u) → s.dev? d.id = some d →
    let counted := fun (t : State) => ∃ x, t.dev? d.id = some { d with telemetry :=
        { d.telemetry with uncorrected := x, partErrors := (s.unitPart d.id u, store, false) :: d.telemetry.partErrors } } ∧
      ∀ i < d.telemetry.uncorrected.length, x.getD i 0 = d.telemetry.uncorrected.getD i 0 + if i = store then 1 else 0
    (∀ r w, u = .sReg w r → ∃ t, exec .uncorrectedError s = .next t ∧ t = { s with devs := t.devs, poison := t.poison } ∧ counted t ∧
      ∀ v, v ∈ t.poison ↔ v = u ∨ v ∈ s.poison) ∧
    (∀ a, u = .memWord a → ∃ t, exec .uncorrectedError s = .next t ∧ t = { s with devs := t.devs, poison := t.poison } ∧ counted t ∧
      ∀ v, v ∈ t.poison ↔ v = .memWord (a / 8 * 8) ∨ v ∈ s.poison) ∧
    ∀ c, u = .contextState c.uid → s.ctx? c.uid = some c → c.st = .runnable → s.clusters = [] → ∃ t, exec .uncorrectedError s = .next t ∧
      SameMem s t ∧ counted t ∧ t.poison = s.poison ∧ t.ctx? c.uid = some { c with st := .faulted, before := .runnable, faulting := 0 } ∧
      ∀ f, s.func? c.dev c.func = some f → ∃ g r, t.func? c.dev c.func = some g ∧ g.records = f.records ++ [r] ∧
        r.getD 0 0 = .ofNat 64 (0x32 + c.num * 2 ^ 20))

/-- R235, R399, R433, R434: patrol scrubbing and recalibration, of a device that is not parked, take tokens of the system and change nothing that a
program sees; a telemetry sample holds temperature and power of each die, the IOD's last, and the THROTTLE total of the device. The physical
function reads all of it, a reader of a partition the error counts that concern that partition alone. -/
def Background : Prop :=
  (∀ (s : State) (d : Dev) (frame : Nat), s.Due (.patrolScrub d.id frame) → s.dev? d.id = some d →
    let runs := s.svcRuns d.id 21 = true ∧ d.parked = false
    (¬ runs → exec .patrolScrub s = .next s) ∧
    (runs → ∃ t, exec .patrolScrub s = .next t ∧ t = { s with devs := t.devs, buckets := t.buckets, ctxs := t.ctxs, parts := t.parts } ∧
      t.dev? d.id = some { d with scrubbed := frame })) ∧
  (∀ (s : State) (d : Dev) (chan : Nat), s.Due (.hbmRecalibration d.id chan) → s.dev? d.id = some d →
    let runs := s.svcRuns d.id 21 = true ∧ d.parked = false
    (¬ runs → exec .hbmRecalibration s = .next s) ∧
    (runs → ∃ t, exec .hbmRecalibration s = .next t ∧ t = { s with buckets := t.buckets, ctxs := t.ctxs, parts := t.parts } ∧
      ∀ b, s.buckets = [b] → b.dev = d.id → b.port = chan % 512 → b.part = 0 → 14 ≤ b.tokens → s.ctx? 0 = none →
        t.buckets = [{ b with tokens := b.tokens - 14, lendable := min b.lendable (b.tokens - 14) }])) ∧
  (∀ (s : State) (d : Dev), s.Due (.telemetrySample d.id) → s.dev? d.id = some d →
    (s.svcRuns d.id 21 = false → ∃ t, exec .telemetrySample s = .next t ∧ t = { s with free := t.free }) ∧
    (s.svcRuns d.id 21 = true → ∃ t x, exec .telemetrySample s = .next t ∧ t = { s with devs := t.devs, free := t.free } ∧ t.dev? d.id = some { d with telemetry := x } ∧
      x.temps.length = 9 ∧ x.powers.length = 9 ∧ x.throttle = d.throttled ∧ x.corrected = d.telemetry.corrected ∧
      x.uncorrected = d.telemetry.uncorrected ∧ x.partErrors = d.telemetry.partErrors)) ∧
  (∀ (s : State) (d : Dev) (f : Func), s.dev? d.id = some d → s.func? d.id 0 = some f → s.Due (.telemetryRead d.id none) →
    ∃ t, exec .telemetryRead s = .next t ∧ t = { s with funcs := t.funcs } ∧
      Answers t d.id 0 ((d.telemetry.temps ++ d.telemetry.powers ++ [d.telemetry.throttle] ++ d.telemetry.corrected ++
        d.telemetry.uncorrected).map (BitVec.ofNat 64))) ∧
  ∀ (s : State) (d : Dev) (p : Part) (f : Func), s.dev? d.id = some d → s.part? d.id p.num = some p → s.func? d.id p.running = some f →
    s.Due (.telemetryRead d.id (some p.num)) →
    ∃ t x, exec .telemetryRead s = .next t ∧ t = { s with funcs := t.funcs } ∧ Answers t d.id p.running x ∧
      x.length = 16 ∧ ∀ i < 8, x.getD i 0 = .ofNat 64 (d.telemetry.partErrors.count (p.num, i, true)) ∧
        x.getD (8 + i) 0 = .ofNat 64 (d.telemetry.partErrors.count (p.num, i, false))

/-- R30, R424, R425: windowed pointers of a service core. A pointer of window 0 passes; the checks of R424 fail in their order, and the first
failure is recorded, halts the image and posts a record to the root monitor, which may restart the image once it passes its verification. A
load that passes gives the core the bytes of the window's memory, a store writes them. A window instruction of the core of a partition opens a
window over frames that the partition owns, or copies an entry of the partition that another core's table lets it have, and the root monitor's
opens any. -/
def Windows : Prop :=
  (∀ (s : State) (c : SvcCore) (ptr : Word) (size : Nat) (acc : WinAccess) (data : List Byte),
    s.Due (.windowedAccess c.dev c.core ptr size acc data) → s.svc? c.dev c.core = some c →
    let n := bitsOf ptr.toNat 52 12
    let e := ((c.window.find? (·.1 == n)).map (·.2)).getD 0
    let check : Option Nat := if n = 0 then none
      else if winSpan e = 0 then some 1
      else if winSpan e < ptr.toNat % 2 ^ 52 + size then some 2
      else if winPermits e acc = false then some 3
      else if winKindOk e acc = false then some 4 else none
    let at' := physOf c.dev ((winBase e + ptr.toNat % 2 ^ 52) % 2 ^ 43)
    (c.running = true → ∀ k, check = some k → ∃ t, exec .windowedAccess s = .next t ∧ t = { s with svcCores := t.svcCores } ∧
      t.svc? c.dev c.core = some { c with running := false, fault := some (ptr, k),
                                          records := if c.core = 20 then c.records ++ [(20, ptr, k)] else c.records } ∧
      (c.core ≠ 20 → ∀ r, s.svc? c.dev 20 = some r → t.svc? c.dev 20 = some { r with records := r.records ++ [(c.core, ptr, k)] })) ∧
    (c.running = true → check = none → n ≠ 0 → s.MemWf →
      (acc = .load ∨ (∃ k, acc = .kindLoad k) → ∃ t d, exec .windowedAccess s = .next t ∧ t = { s with svcCores := t.svcCores } ∧
        t.svc? c.dev c.core = some d ∧ d = { c with reply := d.reply } ∧ d.reply.length = size ∧
        ∀ i < size, d.reply.getD i 0 = Memory.read s.mem (at' + i)) ∧
      (acc = .store ∨ (∃ k, acc = .kindStore k) → ∃ t, exec .windowedAccess s = .next t ∧
        t = { s with mem := t.mem, poison := t.poison, watches := t.watches } ∧
        ∀ x, Memory.read t.mem x = if at' ≤ x ∧ x < at' + min size data.length then data.getD (x - at') 0 else Memory.read s.mem x) ∧
      (acc = .fetch → exec .windowedAccess s = .next s)) ∧
    (c.running = false ∨ n = 0 → exec .windowedAccess s = .next s)) ∧
  (∀ (s : State) (c : SvcCore) (n : Nat) (e : BitVec 128), s.Due (.windowInstruction c.dev c.core n e) → s.svc? c.dev c.core = some c →
    let own := c.core < 20 ∧ winOwner e = c.core + 1 ∧ s.regionOwned c.dev (c.core + 1) (winBase e) (winSpan e) = true
    let passed := winRight e 0 = true ∧ (20 ≤ c.core ∨ winOwner e = c.core + 1) ∧
      ∃ x ∈ s.svcCores, x.dev = c.dev ∧ x.core ≠ c.core ∧ ∃ y ∈ x.window, y.2 = e
    let ok := c.running = true ∧ 1 ≤ n ∧ n < 4096 ∧ (c.core = 20 ∨ own ∨ passed)
    (ok → ∃ t d, exec .windowInstruction s = .next t ∧ t = { s with svcCores := t.svcCores } ∧ t.svc? c.dev c.core = some d ∧
      d.window.find? (·.1 == n) = some (n, e) ∧ ∀ m, m ≠ n → d.window.find? (·.1 == m) = c.window.find? (·.1 == m)) ∧
    (¬ ok → exec .windowInstruction s = .next s)) ∧
  ∀ (s : State) (c : SvcCore), s.Due (.serviceCoreImageRestart c.dev c.core) → s.svc? c.dev c.core = some c →
    (s.svcRuns c.dev 20 = true → ∃ t, exec .serviceCoreImageRestart s = .next t ∧ t = { s with svcCores := t.svcCores } ∧
      t.svc? c.dev c.core = some { c with running := imageOk c.core }) ∧
    (s.svcRuns c.dev 20 = false → exec .serviceCoreImageRestart s = .next s)

end Sys2Proof.Claims

/-- Start, park, restart and wear: the statements named. It rests on choices of the model: log entries 3, 9, 28, 34, 41, 43, 44, 52. -/
def Obligations.DeviceLife : Prop := Start ∧ Ends ∧ DevicePark ∧ Wearing

/-- Power, errors and background work: the statements named. It rests on choices of the model: log entries 34, 44, 45, 54. -/
def Obligations.PowerAndErrors : Prop := Power ∧ Errors ∧ Background

/-- Windowed pointers of the service cores: the statements named. It rests on choices of the model: log entries 9, 41, 44. -/
def Obligations.ServiceCores : Prop := Windows

/-! ## Encoding, fetching, reset and the invariants of every step -/

namespace Sys2Proof.Claims

/-- Words written out bit by bit from the encodings of chapters 03, 06 to 09 and 11 to 16, with the instruction that each stands for. -/
def wordsOfTheManual : List (Nat × Nat × Instr) :=
  [(32, 0x04310500, .sadd 3 4 5), (32, 0x63005801, .sld 48 1 3 1), (32, 0x0F103FFD, .saddi 49 0 (-3)), (32, 0x4049FFFD, .bnez 9 (-3)),
   (32, 0x68A2CC16, .satom 10 11 12 0 true 1 2), (32, 0x88408007, .kpop 4 2), (32, 0x8450C001, .sqrd 5 3), (32, 0x84008000, .lwait 2),
   (32, 0x00503005, .sysrd 5 0x030), (32, 0x00700008, .time 7), (32, 0x70000002, .fence false 0 2), (32, 0xA0000010, .wexit),
   (32, 0xA0A50002, .wspawn 10 20 false true false), (32, 0xA4525020, .psend 5 9 16 false false false), (32, 0xAC61D450, .tarm 6 7 20 false false),
   (32, 0xB1460001, .xcopy 20 24 false true), (32, 0xB4540010, .tload 5 16 false false), (32, 0xB8850030, .solicit 8 20 false),
   (32, 0xBC520920, .barn 5 8 9), (32, 0xBC500040, .irb 5), (32, 0x00000024, .tretSkip), (32, 0x80000000, .lrun 0)]

end Sys2Proof.Claims

/-- R61 to R72: the decoder reads those words as the instructions that they encode. -/
def Obligations.DecodedWords : Prop := ∀ e ∈ wordsOfTheManual, decodeTableWord e.1 e.2.1 = some e.2.2

/-- R61 to R79: encoding a well-formed instruction and decoding its word gives it back, every operand at every value; the instructions
without a word of their own are HPC_WRITE and the events. -/
def Obligations.EncodingRoundTrip : Prop :=
  (∀ (i : Instr) (nbits n : Nat), i.wf = true → encode i = some (nbits, n) →
    (nbits = 32 ∨ nbits = 96) ∧ n < 2 ^ nbits ∧ decodeTableWord nbits n = some i) ∧
  ∀ i : Instr, encode i = none → (∃ d, i = .hpcWrite d) ∨ ∃ e : Event, i = e.instr

namespace Sys2Proof.Claims

/-- The reserved fields of the scalar words (R61 to R67): a major opcode, where the bits stand that select the word, their values, and the
fields, by lowest bit and width, that are 0 in those words. Every other field of every word is an operand. -/
def reservedFields : List (Nat × (Nat × Nat) × List Nat × List (Nat × Nat)) :=
  [(0x00, (0, 8), [0x00, 0x01, 0x02, 0x04, 0x24], [(8, 18)]), (0x00, (0, 8), [0x03], [(8, 6), (20, 6)]), (0x00, (0, 8), [0x08], [(8, 12)]),
   (0x01, (0, 8), [0x28, 0x29, 0x2A, 0x2B, 0x2C], [(8, 6)]), (0x07, (12, 2), [0, 1, 2, 3], [(6, 6)]), (0x0D, (0, 0), [0], [(6, 2)]),
   (0x10, (22, 4), [6, 7, 8], [(19, 3)]), (0x13, (0, 8), [0], [(8, 6), (20, 6)]), (0x13, (0, 8), [1], [(8, 6)]),
   (0x1B, (0, 0), [0], [(20, 6)]), (0x1C, (0, 0), [0], [(5, 21)]), (0x21, (0, 8), [0], [(8, 6), (20, 6)]),
   (0x21, (0, 8), [1], [(8, 6), (17, 3)]), (0x22, (0, 8), [0, 1, 2, 3], [(11, 3), (17, 3), (23, 3)]),
   (0x22, (0, 8), [4], [(8, 6), (17, 3), (23, 3)]), (0x22, (0, 8), [5], [(8, 6), (23, 3)]), (0x22, (0, 8), [6, 7, 8], [(8, 6), (17, 3)]),
   (0x22, (0, 8), [9], [(8, 12), (23, 3)])] ++
  [(0x28, (4, 4), [0], [(3, 1), (8, 6)]), (0x28, (4, 4), [1, 2], [(0, 4), (8, 18)]), (0x28, (4, 4), [3], [(0, 4), (8, 12)]),
   (0x28, (4, 4), [4], [(0, 4)]), (0x28, (4, 4), [5], [(1, 3), (8, 6), (20, 6)]), (0x28, (4, 4), [6], [(1, 3), (8, 6)]),
   (0x29, (4, 4), [0], [(2, 2), (8, 6)]), (0x29, (4, 4), [1], [(1, 3), (8, 6)]), (0x29, (4, 4), [2, 3], [(3, 1)]),
   (0x29, (4, 4), [4, 5], [(0, 4)]), (0x29, (4, 4), [6], [(0, 4), (8, 6)]), (0x2A, (4, 4), [0], [(0, 4)]),
   (0x2A, (4, 4), [1], [(1, 3), (8, 6)]), (0x2A, (4, 4), [2], [(0, 4), (8, 6)]), (0x2B, (4, 4), [0], [(1, 3), (8, 12)]),
   (0x2B, (4, 4), [1], [(1, 3)]), (0x2B, (4, 4), [2], [(0, 4)]), (0x2B, (4, 4), [3, 4], [(1, 3), (8, 6)]), (0x2B, (4, 4), [5], [(2, 2)]),
   (0x2B, (4, 4), [6, 7], [(0, 4), (8, 6)])] ++
  [(0x2C, (4, 4), [0, 1], [(2, 2), (8, 6)]), (0x2C, (4, 4), [2], [(2, 2)]), (0x2C, (4, 4), [3], [(0, 4), (8, 12)]),
   (0x2C, (4, 4), [4, 6, 7], [(1, 3), (8, 6)]), (0x2C, (4, 4), [5], [(1, 3)]), (0x2D, (4, 4), [0, 1, 2, 3], [(2, 2), (8, 6)]),
   (0x2D, (4, 4), [4], [(1, 3)]), (0x2D, (4, 4), [5], [(0, 4)]), (0x2D, (4, 4), [6], [(0, 4), (8, 6)]),
   (0x2E, (4, 4), [0, 3], [(1, 3), (8, 6)]), (0x2E, (4, 4), [1], [(0, 4), (8, 6)]), (0x2E, (4, 4), [2], [(1, 3)]),
   (0x2E, (4, 4), [4], [(0, 4), (8, 6), (20, 6)]), (0x2E, (4, 4), [5], [(2, 2), (8, 6)]), (0x2F, (4, 4), [0, 1, 4], [(0, 4), (8, 12)]),
   (0x2F, (4, 4), [2, 6], [(0, 4)]), (0x2F, (4, 4), [3], [(0, 4), (8, 6), (20, 6)]), (0x2F, (4, 4), [5], [(0, 4), (8, 18)])]

end Sys2Proof.Claims

/-- R61 to R67, R73, R79: every word has one meaning. What a decoder reads from a scalar or a lane word encodes to that word again, so that
no bit of it is dropped; the scalar words that the decoder refuses are those of a listed opcode with a reserved field that is not 0, and
every lane word is an instruction. -/
def Obligations.WordsHaveOneMeaning : Prop :=
  (∀ n : Nat, n < 2 ^ 32 → ((∃ e, decodeScalar n = .error e) ↔ ∃ r ∈ reservedFields,
    n / 2 ^ 26 = r.1 ∧ n / 2 ^ r.2.1.1 % 2 ^ r.2.1.2 ∈ r.2.2.1 ∧ ∃ f ∈ r.2.2.2, n / 2 ^ f.1 % 2 ^ f.2 ≠ 0)) ∧
  (∀ (n : Nat) (i : Instr), n < 2 ^ 32 → decodeScalar n = .ok i → encode i = some (32, n)) ∧
  (∀ (n : Nat) (i : Instr), n < 2 ^ 96 → decodeLane n = .ok i → encode i = some (96, n)) ∧
  ∀ n : Nat, ∃ i, decodeLane n = .ok i

/-- R7, R8, R66, R336: a step runs the decoded instruction. At an event's turn it is `exec` of the event with no wave executing; at the turn
of a wave's scalar stream, or of a path of its lanes, with no trap due, it is `exec` of the instruction that the bytes at its pc decode
to, fetched through the translation of the wave's core. The turn is then over, and an idle machine chooses the next one. -/
def Obligations.StepRunsTheInstruction : Prop :=
  (∀ (s : State) (e : Event), s.turn = .event e → step s = afterTurn (exec e.instr s.unfocus)) ∧
  (∀ s : State, s.turn = .idle → step s = .next s.settle) ∧
  (∀ (s v : State) (u p page n : Nat) (k : Kernel) (i : Instr), s.Fetches u k p page v n → decodeScalar n = .ok i →
    { v with word := n }.readsPoison i = false → step s = afterTurn (exec i { v with word := n })) ∧
  ∀ (s f v1 v2 v3 : State) (u q p1 p2 p3 g1 g2 g3 n : Nat) (k : Kernel) (i : Instr), s.turn = .lane u q →
    let g := (s.focus u).focusPath q
    g.cw.uid = u → g.cp.live = true → g.cp.id = q → g.laneReady g.cw = true → g.cp.ready = true → f = g.issues (some q) →
    f.kernelOf f.cw = some k → f.cp.lpc < k.lwords →
    let a := k.lbase + 12 * f.cp.lpc
    f.translate (f.whoOf f.cw) .fetch a false = (.at p1 g1, v1) → v1.translate (v1.whoOf v1.cw) .fetch (a + 4) false = (.at p2 g2, v2) →
    v2.translate (v2.whoOf v2.cw) .fetch (a + 8) false = (.at p3 g3, v3) → v1.CodeClean p1 → v2.CodeClean p2 → v3.CodeClean p3 →
    let x1 := Memory.readLE v1.mem p1 4
    let x2 := Memory.readLE v2.mem p2 4
    let x3 := Memory.readLE v3.mem p3 4
    n = x1 + x2 * 2 ^ 32 + x3 * 2 ^ 64 → decodeLane n = .ok i →
    step s = afterTurn (exec i { v3.fetched (v3.cp.wait != .none) [⟨p1, g1, x1⟩, ⟨p2, g2, x2⟩, ⟨p3, g3, x3⟩] 4 with word := n })

namespace Sys2Proof.Claims

/-- R64, R88, R336, R62, R399, R389: what a fetch of the scalar stream stops at. Beyond the code section and in a data line it traps PROTECTION
and POOL_EXEC, with the address in HADDR, at the word that the stream came from; a translation that fails traps its own cause at the
word; a word with a reserved field that is not 0 traps ILLEGAL_OP, and one that is poisoned, or has a poisoned operand,
SOFT_ERROR_UNCORRECTED, with the store that held the bad data in HINFO. A trap that is due and is neither a lane's nor a copy's is taken
instead of any word; before a lane's or a copy's the word at the boundary takes its own trap, if it has one, and has no effect else. -/
def FetchedTraps : Prop :=
  ∀ (s f : State) (u : Nat), s.turn = .scalar u → f = (s.focus u).issues none → (s.focus u).cw.uid = u →
    (s.focus u).scalarReady (s.focus u).cw = true →
    (∀ t, (s.focus u).cw.dueTrap = some t → t.lane = false → t.xfer = false → step s = .next ((s.focus u).takeDue t).rest) ∧
    (∀ t, (s.focus u).cw.dueTrap = some t → t.lane = true ∨ t.xfer = true →
      let due := (s.focus u).takeDue t
      (∀ i g v, f.fetchScalar = .run i g → exec i g = .next v →
        step s = .next (if (s.focus u).trappedBy v then v else due).rest) ∧
      ∀ v, f.fetchScalar = .done v → step s = .next (if (s.focus u).trappedBy v then v else due).rest) ∧
    ∀ k, (s.focus u).cw.dueTrap = none → f.kernelOf f.cw = some k →
      let pc := f.cw.pc
      (f.inCode pc = false → step s = .next ({ f with word := 0 }.takeTrapAt { cause := 0x11, addr := pc } f.cw.prev).rest) ∧
      (f.inCode pc = true → k.dataLine pc.toNat = true →
        step s = .next ({ f with word := 0 }.takeTrapAt { cause := 0x03, addr := pc } f.cw.prev).rest) ∧
      (f.inCode pc = true → k.dataLine pc.toNat = false → ∀ x v, f.translate (f.whoOf f.cw) .fetch pc.toNat false = (x, v) →
        (∀ e, x = .fault e → step s = .next ({ v with word := 0 }.takeTrap { cause := e.cause, addr := pc, info := e.info false }).rest) ∧
        ∀ p page n, x = .at p page → n = Memory.readLE v.mem p 4 →
          let w := { v.fetched f.cw.wait.isSome [⟨p, page, n⟩] 4 with word := n }
          (∀ store, w.poisonAt (.phys p 0) 4 (fun _ => true) = some store →
            step s = .next (w.takeTrap { cause := 0x71, addr := pc, info := .ofNat 64 store }).rest) ∧
          (w.CodeClean p → ∀ e, decodeScalar n = .error e → step s = .next (w.takeTrap { cause := 0x01 }).rest) ∧
          (w.CodeClean p → ∀ i, decodeScalar n = .ok i → w.readsPoison i = true →
            step s = .next (w.takeTrap { cause := 0x71, info := 6 }).rest))

/-- The calls with one handle operand, with the kinds that they take (R101, R102). -/
def handleWords (d a : SReg) (nb : Bool) : List (Instr × List Nat) :=
  [(.pinfo d a, [3, 4]), (.pclose d a nb, [3]), (.tdisarm d a, [6]), (.oclose d a, [1, 4, 5, 6, 7, 10, 11]), (.xcancel d a false, [11]),
   (.xstat d a false, [11]), (.tdrop d a, [9]), (.wkill a, [1]), (.wjoin d a nb, [1]), (.cwait d a false nb, [10])]

/-- R102, R392: a handle whose entry is empty, holds an object of another kind or generation, or is of a kind that the call does not take,
names nothing: the call traps HANDLE_INVALID with the handle in HINFO. -/
def StaleHandles : Prop :=
  (∀ (s : State) (ctx : Nat) (h : BitVec 32) (kinds : List Nat),
    (∀ e ∈ s.handles, e.ctx = ctx → e.index = h.toNat % 2 ^ 20 → e.obj = none ∨ e.kind ≠ h.toNat / 2 ^ 28 ∨ e.gen ≠ h.toNat / 2 ^ 20 % 256) ∨
      h.toNat / 2 ^ 28 ∉ kinds → s.resolve ctx h kinds = none) ∧
  ∀ (d a : SReg) (nb : Bool) (s : State), s.cw.region = none → s.Clean [a] → s.cw.wait = none → (s.rs a).setWidth 32 ≠ (0 : BitVec 32) →
    ∀ e ∈ handleWords d a nb, s.resolve s.cw.ctx ((s.rs a).setWidth 32) e.2 = none →
      exec e.1 s = .next (s.takeTrap { cause := 0x20, info := ((s.rs a).setWidth 32).setWidth 64 })

end Sys2Proof.Claims

/-- R399, R392: a load of poisoned bytes traps SOFT_ERROR_UNCORRECTED with its address in HADDR and their store in HINFO, and so does a call with a poisoned register, with
HADDR 0; nothing is loaded, and no visible state has changed before the trap (R8). -/
def Obligations.PoisonedData : Prop :=
  (∀ (d a : SReg) (size : BitVec 3) (off : BitVec 11) (s u : State) (p page : Nat), s.cw.region = none → size ≠ 7 →
    let w := 2 ^ (size.toNat % 4)
    let addr := s.rs a + off.signExtend 64 * .ofNat 64 w
    addr.toNat % w = 0 → s.Reaches .load addr w (.phys p page) u → isPeer s.cw.dev p = false →
    ∀ store, u.loadPoison addr.toNat (.phys p page) w = some store →
    exec (.sld d a size off) s = .next (s.takeTrap { cause := 0x71, addr, info := .ofNat 64 store })) ∧
  ∀ (d a : SReg) (nb : Bool) (s : State), s.cw.region = none → s.cw.wait = none → ErrUnit.sReg s.cw.uid a ∈ s.poison →
    ∀ e ∈ handleWords d a nb, exec e.1 s = .next (s.takeTrap { cause := 0x71, info := 6 })

/-- Every instruction, in every state, and every step end in a next state: the machine never stops. -/
def Obligations.NothingStops : Prop := (∀ (i : Instr) (s : State), ∃ t, exec i s = .next t) ∧ ∀ s : State, s.Safe

/-- R24, R427, R432: the machine after reset. The device is off with its time base 0, it has joined no die, its wear record is as flash
holds it, and power-good comes next; no context, wave or object exists. The invariants hold. That memory reads 0, that the pod has one
device, and that flash holds 0, are the model's choices: log entries 3 and 4. -/
def Obligations.ResetState : Prop :=
  State.reset.Canonical ∧ State.reset.UidsGiven ∧ (∀ a, Memory.read State.reset.mem a = 0) ∧ State.reset.allWaves = [] ∧ State.reset.ctxs = [] ∧
    State.reset.handles = [] ∧ State.reset.owners = [] ∧ State.reset.turn = .event (.powerGood 0) ∧
    ∃ d, State.reset.devs = [d] ∧ d.time = 0 ∧ d.stage = .off ∧ d.dies = [] ∧ d.wear = d.flash ∧ d.wear.record = 0

/-- Every step keeps the canonical form of physical memory and of every scratchpad, so that equal contents are equal data (log entry 3). -/
def Obligations.MemoryStaysCanonical : Prop := ∀ s t : State, s.Canonical → step s = .next t → t.Canonical

/-- R101, R103, R125: every step keeps the uids of waves, teams and clusters below the next one, and no two waves alike. The uids are the
model's own names of objects. -/
def Obligations.UidsStayGiven : Prop := ∀ s t : State, s.UidsGiven → step s = .next t → t.UidsGiven

/-! ## The statements -/

/-- The one-register and immediate words: the statements named. -/
def Obligations.ScalarOneRegisterAndImmediateWords : Prop :=
  ScalarOneRegisterWords ∧ ScalarImmediateWords

/-- Branches and jumps: the statements named. -/
def Obligations.ControlTransfers : Prop :=
  ConditionalBranches ∧ Jumps

/-- Mask words, LRUN, LWAIT and SQRD: the statements named. -/
def Obligations.LaneQueues : Prop :=
  MaskWords ∧ LaneBlockEnqueue ∧ LaneQueueWaits

/-- The trap words: the statements named. -/
def Obligations.TrapEntry : Prop :=
  TrapWords

/-- TRET and TRET.SKIP: the statements named. -/
def Obligations.HandlerReturn : Prop :=
  ReturnFromWord ∧ ReturnFromLaneWord ∧ ReturnFromCopy ∧ ReturnTargets ∧ ReturnStops

/-- SYSRD, SYSWR and the write of HPC: the statements named. -/
def Obligations.SystemRegisters : Prop :=
  SystemRegisterRead ∧ SystemRegisterWrite

/-- PERFRD, TIME and HALT: the statements named. -/
def Obligations.CountersAndHalt : Prop :=
  CountersAndTime ∧ HaltParks

/-- SLD, SST, SATOM, SLIT, SPREF and FENCE: the statements named. -/
def Obligations.ScalarMemory : Prop :=
  ScalarLoad ∧ ScalarStore ∧ ScalarAtomic ∧ PoolLoad ∧ HintsAndFences

/-- What checking an access may change, addresses that name nothing, and pages granted away: the statements named. -/
def Obligations.Translation : Prop :=
  TranslationSetsOnlyAD ∧ AddressesOutsideEveryWindow ∧ GrantSend

/-- The calls on waves: the statements named. -/
def Obligations.Waves : Prop :=
  SpawnWord ∧ WavesEnd ∧ WaveCalls ∧ ContextKill

/-- The life of a handle: the statements named. It rests on choices of the model: log entry 49. -/
def Obligations.Handles : Prop :=
  HandleLife ∧ StaleHandles

/-- Ports, messages, grants and names: the statements named. -/
def Obligations.Ports : Prop :=
  PortLife ∧ SendWord ∧ ReceiveWords ∧ NameWords

/-- Wait sets, timers, watches and OCLOSE: the statements named. -/
def Obligations.WaitsAndTimers : Prop :=
  WaitSetWords ∧ WaitSetWait ∧ TimerWords ∧ TimerDisarm ∧ WatchWord ∧ CloseWord

/-- The copy words: the statements named. -/
def Obligations.Copies : Prop :=
  CopyDescriptor ∧ CopyFormats ∧ CopyIssue ∧ BatchWords ∧ CopyCalls

/-- Meshes, tensors and transfers: the statements named. It rests on choices of the model: log entry 23. -/
def Obligations.Tensors : Prop :=
  MeshWord ∧ TensorWords ∧ TransferIssue ∧ SealWords

/-- Barriers and idempotent regions: the statements named. -/
def Obligations.BarriersAndRegions : Prop :=
  BarrierArrival ∧ NamedBarriers ∧ Regions ∧ RegionStore ∧ RegionLaneStore

/-- Tile entries and censuses: the statements named. -/
def Obligations.Censuses : Prop :=
  TileWords ∧ SolicitWord ∧ ReplyAndWait

/-- The integer lane operations: the statements named. -/
def Obligations.IntegerLaneWords : Prop :=
  IntegerLanes ∧ IntegerSums ∧ BitLanes ∧ IntegerComparisons

/-- The floating-point lane operations: the statements named. -/
def Obligations.FloatLaneWords : Prop :=
  FloatArithmetic ∧ FloatSelection ∧ FloatSums ∧ SlowFloats

/-- Rounding and special values: the statements named. -/
def Obligations.Rounding : Prop :=
  RoundingModes ∧ FloatSpecials

/-- Conversions and block formats: the statements named. -/
def Obligations.ConversionAndBlockWords : Prop :=
  ConversionLanes ∧ BlockLanes

/-- Lane exchanges, reductions and scans: the statements named. It rests on choices of the model: log entry 53. -/
def Obligations.ExchangesAndReductions : Prop :=
  ExchangeLanes ∧ IntegerReductions ∧ FloatReductions

/-- The lane memory words and FIFO banks: the statements named. It rests on choices of the model: log entry 13. -/
def Obligations.LaneMemory : Prop :=
  LaneLoadsAndStores ∧ LaneAtomics ∧ FifoAccess

/-- The checks of a lane word: the statements named. It rests on choices of the model: log entry 13. -/
def Obligations.LaneChecks : Prop :=
  LaneAddressTraps ∧ LaneWordChecks

/-- Paths, rendezvous slots and pairs: the statements named. It rests on choices of the model: log entry 12. -/
def Obligations.LaneControlFlow : Prop :=
  LaneBranches ∧ LaneControl ∧ RendezvousSlots ∧ Pairs

/-- GANGSET and the tile words: the statements named. -/
def Obligations.MatrixTiles : Prop :=
  GangWord ∧ TileMoves ∧ TileStore

/-- Joint matrix operations: the statements named. It rests on choices of the model: log entry 14. -/
def Obligations.JointOperations : Prop :=
  IntegerProduct ∧ JointOperation ∧ MatrixWaits ∧ LaneTimeouts

/-- What a fetch traps, and taking a trap: the statements named. -/
def Obligations.FetchTraps : Prop :=
  FetchedTraps ∧ PoolReached ∧ TakingATrap
end

