-- ==== Sys2Proof/Laws/Memory.lean ====
section
/-!
SUPPORT. Memory: reading after writing, and every operation keeps the canonical form.
-/

namespace Sys2Proof.Machine

/-- Every listed address is above a bound. -/
def Memory.above (a : Nat) (m : List Host.Cell) : Prop := ∀ c ∈ m, a < c.1

theorem Memory.wf_cons {a : Nat} {x : Byte} {m : List Host.Cell} :
    Memory.wf ((a, x) :: m) = true ↔ x ≠ 0 ∧ Memory.above a m ∧ Memory.wf m = true := by
  induction m generalizing a x with
  | nil => simp [Memory.wf, Memory.above, Memory.unlisted]
  | cons c m ih =>
    obtain ⟨b, y⟩ := c
    have h := @ih b y
    simp only [Memory.wf, Memory.unlisted, Bool.and_eq_true, bne_iff_ne, ne_eq, decide_eq_true_eq, Memory.above,
      List.mem_cons, forall_eq_or_imp]
    constructor
    · rintro ⟨⟨hx, hab⟩, hw⟩
      refine ⟨hx, ⟨hab, fun c hc => Nat.lt_trans hab ?_⟩, hw⟩
      exact (h.1 hw).2.1 c hc
    · rintro ⟨hx, ⟨hab, _⟩, hw⟩
      exact ⟨⟨hx, hab⟩, hw⟩

theorem Memory.above_put {a b : Nat} {x : Byte} {m : List Host.Cell} (h : a < b) (hm : Memory.above a m) :
    Memory.above a (Memory.put b x m) := by
  unfold Memory.put
  split
  · exact hm
  · intro c hc
    rcases List.mem_cons.1 hc with rfl | hc
    · exact h
    · exact hm c hc

theorem Memory.wf_put {a : Nat} {x : Byte} {m : List Host.Cell} (ha : Memory.above a m) (hm : Memory.wf m = true) :
    Memory.wf (Memory.put a x m) = true := by
  unfold Memory.put
  split
  · exact hm
  · exact Memory.wf_cons.2 ⟨by assumption, ha, hm⟩

theorem Memory.above_write {a b : Nat} {x : Byte} {m : List Host.Cell} (h : a < b) (hm : Memory.above a m) :
    Memory.above a (Memory.write m b x) := by
  induction m with
  | nil => exact Memory.above_put h hm
  | cons c m ih =>
    obtain ⟨d, y⟩ := c
    have ht : Memory.above a m := fun e he => hm e (List.mem_cons_of_mem _ he)
    unfold Memory.write
    split
    · exact Memory.above_put h hm
    · split
      · exact Memory.above_put h ht
      · intro e he
        rcases List.mem_cons.1 he with rfl | he
        · exact hm _ List.mem_cons_self
        · exact ih ht e he

/-- Writing a byte keeps the canonical form. -/
theorem Memory.wf_write {m : List Host.Cell} (a : Nat) (x : Byte) (h : Memory.wf m = true) :
    Memory.wf (Memory.write m a x) = true := by
  induction m with
  | nil => exact Memory.wf_put (fun _ hc => absurd hc List.not_mem_nil) h
  | cons c m ih =>
    obtain ⟨b, y⟩ := c
    obtain ⟨hy, hb, hm⟩ := Memory.wf_cons.1 h
    unfold Memory.write
    split
    · rename_i hab
      refine Memory.wf_put (fun e he => ?_) h
      rcases List.mem_cons.1 he with rfl | he
      · exact hab
      · exact Nat.lt_trans hab (hb e he)
    · split
      · rename_i hab
        exact Memory.wf_put (hab ▸ hb) hm
      · exact Memory.wf_cons.2 ⟨hy, Memory.above_write (by omega) hb, ih hm⟩

/-- Writing bytes keeps the canonical form. -/
theorem Memory.wf_writeBytes {m : List Host.Cell} (a : Nat) (xs : List Byte) (h : Memory.wf m = true) :
    Memory.wf (Memory.writeBytes m a xs) = true := by
  induction xs generalizing m a with
  | nil => exact h
  | cons x xs ih => exact ih (a + 1) (Memory.wf_write a x h)

/-- Dropping bytes keeps the canonical form. -/
theorem Memory.wf_filter {m : List Host.Cell} (p : Host.Cell → Bool) (h : Memory.wf m = true) :
    Memory.wf (m.filter p) = true := by
  induction m with
  | nil => rfl
  | cons c m ih =>
    obtain ⟨a, x⟩ := c
    obtain ⟨hx, ha, hm⟩ := Memory.wf_cons.1 h
    rw [List.filter_cons]
    split
    · exact Memory.wf_cons.2 ⟨hx, fun e he => ha e (List.mem_filter.1 he).1, ih hm⟩
    · exact ih hm

/-- Setting bits of a table entry keeps the canonical form. -/
theorem Memory.wf_orByte {m : List Host.Cell} (loc : Nat) (bits : Byte) (h : Memory.wf m = true) :
    Memory.wf (orByte m loc bits) = true := Memory.wf_write _ _ h

theorem Memory.read_put {a b : Nat} {x : Byte} {m : List Host.Cell} :
    Memory.read (Memory.put a x m) b = if b = a then (if x = 0 then Memory.read m b else x) else Memory.read m b := by
  unfold Memory.put Memory.unlisted
  by_cases hx : x = 0
  · simp [hx]
  · simp only [if_neg hx, Memory.read]

theorem Memory.read_above {a : Nat} {m : List Host.Cell} (h : Memory.above a m) : Memory.read m a = 0 := by
  induction m with
  | nil => rfl
  | cons c m ih =>
    obtain ⟨b, y⟩ := c
    have hb : a < b := h (b, y) List.mem_cons_self
    have ht : Memory.above a m := fun e he => h e (List.mem_cons_of_mem _ he)
    simp [Memory.read, Nat.ne_of_lt hb, ih ht]

/-- Reading after one byte is written. -/
theorem Memory.read_write {m : List Host.Cell} (h : Memory.wf m = true) (a b : Nat) (x : Byte) :
    Memory.read (Memory.write m a x) b = if b = a then x else Memory.read m b := by
  induction m with
  | nil =>
    simp only [Memory.write, Memory.read_put]
    by_cases hx : x = 0
    · simp [hx, Memory.read, Memory.unlisted]
    · simp only [if_neg hx]
  | cons c m ih =>
    obtain ⟨d, y⟩ := c
    obtain ⟨hy, hd, hm⟩ := Memory.wf_cons.1 h
    unfold Memory.write
    split
    · rename_i hab
      rw [Memory.read_put]
      by_cases hx : x = 0
      · by_cases hb : b = a
        · subst hb
          have : Memory.above b ((d, y) :: m) := by
            intro e he
            rcases List.mem_cons.1 he with rfl | he
            · exact hab
            · exact Nat.lt_trans hab (hd e he)
          simp [hx, Memory.read_above this]
        · simp [hb]
      · simp only [if_neg hx]
    · split
      · rename_i hab
        subst hab
        rw [Memory.read_put]
        by_cases hb : b = a
        · subst hb
          by_cases hx : x = 0
          · simp [hx, Memory.read_above hd]
          · simp only [if_neg hx, if_true]
        · simp [hb, Memory.read]
      · rename_i h1 h2
        simp only [Memory.read, ih hm]
        by_cases hb : b = d
        · subst hb
          have : b ≠ a := fun e => h2 e.symm
          simp [this]
        · simp [hb]

/-- Reading after bytes are written from an address upwards. -/
theorem Memory.read_writeBytes {m : List Host.Cell} (h : Memory.wf m = true) (a b : Nat) (xs : List Byte) :
    Memory.read (Memory.writeBytes m a xs) b = if a ≤ b ∧ b < a + xs.length then xs.getD (b - a) 0 else Memory.read m b := by
  induction xs generalizing m a with
  | nil =>
    have : ¬ (a ≤ b ∧ b < a + ([] : List Byte).length) := by simp only [List.length_nil]; omega
    rw [if_neg this]; rfl
  | cons x xs ih =>
    rw [Memory.writeBytes, ih (Memory.wf_write a x h), Memory.read_write h]
    by_cases hb : b = a
    · subst hb
      have h1 : ¬ (b + 1 ≤ b ∧ b < b + 1 + xs.length) := by omega
      simp [h1]
    · by_cases h1 : a + 1 ≤ b ∧ b < a + 1 + xs.length
      · have h2 : a ≤ b ∧ b < a + (x :: xs).length := by simp only [List.length_cons]; omega
        rw [if_pos h1, if_pos h2]
        have : b - a = (b - (a + 1)) + 1 := by omega
        rw [this, List.getD_cons_succ]
      · have h2 : ¬ (a ≤ b ∧ b < a + (x :: xs).length) := by simp only [List.length_cons]; omega
        rw [if_neg h1, if_neg h2, if_neg hb]

/-- Bytes read as a number. -/
theorem ofLeBytes_readBytes (m : List Host.Cell) (a n : Nat) : ofLeBytes (Memory.readBytes m a n) = Memory.readLE m a n := by
  induction n generalizing a with
  | zero => rfl
  | succ n ih => simp only [Memory.readBytes, ofLeBytes, Memory.readLE, ih]

theorem length_leBytes (x n : Nat) : (leBytes x n).length = n := by
  induction n generalizing x with
  | zero => rfl
  | succ n ih => simp only [leBytes, List.length_cons, ih]

end Sys2Proof.Machine
end

