-- ==== Sys2Proof/Laws/State.lean ====
section
/-!
SUPPORT. The fields of `State` that each shared update leaves alone, the fields of `Wave` that each register write leaves alone, and what a
record keyed by uid is after an update: no later proof unfolds a record update.
-/

namespace Sys2Proof.Machine

/-! ## Fields of the state -/

section ws
variable (s : State) (r : SReg) (x : Word)

@[simp] theorem State.ws_cp : (s.ws r x).cp = s.cp := rfl
@[simp] theorem State.ws_waves : (s.ws r x).waves = s.waves := rfl
@[simp] theorem State.ws_teams : (s.ws r x).teams = s.teams := rfl
@[simp] theorem State.ws_clusters : (s.ws r x).clusters = s.clusters := rfl
@[simp] theorem State.ws_launches : (s.ws r x).launches = s.launches := rfl
@[simp] theorem State.ws_ctxs : (s.ws r x).ctxs = s.ctxs := rfl
@[simp] theorem State.ws_handles : (s.ws r x).handles = s.handles := rfl
@[simp] theorem State.ws_ports : (s.ws r x).ports = s.ports := rfl
@[simp] theorem State.ws_remotes : (s.ws r x).remotes = s.remotes := rfl
@[simp] theorem State.ws_waitSets : (s.ws r x).waitSets = s.waitSets := rfl
@[simp] theorem State.ws_timers : (s.ws r x).timers = s.timers := rfl
@[simp] theorem State.ws_watches : (s.ws r x).watches = s.watches := rfl
@[simp] theorem State.ws_copies : (s.ws r x).copies = s.copies := rfl
@[simp] theorem State.ws_late : (s.ws r x).late = s.late := rfl
@[simp] theorem State.ws_tensors : (s.ws r x).tensors = s.tensors := rfl
@[simp] theorem State.ws_tiles : (s.ws r x).tiles = s.tiles := rfl
@[simp] theorem State.ws_censuses : (s.ws r x).censuses = s.censuses := rfl
@[simp] theorem State.ws_responders : (s.ws r x).responders = s.responders := rfl
@[simp] theorem State.ws_latch : (s.ws r x).latch = s.latch := rfl
@[simp] theorem State.ws_jointOps : (s.ws r x).jointOps = s.jointOps := rfl
@[simp] theorem State.ws_products : (s.ws r x).products = s.products := rfl
@[simp] theorem State.ws_mem : (s.ws r x).mem = s.mem := rfl
@[simp] theorem State.ws_owners : (s.ws r x).owners = s.owners := rfl
@[simp] theorem State.ws_lent : (s.ws r x).lent = s.lent := rfl
@[simp] theorem State.ws_holds : (s.ws r x).holds = s.holds := rfl
@[simp] theorem State.ws_tlb : (s.ws r x).tlb = s.tlb := rfl
@[simp] theorem State.ws_wcb : (s.ws r x).wcb = s.wcb := rfl
@[simp] theorem State.ws_invals : (s.ws r x).invals = s.invals := rfl
@[simp] theorem State.ws_banks : (s.ws r x).banks = s.banks := rfl
@[simp] theorem State.ws_gated : (s.ws r x).gated = s.gated := rfl
@[simp] theorem State.ws_rimPorts : (s.ws r x).rimPorts = s.rimPorts := rfl
@[simp] theorem State.ws_rimReqs : (s.ws r x).rimReqs = s.rimReqs := rfl
@[simp] theorem State.ws_packets : (s.ws r x).packets = s.packets := rfl
@[simp] theorem State.ws_buckets : (s.ws r x).buckets = s.buckets := rfl
@[simp] theorem State.ws_parts : (s.ws r x).parts = s.parts := rfl
@[simp] theorem State.ws_funcs : (s.ws r x).funcs = s.funcs := rfl
@[simp] theorem State.ws_svcCores : (s.ws r x).svcCores = s.svcCores := rfl
@[simp] theorem State.ws_trainings : (s.ws r x).trainings = s.trainings := rfl
@[simp] theorem State.ws_devs : (s.ws r x).devs = s.devs := rfl
@[simp] theorem State.ws_podW : (s.ws r x).podW = s.podW := rfl
@[simp] theorem State.ws_podH : (s.ws r x).podH = s.podH := rfl
@[simp] theorem State.ws_stores : (s.ws r x).stores = s.stores := rfl
@[simp] theorem State.ws_nextUid : (s.ws r x).nextUid = s.nextUid := rfl
@[simp] theorem State.ws_free : (s.ws r x).free = s.free := rfl
@[simp] theorem State.ws_word : (s.ws r x).word = s.word := rfl
@[simp] theorem State.ws_issueSeq : (s.ws r x).issueSeq = s.issueSeq := rfl
@[simp] theorem State.ws_issuePorts : (s.ws r x).issuePorts = s.issuePorts := rfl
@[simp] theorem State.ws_turn : (s.ws r x).turn = s.turn := rfl
@[simp] theorem State.ws_inputs : (s.ws r x).inputs = s.inputs := rfl
end ws

section retire
variable (s : State)

@[simp] theorem State.retire_cp : s.retire.cp = s.cp := rfl
@[simp] theorem State.retire_waves : s.retire.waves = s.waves := rfl
@[simp] theorem State.retire_teams : s.retire.teams = s.teams := rfl
@[simp] theorem State.retire_clusters : s.retire.clusters = s.clusters := rfl
@[simp] theorem State.retire_launches : s.retire.launches = s.launches := rfl
@[simp] theorem State.retire_ctxs : s.retire.ctxs = s.ctxs := rfl
@[simp] theorem State.retire_handles : s.retire.handles = s.handles := rfl
@[simp] theorem State.retire_ports : s.retire.ports = s.ports := rfl
@[simp] theorem State.retire_remotes : s.retire.remotes = s.remotes := rfl
@[simp] theorem State.retire_waitSets : s.retire.waitSets = s.waitSets := rfl
@[simp] theorem State.retire_timers : s.retire.timers = s.timers := rfl
@[simp] theorem State.retire_watches : s.retire.watches = s.watches := rfl
@[simp] theorem State.retire_copies : s.retire.copies = s.copies := rfl
@[simp] theorem State.retire_late : s.retire.late = s.late := rfl
@[simp] theorem State.retire_tensors : s.retire.tensors = s.tensors := rfl
@[simp] theorem State.retire_tiles : s.retire.tiles = s.tiles := rfl
@[simp] theorem State.retire_censuses : s.retire.censuses = s.censuses := rfl
@[simp] theorem State.retire_responders : s.retire.responders = s.responders := rfl
@[simp] theorem State.retire_latch : s.retire.latch = s.latch := rfl
@[simp] theorem State.retire_jointOps : s.retire.jointOps = s.jointOps := rfl
@[simp] theorem State.retire_products : s.retire.products = s.products := rfl
@[simp] theorem State.retire_mem : s.retire.mem = s.mem := rfl
@[simp] theorem State.retire_owners : s.retire.owners = s.owners := rfl
@[simp] theorem State.retire_lent : s.retire.lent = s.lent := rfl
@[simp] theorem State.retire_holds : s.retire.holds = s.holds := rfl
@[simp] theorem State.retire_tlb : s.retire.tlb = s.tlb := rfl
@[simp] theorem State.retire_wcb : s.retire.wcb = s.wcb := rfl
@[simp] theorem State.retire_invals : s.retire.invals = s.invals := rfl
@[simp] theorem State.retire_banks : s.retire.banks = s.banks := rfl
@[simp] theorem State.retire_gated : s.retire.gated = s.gated := rfl
@[simp] theorem State.retire_rimPorts : s.retire.rimPorts = s.rimPorts := rfl
@[simp] theorem State.retire_rimReqs : s.retire.rimReqs = s.rimReqs := rfl
@[simp] theorem State.retire_packets : s.retire.packets = s.packets := rfl
@[simp] theorem State.retire_buckets : s.retire.buckets = s.buckets := rfl
@[simp] theorem State.retire_parts : s.retire.parts = s.parts := rfl
@[simp] theorem State.retire_funcs : s.retire.funcs = s.funcs := rfl
@[simp] theorem State.retire_svcCores : s.retire.svcCores = s.svcCores := rfl
@[simp] theorem State.retire_trainings : s.retire.trainings = s.trainings := rfl
@[simp] theorem State.retire_devs : s.retire.devs = s.devs := rfl
@[simp] theorem State.retire_podW : s.retire.podW = s.podW := rfl
@[simp] theorem State.retire_podH : s.retire.podH = s.podH := rfl
@[simp] theorem State.retire_poison : s.retire.poison = s.poison := rfl
@[simp] theorem State.retire_stores : s.retire.stores = s.stores := rfl
@[simp] theorem State.retire_nextUid : s.retire.nextUid = s.nextUid := rfl
@[simp] theorem State.retire_free : s.retire.free = s.free := rfl
@[simp] theorem State.retire_word : s.retire.word = s.word := rfl
@[simp] theorem State.retire_issueSeq : s.retire.issueSeq = s.issueSeq := rfl
@[simp] theorem State.retire_issuePorts : s.retire.issuePorts = s.issuePorts := rfl
@[simp] theorem State.retire_turn : s.retire.turn = s.turn := rfl
@[simp] theorem State.retire_inputs : s.retire.inputs = s.inputs := rfl
end retire

section jump
variable (s : State) (p : Word)

@[simp] theorem State.jump_cp : (s.jump p).cp = s.cp := rfl
@[simp] theorem State.jump_waves : (s.jump p).waves = s.waves := rfl
@[simp] theorem State.jump_teams : (s.jump p).teams = s.teams := rfl
@[simp] theorem State.jump_clusters : (s.jump p).clusters = s.clusters := rfl
@[simp] theorem State.jump_launches : (s.jump p).launches = s.launches := rfl
@[simp] theorem State.jump_ctxs : (s.jump p).ctxs = s.ctxs := rfl
@[simp] theorem State.jump_handles : (s.jump p).handles = s.handles := rfl
@[simp] theorem State.jump_ports : (s.jump p).ports = s.ports := rfl
@[simp] theorem State.jump_remotes : (s.jump p).remotes = s.remotes := rfl
@[simp] theorem State.jump_waitSets : (s.jump p).waitSets = s.waitSets := rfl
@[simp] theorem State.jump_timers : (s.jump p).timers = s.timers := rfl
@[simp] theorem State.jump_watches : (s.jump p).watches = s.watches := rfl
@[simp] theorem State.jump_copies : (s.jump p).copies = s.copies := rfl
@[simp] theorem State.jump_late : (s.jump p).late = s.late := rfl
@[simp] theorem State.jump_tensors : (s.jump p).tensors = s.tensors := rfl
@[simp] theorem State.jump_tiles : (s.jump p).tiles = s.tiles := rfl
@[simp] theorem State.jump_censuses : (s.jump p).censuses = s.censuses := rfl
@[simp] theorem State.jump_responders : (s.jump p).responders = s.responders := rfl
@[simp] theorem State.jump_latch : (s.jump p).latch = s.latch := rfl
@[simp] theorem State.jump_jointOps : (s.jump p).jointOps = s.jointOps := rfl
@[simp] theorem State.jump_products : (s.jump p).products = s.products := rfl
@[simp] theorem State.jump_mem : (s.jump p).mem = s.mem := rfl
@[simp] theorem State.jump_owners : (s.jump p).owners = s.owners := rfl
@[simp] theorem State.jump_lent : (s.jump p).lent = s.lent := rfl
@[simp] theorem State.jump_holds : (s.jump p).holds = s.holds := rfl
@[simp] theorem State.jump_tlb : (s.jump p).tlb = s.tlb := rfl
@[simp] theorem State.jump_wcb : (s.jump p).wcb = s.wcb := rfl
@[simp] theorem State.jump_invals : (s.jump p).invals = s.invals := rfl
@[simp] theorem State.jump_banks : (s.jump p).banks = s.banks := rfl
@[simp] theorem State.jump_gated : (s.jump p).gated = s.gated := rfl
@[simp] theorem State.jump_rimPorts : (s.jump p).rimPorts = s.rimPorts := rfl
@[simp] theorem State.jump_rimReqs : (s.jump p).rimReqs = s.rimReqs := rfl
@[simp] theorem State.jump_packets : (s.jump p).packets = s.packets := rfl
@[simp] theorem State.jump_buckets : (s.jump p).buckets = s.buckets := rfl
@[simp] theorem State.jump_parts : (s.jump p).parts = s.parts := rfl
@[simp] theorem State.jump_funcs : (s.jump p).funcs = s.funcs := rfl
@[simp] theorem State.jump_svcCores : (s.jump p).svcCores = s.svcCores := rfl
@[simp] theorem State.jump_trainings : (s.jump p).trainings = s.trainings := rfl
@[simp] theorem State.jump_devs : (s.jump p).devs = s.devs := rfl
@[simp] theorem State.jump_podW : (s.jump p).podW = s.podW := rfl
@[simp] theorem State.jump_podH : (s.jump p).podH = s.podH := rfl
@[simp] theorem State.jump_poison : (s.jump p).poison = s.poison := rfl
@[simp] theorem State.jump_stores : (s.jump p).stores = s.stores := rfl
@[simp] theorem State.jump_nextUid : (s.jump p).nextUid = s.nextUid := rfl
@[simp] theorem State.jump_free : (s.jump p).free = s.free := rfl
@[simp] theorem State.jump_word : (s.jump p).word = s.word := rfl
@[simp] theorem State.jump_issueSeq : (s.jump p).issueSeq = s.issueSeq := rfl
@[simp] theorem State.jump_issuePorts : (s.jump p).issuePorts = s.issuePorts := rfl
@[simp] theorem State.jump_turn : (s.jump p).turn = s.turn := rfl
@[simp] theorem State.jump_inputs : (s.jump p).inputs = s.inputs := rfl
end jump

section done
variable (s : State) (d : SReg) (x : Word)

@[simp] theorem State.done_cp : (s.done d x).cp = s.cp := rfl
@[simp] theorem State.done_waves : (s.done d x).waves = s.waves := rfl
@[simp] theorem State.done_teams : (s.done d x).teams = s.teams := rfl
@[simp] theorem State.done_clusters : (s.done d x).clusters = s.clusters := rfl
@[simp] theorem State.done_launches : (s.done d x).launches = s.launches := rfl
@[simp] theorem State.done_ctxs : (s.done d x).ctxs = s.ctxs := rfl
@[simp] theorem State.done_handles : (s.done d x).handles = s.handles := rfl
@[simp] theorem State.done_ports : (s.done d x).ports = s.ports := rfl
@[simp] theorem State.done_remotes : (s.done d x).remotes = s.remotes := rfl
@[simp] theorem State.done_waitSets : (s.done d x).waitSets = s.waitSets := rfl
@[simp] theorem State.done_timers : (s.done d x).timers = s.timers := rfl
@[simp] theorem State.done_watches : (s.done d x).watches = s.watches := rfl
@[simp] theorem State.done_copies : (s.done d x).copies = s.copies := rfl
@[simp] theorem State.done_late : (s.done d x).late = s.late := rfl
@[simp] theorem State.done_tensors : (s.done d x).tensors = s.tensors := rfl
@[simp] theorem State.done_tiles : (s.done d x).tiles = s.tiles := rfl
@[simp] theorem State.done_censuses : (s.done d x).censuses = s.censuses := rfl
@[simp] theorem State.done_responders : (s.done d x).responders = s.responders := rfl
@[simp] theorem State.done_latch : (s.done d x).latch = s.latch := rfl
@[simp] theorem State.done_jointOps : (s.done d x).jointOps = s.jointOps := rfl
@[simp] theorem State.done_products : (s.done d x).products = s.products := rfl
@[simp] theorem State.done_mem : (s.done d x).mem = s.mem := rfl
@[simp] theorem State.done_owners : (s.done d x).owners = s.owners := rfl
@[simp] theorem State.done_lent : (s.done d x).lent = s.lent := rfl
@[simp] theorem State.done_holds : (s.done d x).holds = s.holds := rfl
@[simp] theorem State.done_tlb : (s.done d x).tlb = s.tlb := rfl
@[simp] theorem State.done_wcb : (s.done d x).wcb = s.wcb := rfl
@[simp] theorem State.done_invals : (s.done d x).invals = s.invals := rfl
@[simp] theorem State.done_banks : (s.done d x).banks = s.banks := rfl
@[simp] theorem State.done_gated : (s.done d x).gated = s.gated := rfl
@[simp] theorem State.done_rimPorts : (s.done d x).rimPorts = s.rimPorts := rfl
@[simp] theorem State.done_rimReqs : (s.done d x).rimReqs = s.rimReqs := rfl
@[simp] theorem State.done_packets : (s.done d x).packets = s.packets := rfl
@[simp] theorem State.done_buckets : (s.done d x).buckets = s.buckets := rfl
@[simp] theorem State.done_parts : (s.done d x).parts = s.parts := rfl
@[simp] theorem State.done_funcs : (s.done d x).funcs = s.funcs := rfl
@[simp] theorem State.done_svcCores : (s.done d x).svcCores = s.svcCores := rfl
@[simp] theorem State.done_trainings : (s.done d x).trainings = s.trainings := rfl
@[simp] theorem State.done_devs : (s.done d x).devs = s.devs := rfl
@[simp] theorem State.done_podW : (s.done d x).podW = s.podW := rfl
@[simp] theorem State.done_podH : (s.done d x).podH = s.podH := rfl
@[simp] theorem State.done_stores : (s.done d x).stores = s.stores := rfl
@[simp] theorem State.done_nextUid : (s.done d x).nextUid = s.nextUid := rfl
@[simp] theorem State.done_free : (s.done d x).free = s.free := rfl
@[simp] theorem State.done_word : (s.done d x).word = s.word := rfl
@[simp] theorem State.done_issueSeq : (s.done d x).issueSeq = s.issueSeq := rfl
@[simp] theorem State.done_issuePorts : (s.done d x).issuePorts = s.issuePorts := rfl
@[simp] theorem State.done_turn : (s.done d x).turn = s.turn := rfl
@[simp] theorem State.done_inputs : (s.done d x).inputs = s.inputs := rfl
end done

section cure
variable (s : State) (p : ErrUnit → Bool)

@[simp] theorem State.cure_cw : (s.cure p).cw = s.cw := rfl
@[simp] theorem State.cure_cp : (s.cure p).cp = s.cp := rfl
@[simp] theorem State.cure_waves : (s.cure p).waves = s.waves := rfl
@[simp] theorem State.cure_teams : (s.cure p).teams = s.teams := rfl
@[simp] theorem State.cure_clusters : (s.cure p).clusters = s.clusters := rfl
@[simp] theorem State.cure_launches : (s.cure p).launches = s.launches := rfl
@[simp] theorem State.cure_ctxs : (s.cure p).ctxs = s.ctxs := rfl
@[simp] theorem State.cure_handles : (s.cure p).handles = s.handles := rfl
@[simp] theorem State.cure_ports : (s.cure p).ports = s.ports := rfl
@[simp] theorem State.cure_remotes : (s.cure p).remotes = s.remotes := rfl
@[simp] theorem State.cure_waitSets : (s.cure p).waitSets = s.waitSets := rfl
@[simp] theorem State.cure_timers : (s.cure p).timers = s.timers := rfl
@[simp] theorem State.cure_watches : (s.cure p).watches = s.watches := rfl
@[simp] theorem State.cure_copies : (s.cure p).copies = s.copies := rfl
@[simp] theorem State.cure_late : (s.cure p).late = s.late := rfl
@[simp] theorem State.cure_tensors : (s.cure p).tensors = s.tensors := rfl
@[simp] theorem State.cure_tiles : (s.cure p).tiles = s.tiles := rfl
@[simp] theorem State.cure_censuses : (s.cure p).censuses = s.censuses := rfl
@[simp] theorem State.cure_responders : (s.cure p).responders = s.responders := rfl
@[simp] theorem State.cure_latch : (s.cure p).latch = s.latch := rfl
@[simp] theorem State.cure_jointOps : (s.cure p).jointOps = s.jointOps := rfl
@[simp] theorem State.cure_products : (s.cure p).products = s.products := rfl
@[simp] theorem State.cure_mem : (s.cure p).mem = s.mem := rfl
@[simp] theorem State.cure_owners : (s.cure p).owners = s.owners := rfl
@[simp] theorem State.cure_lent : (s.cure p).lent = s.lent := rfl
@[simp] theorem State.cure_holds : (s.cure p).holds = s.holds := rfl
@[simp] theorem State.cure_tlb : (s.cure p).tlb = s.tlb := rfl
@[simp] theorem State.cure_wcb : (s.cure p).wcb = s.wcb := rfl
@[simp] theorem State.cure_invals : (s.cure p).invals = s.invals := rfl
@[simp] theorem State.cure_banks : (s.cure p).banks = s.banks := rfl
@[simp] theorem State.cure_gated : (s.cure p).gated = s.gated := rfl
@[simp] theorem State.cure_rimPorts : (s.cure p).rimPorts = s.rimPorts := rfl
@[simp] theorem State.cure_rimReqs : (s.cure p).rimReqs = s.rimReqs := rfl
@[simp] theorem State.cure_packets : (s.cure p).packets = s.packets := rfl
@[simp] theorem State.cure_buckets : (s.cure p).buckets = s.buckets := rfl
@[simp] theorem State.cure_parts : (s.cure p).parts = s.parts := rfl
@[simp] theorem State.cure_funcs : (s.cure p).funcs = s.funcs := rfl
@[simp] theorem State.cure_svcCores : (s.cure p).svcCores = s.svcCores := rfl
@[simp] theorem State.cure_trainings : (s.cure p).trainings = s.trainings := rfl
@[simp] theorem State.cure_devs : (s.cure p).devs = s.devs := rfl
@[simp] theorem State.cure_podW : (s.cure p).podW = s.podW := rfl
@[simp] theorem State.cure_podH : (s.cure p).podH = s.podH := rfl
@[simp] theorem State.cure_stores : (s.cure p).stores = s.stores := rfl
@[simp] theorem State.cure_nextUid : (s.cure p).nextUid = s.nextUid := rfl
@[simp] theorem State.cure_free : (s.cure p).free = s.free := rfl
@[simp] theorem State.cure_word : (s.cure p).word = s.word := rfl
@[simp] theorem State.cure_issueSeq : (s.cure p).issueSeq = s.issueSeq := rfl
@[simp] theorem State.cure_issuePorts : (s.cure p).issuePorts = s.issuePorts := rfl
@[simp] theorem State.cure_turn : (s.cure p).turn = s.turn := rfl
@[simp] theorem State.cure_inputs : (s.cure p).inputs = s.inputs := rfl
end cure

section fresh
variable (s : State)

@[simp] theorem State.fresh_cw : s.fresh.2.cw = s.cw := rfl
@[simp] theorem State.fresh_cp : s.fresh.2.cp = s.cp := rfl
@[simp] theorem State.fresh_waves : s.fresh.2.waves = s.waves := rfl
@[simp] theorem State.fresh_teams : s.fresh.2.teams = s.teams := rfl
@[simp] theorem State.fresh_clusters : s.fresh.2.clusters = s.clusters := rfl
@[simp] theorem State.fresh_launches : s.fresh.2.launches = s.launches := rfl
@[simp] theorem State.fresh_ctxs : s.fresh.2.ctxs = s.ctxs := rfl
@[simp] theorem State.fresh_handles : s.fresh.2.handles = s.handles := rfl
@[simp] theorem State.fresh_ports : s.fresh.2.ports = s.ports := rfl
@[simp] theorem State.fresh_remotes : s.fresh.2.remotes = s.remotes := rfl
@[simp] theorem State.fresh_waitSets : s.fresh.2.waitSets = s.waitSets := rfl
@[simp] theorem State.fresh_timers : s.fresh.2.timers = s.timers := rfl
@[simp] theorem State.fresh_watches : s.fresh.2.watches = s.watches := rfl
@[simp] theorem State.fresh_copies : s.fresh.2.copies = s.copies := rfl
@[simp] theorem State.fresh_late : s.fresh.2.late = s.late := rfl
@[simp] theorem State.fresh_tensors : s.fresh.2.tensors = s.tensors := rfl
@[simp] theorem State.fresh_tiles : s.fresh.2.tiles = s.tiles := rfl
@[simp] theorem State.fresh_censuses : s.fresh.2.censuses = s.censuses := rfl
@[simp] theorem State.fresh_responders : s.fresh.2.responders = s.responders := rfl
@[simp] theorem State.fresh_latch : s.fresh.2.latch = s.latch := rfl
@[simp] theorem State.fresh_jointOps : s.fresh.2.jointOps = s.jointOps := rfl
@[simp] theorem State.fresh_products : s.fresh.2.products = s.products := rfl
@[simp] theorem State.fresh_mem : s.fresh.2.mem = s.mem := rfl
@[simp] theorem State.fresh_owners : s.fresh.2.owners = s.owners := rfl
@[simp] theorem State.fresh_lent : s.fresh.2.lent = s.lent := rfl
@[simp] theorem State.fresh_holds : s.fresh.2.holds = s.holds := rfl
@[simp] theorem State.fresh_tlb : s.fresh.2.tlb = s.tlb := rfl
@[simp] theorem State.fresh_wcb : s.fresh.2.wcb = s.wcb := rfl
@[simp] theorem State.fresh_invals : s.fresh.2.invals = s.invals := rfl
@[simp] theorem State.fresh_banks : s.fresh.2.banks = s.banks := rfl
@[simp] theorem State.fresh_gated : s.fresh.2.gated = s.gated := rfl
@[simp] theorem State.fresh_rimPorts : s.fresh.2.rimPorts = s.rimPorts := rfl
@[simp] theorem State.fresh_rimReqs : s.fresh.2.rimReqs = s.rimReqs := rfl
@[simp] theorem State.fresh_packets : s.fresh.2.packets = s.packets := rfl
@[simp] theorem State.fresh_buckets : s.fresh.2.buckets = s.buckets := rfl
@[simp] theorem State.fresh_parts : s.fresh.2.parts = s.parts := rfl
@[simp] theorem State.fresh_funcs : s.fresh.2.funcs = s.funcs := rfl
@[simp] theorem State.fresh_svcCores : s.fresh.2.svcCores = s.svcCores := rfl
@[simp] theorem State.fresh_trainings : s.fresh.2.trainings = s.trainings := rfl
@[simp] theorem State.fresh_devs : s.fresh.2.devs = s.devs := rfl
@[simp] theorem State.fresh_podW : s.fresh.2.podW = s.podW := rfl
@[simp] theorem State.fresh_podH : s.fresh.2.podH = s.podH := rfl
@[simp] theorem State.fresh_poison : s.fresh.2.poison = s.poison := rfl
@[simp] theorem State.fresh_stores : s.fresh.2.stores = s.stores := rfl
@[simp] theorem State.fresh_free : s.fresh.2.free = s.free := rfl
@[simp] theorem State.fresh_word : s.fresh.2.word = s.word := rfl
@[simp] theorem State.fresh_issueSeq : s.fresh.2.issueSeq = s.issueSeq := rfl
@[simp] theorem State.fresh_issuePorts : s.fresh.2.issuePorts = s.issuePorts := rfl
@[simp] theorem State.fresh_turn : s.fresh.2.turn = s.turn := rfl
@[simp] theorem State.fresh_inputs : s.fresh.2.inputs = s.inputs := rfl
end fresh

section draw
variable (s : State)

@[simp] theorem State.draw_cw : s.draw.2.cw = s.cw := rfl
@[simp] theorem State.draw_cp : s.draw.2.cp = s.cp := rfl
@[simp] theorem State.draw_waves : s.draw.2.waves = s.waves := rfl
@[simp] theorem State.draw_teams : s.draw.2.teams = s.teams := rfl
@[simp] theorem State.draw_clusters : s.draw.2.clusters = s.clusters := rfl
@[simp] theorem State.draw_launches : s.draw.2.launches = s.launches := rfl
@[simp] theorem State.draw_ctxs : s.draw.2.ctxs = s.ctxs := rfl
@[simp] theorem State.draw_handles : s.draw.2.handles = s.handles := rfl
@[simp] theorem State.draw_ports : s.draw.2.ports = s.ports := rfl
@[simp] theorem State.draw_remotes : s.draw.2.remotes = s.remotes := rfl
@[simp] theorem State.draw_waitSets : s.draw.2.waitSets = s.waitSets := rfl
@[simp] theorem State.draw_timers : s.draw.2.timers = s.timers := rfl
@[simp] theorem State.draw_watches : s.draw.2.watches = s.watches := rfl
@[simp] theorem State.draw_copies : s.draw.2.copies = s.copies := rfl
@[simp] theorem State.draw_late : s.draw.2.late = s.late := rfl
@[simp] theorem State.draw_tensors : s.draw.2.tensors = s.tensors := rfl
@[simp] theorem State.draw_tiles : s.draw.2.tiles = s.tiles := rfl
@[simp] theorem State.draw_censuses : s.draw.2.censuses = s.censuses := rfl
@[simp] theorem State.draw_responders : s.draw.2.responders = s.responders := rfl
@[simp] theorem State.draw_latch : s.draw.2.latch = s.latch := rfl
@[simp] theorem State.draw_jointOps : s.draw.2.jointOps = s.jointOps := rfl
@[simp] theorem State.draw_products : s.draw.2.products = s.products := rfl
@[simp] theorem State.draw_mem : s.draw.2.mem = s.mem := rfl
@[simp] theorem State.draw_owners : s.draw.2.owners = s.owners := rfl
@[simp] theorem State.draw_lent : s.draw.2.lent = s.lent := rfl
@[simp] theorem State.draw_holds : s.draw.2.holds = s.holds := rfl
@[simp] theorem State.draw_tlb : s.draw.2.tlb = s.tlb := rfl
@[simp] theorem State.draw_wcb : s.draw.2.wcb = s.wcb := rfl
@[simp] theorem State.draw_invals : s.draw.2.invals = s.invals := rfl
@[simp] theorem State.draw_banks : s.draw.2.banks = s.banks := rfl
@[simp] theorem State.draw_gated : s.draw.2.gated = s.gated := rfl
@[simp] theorem State.draw_rimPorts : s.draw.2.rimPorts = s.rimPorts := rfl
@[simp] theorem State.draw_rimReqs : s.draw.2.rimReqs = s.rimReqs := rfl
@[simp] theorem State.draw_packets : s.draw.2.packets = s.packets := rfl
@[simp] theorem State.draw_buckets : s.draw.2.buckets = s.buckets := rfl
@[simp] theorem State.draw_parts : s.draw.2.parts = s.parts := rfl
@[simp] theorem State.draw_funcs : s.draw.2.funcs = s.funcs := rfl
@[simp] theorem State.draw_svcCores : s.draw.2.svcCores = s.svcCores := rfl
@[simp] theorem State.draw_trainings : s.draw.2.trainings = s.trainings := rfl
@[simp] theorem State.draw_devs : s.draw.2.devs = s.devs := rfl
@[simp] theorem State.draw_podW : s.draw.2.podW = s.podW := rfl
@[simp] theorem State.draw_podH : s.draw.2.podH = s.podH := rfl
@[simp] theorem State.draw_poison : s.draw.2.poison = s.poison := rfl
@[simp] theorem State.draw_stores : s.draw.2.stores = s.stores := rfl
@[simp] theorem State.draw_nextUid : s.draw.2.nextUid = s.nextUid := rfl
@[simp] theorem State.draw_word : s.draw.2.word = s.word := rfl
@[simp] theorem State.draw_issueSeq : s.draw.2.issueSeq = s.issueSeq := rfl
@[simp] theorem State.draw_issuePorts : s.draw.2.issuePorts = s.issuePorts := rfl
@[simp] theorem State.draw_turn : s.draw.2.turn = s.turn := rfl
@[simp] theorem State.draw_inputs : s.draw.2.inputs = s.inputs := rfl
end draw

section post
variable (s : State) (d n : Nat) (r : List Word)

@[simp] theorem State.post_cw : (s.post d n r).cw = s.cw := rfl
@[simp] theorem State.post_cp : (s.post d n r).cp = s.cp := rfl
@[simp] theorem State.post_waves : (s.post d n r).waves = s.waves := rfl
@[simp] theorem State.post_teams : (s.post d n r).teams = s.teams := rfl
@[simp] theorem State.post_clusters : (s.post d n r).clusters = s.clusters := rfl
@[simp] theorem State.post_launches : (s.post d n r).launches = s.launches := rfl
@[simp] theorem State.post_ctxs : (s.post d n r).ctxs = s.ctxs := rfl
@[simp] theorem State.post_handles : (s.post d n r).handles = s.handles := rfl
@[simp] theorem State.post_ports : (s.post d n r).ports = s.ports := rfl
@[simp] theorem State.post_remotes : (s.post d n r).remotes = s.remotes := rfl
@[simp] theorem State.post_waitSets : (s.post d n r).waitSets = s.waitSets := rfl
@[simp] theorem State.post_timers : (s.post d n r).timers = s.timers := rfl
@[simp] theorem State.post_watches : (s.post d n r).watches = s.watches := rfl
@[simp] theorem State.post_copies : (s.post d n r).copies = s.copies := rfl
@[simp] theorem State.post_late : (s.post d n r).late = s.late := rfl
@[simp] theorem State.post_tensors : (s.post d n r).tensors = s.tensors := rfl
@[simp] theorem State.post_tiles : (s.post d n r).tiles = s.tiles := rfl
@[simp] theorem State.post_censuses : (s.post d n r).censuses = s.censuses := rfl
@[simp] theorem State.post_responders : (s.post d n r).responders = s.responders := rfl
@[simp] theorem State.post_latch : (s.post d n r).latch = s.latch := rfl
@[simp] theorem State.post_jointOps : (s.post d n r).jointOps = s.jointOps := rfl
@[simp] theorem State.post_products : (s.post d n r).products = s.products := rfl
@[simp] theorem State.post_mem : (s.post d n r).mem = s.mem := rfl
@[simp] theorem State.post_owners : (s.post d n r).owners = s.owners := rfl
@[simp] theorem State.post_lent : (s.post d n r).lent = s.lent := rfl
@[simp] theorem State.post_holds : (s.post d n r).holds = s.holds := rfl
@[simp] theorem State.post_tlb : (s.post d n r).tlb = s.tlb := rfl
@[simp] theorem State.post_wcb : (s.post d n r).wcb = s.wcb := rfl
@[simp] theorem State.post_invals : (s.post d n r).invals = s.invals := rfl
@[simp] theorem State.post_banks : (s.post d n r).banks = s.banks := rfl
@[simp] theorem State.post_gated : (s.post d n r).gated = s.gated := rfl
@[simp] theorem State.post_rimPorts : (s.post d n r).rimPorts = s.rimPorts := rfl
@[simp] theorem State.post_rimReqs : (s.post d n r).rimReqs = s.rimReqs := rfl
@[simp] theorem State.post_packets : (s.post d n r).packets = s.packets := rfl
@[simp] theorem State.post_buckets : (s.post d n r).buckets = s.buckets := rfl
@[simp] theorem State.post_parts : (s.post d n r).parts = s.parts := rfl
@[simp] theorem State.post_svcCores : (s.post d n r).svcCores = s.svcCores := rfl
@[simp] theorem State.post_trainings : (s.post d n r).trainings = s.trainings := rfl
@[simp] theorem State.post_devs : (s.post d n r).devs = s.devs := rfl
@[simp] theorem State.post_podW : (s.post d n r).podW = s.podW := rfl
@[simp] theorem State.post_podH : (s.post d n r).podH = s.podH := rfl
@[simp] theorem State.post_poison : (s.post d n r).poison = s.poison := rfl
@[simp] theorem State.post_stores : (s.post d n r).stores = s.stores := rfl
@[simp] theorem State.post_nextUid : (s.post d n r).nextUid = s.nextUid := rfl
@[simp] theorem State.post_free : (s.post d n r).free = s.free := rfl
@[simp] theorem State.post_word : (s.post d n r).word = s.word := rfl
@[simp] theorem State.post_issueSeq : (s.post d n r).issueSeq = s.issueSeq := rfl
@[simp] theorem State.post_issuePorts : (s.post d n r).issuePorts = s.issuePorts := rfl
@[simp] theorem State.post_turn : (s.post d n r).turn = s.turn := rfl
@[simp] theorem State.post_inputs : (s.post d n r).inputs = s.inputs := rfl
end post

section setFrames
variable (s : State) (d n k : Nat) (c : BitVec 8)

@[simp] theorem State.setFrames_cw : (s.setFrames d n k c).cw = s.cw := rfl
@[simp] theorem State.setFrames_cp : (s.setFrames d n k c).cp = s.cp := rfl
@[simp] theorem State.setFrames_waves : (s.setFrames d n k c).waves = s.waves := rfl
@[simp] theorem State.setFrames_teams : (s.setFrames d n k c).teams = s.teams := rfl
@[simp] theorem State.setFrames_clusters : (s.setFrames d n k c).clusters = s.clusters := rfl
@[simp] theorem State.setFrames_launches : (s.setFrames d n k c).launches = s.launches := rfl
@[simp] theorem State.setFrames_ctxs : (s.setFrames d n k c).ctxs = s.ctxs := rfl
@[simp] theorem State.setFrames_handles : (s.setFrames d n k c).handles = s.handles := rfl
@[simp] theorem State.setFrames_ports : (s.setFrames d n k c).ports = s.ports := rfl
@[simp] theorem State.setFrames_remotes : (s.setFrames d n k c).remotes = s.remotes := rfl
@[simp] theorem State.setFrames_waitSets : (s.setFrames d n k c).waitSets = s.waitSets := rfl
@[simp] theorem State.setFrames_timers : (s.setFrames d n k c).timers = s.timers := rfl
@[simp] theorem State.setFrames_watches : (s.setFrames d n k c).watches = s.watches := rfl
@[simp] theorem State.setFrames_copies : (s.setFrames d n k c).copies = s.copies := rfl
@[simp] theorem State.setFrames_late : (s.setFrames d n k c).late = s.late := rfl
@[simp] theorem State.setFrames_tensors : (s.setFrames d n k c).tensors = s.tensors := rfl
@[simp] theorem State.setFrames_tiles : (s.setFrames d n k c).tiles = s.tiles := rfl
@[simp] theorem State.setFrames_censuses : (s.setFrames d n k c).censuses = s.censuses := rfl
@[simp] theorem State.setFrames_responders : (s.setFrames d n k c).responders = s.responders := rfl
@[simp] theorem State.setFrames_latch : (s.setFrames d n k c).latch = s.latch := rfl
@[simp] theorem State.setFrames_jointOps : (s.setFrames d n k c).jointOps = s.jointOps := rfl
@[simp] theorem State.setFrames_products : (s.setFrames d n k c).products = s.products := rfl
@[simp] theorem State.setFrames_mem : (s.setFrames d n k c).mem = s.mem := rfl
@[simp] theorem State.setFrames_lent : (s.setFrames d n k c).lent = s.lent := rfl
@[simp] theorem State.setFrames_holds : (s.setFrames d n k c).holds = s.holds := rfl
@[simp] theorem State.setFrames_tlb : (s.setFrames d n k c).tlb = s.tlb := rfl
@[simp] theorem State.setFrames_wcb : (s.setFrames d n k c).wcb = s.wcb := rfl
@[simp] theorem State.setFrames_invals : (s.setFrames d n k c).invals = s.invals := rfl
@[simp] theorem State.setFrames_banks : (s.setFrames d n k c).banks = s.banks := rfl
@[simp] theorem State.setFrames_gated : (s.setFrames d n k c).gated = s.gated := rfl
@[simp] theorem State.setFrames_rimPorts : (s.setFrames d n k c).rimPorts = s.rimPorts := rfl
@[simp] theorem State.setFrames_rimReqs : (s.setFrames d n k c).rimReqs = s.rimReqs := rfl
@[simp] theorem State.setFrames_packets : (s.setFrames d n k c).packets = s.packets := rfl
@[simp] theorem State.setFrames_buckets : (s.setFrames d n k c).buckets = s.buckets := rfl
@[simp] theorem State.setFrames_parts : (s.setFrames d n k c).parts = s.parts := rfl
@[simp] theorem State.setFrames_funcs : (s.setFrames d n k c).funcs = s.funcs := rfl
@[simp] theorem State.setFrames_svcCores : (s.setFrames d n k c).svcCores = s.svcCores := rfl
@[simp] theorem State.setFrames_trainings : (s.setFrames d n k c).trainings = s.trainings := rfl
@[simp] theorem State.setFrames_devs : (s.setFrames d n k c).devs = s.devs := rfl
@[simp] theorem State.setFrames_podW : (s.setFrames d n k c).podW = s.podW := rfl
@[simp] theorem State.setFrames_podH : (s.setFrames d n k c).podH = s.podH := rfl
@[simp] theorem State.setFrames_poison : (s.setFrames d n k c).poison = s.poison := rfl
@[simp] theorem State.setFrames_stores : (s.setFrames d n k c).stores = s.stores := rfl
@[simp] theorem State.setFrames_nextUid : (s.setFrames d n k c).nextUid = s.nextUid := rfl
@[simp] theorem State.setFrames_free : (s.setFrames d n k c).free = s.free := rfl
@[simp] theorem State.setFrames_word : (s.setFrames d n k c).word = s.word := rfl
@[simp] theorem State.setFrames_issueSeq : (s.setFrames d n k c).issueSeq = s.issueSeq := rfl
@[simp] theorem State.setFrames_issuePorts : (s.setFrames d n k c).issuePorts = s.issuePorts := rfl
@[simp] theorem State.setFrames_turn : (s.setFrames d n k c).turn = s.turn := rfl
@[simp] theorem State.setFrames_inputs : (s.setFrames d n k c).inputs = s.inputs := rfl
end setFrames

section setBank
variable (s : State) (b : Bank)

@[simp] theorem State.setBank_cw : (s.setBank b).cw = s.cw := rfl
@[simp] theorem State.setBank_cp : (s.setBank b).cp = s.cp := rfl
@[simp] theorem State.setBank_waves : (s.setBank b).waves = s.waves := rfl
@[simp] theorem State.setBank_teams : (s.setBank b).teams = s.teams := rfl
@[simp] theorem State.setBank_clusters : (s.setBank b).clusters = s.clusters := rfl
@[simp] theorem State.setBank_launches : (s.setBank b).launches = s.launches := rfl
@[simp] theorem State.setBank_ctxs : (s.setBank b).ctxs = s.ctxs := rfl
@[simp] theorem State.setBank_handles : (s.setBank b).handles = s.handles := rfl
@[simp] theorem State.setBank_ports : (s.setBank b).ports = s.ports := rfl
@[simp] theorem State.setBank_remotes : (s.setBank b).remotes = s.remotes := rfl
@[simp] theorem State.setBank_waitSets : (s.setBank b).waitSets = s.waitSets := rfl
@[simp] theorem State.setBank_timers : (s.setBank b).timers = s.timers := rfl
@[simp] theorem State.setBank_watches : (s.setBank b).watches = s.watches := rfl
@[simp] theorem State.setBank_copies : (s.setBank b).copies = s.copies := rfl
@[simp] theorem State.setBank_late : (s.setBank b).late = s.late := rfl
@[simp] theorem State.setBank_tensors : (s.setBank b).tensors = s.tensors := rfl
@[simp] theorem State.setBank_tiles : (s.setBank b).tiles = s.tiles := rfl
@[simp] theorem State.setBank_censuses : (s.setBank b).censuses = s.censuses := rfl
@[simp] theorem State.setBank_responders : (s.setBank b).responders = s.responders := rfl
@[simp] theorem State.setBank_latch : (s.setBank b).latch = s.latch := rfl
@[simp] theorem State.setBank_jointOps : (s.setBank b).jointOps = s.jointOps := rfl
@[simp] theorem State.setBank_products : (s.setBank b).products = s.products := rfl
@[simp] theorem State.setBank_mem : (s.setBank b).mem = s.mem := rfl
@[simp] theorem State.setBank_owners : (s.setBank b).owners = s.owners := rfl
@[simp] theorem State.setBank_lent : (s.setBank b).lent = s.lent := rfl
@[simp] theorem State.setBank_holds : (s.setBank b).holds = s.holds := rfl
@[simp] theorem State.setBank_tlb : (s.setBank b).tlb = s.tlb := rfl
@[simp] theorem State.setBank_wcb : (s.setBank b).wcb = s.wcb := rfl
@[simp] theorem State.setBank_invals : (s.setBank b).invals = s.invals := rfl
@[simp] theorem State.setBank_gated : (s.setBank b).gated = s.gated := rfl
@[simp] theorem State.setBank_rimPorts : (s.setBank b).rimPorts = s.rimPorts := rfl
@[simp] theorem State.setBank_rimReqs : (s.setBank b).rimReqs = s.rimReqs := rfl
@[simp] theorem State.setBank_packets : (s.setBank b).packets = s.packets := rfl
@[simp] theorem State.setBank_buckets : (s.setBank b).buckets = s.buckets := rfl
@[simp] theorem State.setBank_parts : (s.setBank b).parts = s.parts := rfl
@[simp] theorem State.setBank_funcs : (s.setBank b).funcs = s.funcs := rfl
@[simp] theorem State.setBank_svcCores : (s.setBank b).svcCores = s.svcCores := rfl
@[simp] theorem State.setBank_trainings : (s.setBank b).trainings = s.trainings := rfl
@[simp] theorem State.setBank_devs : (s.setBank b).devs = s.devs := rfl
@[simp] theorem State.setBank_podW : (s.setBank b).podW = s.podW := rfl
@[simp] theorem State.setBank_podH : (s.setBank b).podH = s.podH := rfl
@[simp] theorem State.setBank_poison : (s.setBank b).poison = s.poison := rfl
@[simp] theorem State.setBank_stores : (s.setBank b).stores = s.stores := rfl
@[simp] theorem State.setBank_nextUid : (s.setBank b).nextUid = s.nextUid := rfl
@[simp] theorem State.setBank_free : (s.setBank b).free = s.free := rfl
@[simp] theorem State.setBank_word : (s.setBank b).word = s.word := rfl
@[simp] theorem State.setBank_issueSeq : (s.setBank b).issueSeq = s.issueSeq := rfl
@[simp] theorem State.setBank_issuePorts : (s.setBank b).issuePorts = s.issuePorts := rfl
@[simp] theorem State.setBank_turn : (s.setBank b).turn = s.turn := rfl
@[simp] theorem State.setBank_inputs : (s.setBank b).inputs = s.inputs := rfl
end setBank

section seeWrite
variable (s : State) (a n : Nat)

@[simp] theorem State.seeWrite_cw : (s.seeWrite a n).cw = s.cw := rfl
@[simp] theorem State.seeWrite_cp : (s.seeWrite a n).cp = s.cp := rfl
@[simp] theorem State.seeWrite_waves : (s.seeWrite a n).waves = s.waves := rfl
@[simp] theorem State.seeWrite_teams : (s.seeWrite a n).teams = s.teams := rfl
@[simp] theorem State.seeWrite_clusters : (s.seeWrite a n).clusters = s.clusters := rfl
@[simp] theorem State.seeWrite_launches : (s.seeWrite a n).launches = s.launches := rfl
@[simp] theorem State.seeWrite_ctxs : (s.seeWrite a n).ctxs = s.ctxs := rfl
@[simp] theorem State.seeWrite_handles : (s.seeWrite a n).handles = s.handles := rfl
@[simp] theorem State.seeWrite_ports : (s.seeWrite a n).ports = s.ports := rfl
@[simp] theorem State.seeWrite_remotes : (s.seeWrite a n).remotes = s.remotes := rfl
@[simp] theorem State.seeWrite_waitSets : (s.seeWrite a n).waitSets = s.waitSets := rfl
@[simp] theorem State.seeWrite_timers : (s.seeWrite a n).timers = s.timers := rfl
@[simp] theorem State.seeWrite_copies : (s.seeWrite a n).copies = s.copies := rfl
@[simp] theorem State.seeWrite_late : (s.seeWrite a n).late = s.late := rfl
@[simp] theorem State.seeWrite_tensors : (s.seeWrite a n).tensors = s.tensors := rfl
@[simp] theorem State.seeWrite_tiles : (s.seeWrite a n).tiles = s.tiles := rfl
@[simp] theorem State.seeWrite_censuses : (s.seeWrite a n).censuses = s.censuses := rfl
@[simp] theorem State.seeWrite_responders : (s.seeWrite a n).responders = s.responders := rfl
@[simp] theorem State.seeWrite_latch : (s.seeWrite a n).latch = s.latch := rfl
@[simp] theorem State.seeWrite_jointOps : (s.seeWrite a n).jointOps = s.jointOps := rfl
@[simp] theorem State.seeWrite_products : (s.seeWrite a n).products = s.products := rfl
@[simp] theorem State.seeWrite_mem : (s.seeWrite a n).mem = s.mem := rfl
@[simp] theorem State.seeWrite_owners : (s.seeWrite a n).owners = s.owners := rfl
@[simp] theorem State.seeWrite_lent : (s.seeWrite a n).lent = s.lent := rfl
@[simp] theorem State.seeWrite_holds : (s.seeWrite a n).holds = s.holds := rfl
@[simp] theorem State.seeWrite_tlb : (s.seeWrite a n).tlb = s.tlb := rfl
@[simp] theorem State.seeWrite_wcb : (s.seeWrite a n).wcb = s.wcb := rfl
@[simp] theorem State.seeWrite_invals : (s.seeWrite a n).invals = s.invals := rfl
@[simp] theorem State.seeWrite_banks : (s.seeWrite a n).banks = s.banks := rfl
@[simp] theorem State.seeWrite_gated : (s.seeWrite a n).gated = s.gated := rfl
@[simp] theorem State.seeWrite_rimPorts : (s.seeWrite a n).rimPorts = s.rimPorts := rfl
@[simp] theorem State.seeWrite_rimReqs : (s.seeWrite a n).rimReqs = s.rimReqs := rfl
@[simp] theorem State.seeWrite_packets : (s.seeWrite a n).packets = s.packets := rfl
@[simp] theorem State.seeWrite_buckets : (s.seeWrite a n).buckets = s.buckets := rfl
@[simp] theorem State.seeWrite_parts : (s.seeWrite a n).parts = s.parts := rfl
@[simp] theorem State.seeWrite_funcs : (s.seeWrite a n).funcs = s.funcs := rfl
@[simp] theorem State.seeWrite_svcCores : (s.seeWrite a n).svcCores = s.svcCores := rfl
@[simp] theorem State.seeWrite_trainings : (s.seeWrite a n).trainings = s.trainings := rfl
@[simp] theorem State.seeWrite_devs : (s.seeWrite a n).devs = s.devs := rfl
@[simp] theorem State.seeWrite_podW : (s.seeWrite a n).podW = s.podW := rfl
@[simp] theorem State.seeWrite_podH : (s.seeWrite a n).podH = s.podH := rfl
@[simp] theorem State.seeWrite_poison : (s.seeWrite a n).poison = s.poison := rfl
@[simp] theorem State.seeWrite_stores : (s.seeWrite a n).stores = s.stores := rfl
@[simp] theorem State.seeWrite_nextUid : (s.seeWrite a n).nextUid = s.nextUid := rfl
@[simp] theorem State.seeWrite_free : (s.seeWrite a n).free = s.free := rfl
@[simp] theorem State.seeWrite_word : (s.seeWrite a n).word = s.word := rfl
@[simp] theorem State.seeWrite_issueSeq : (s.seeWrite a n).issueSeq = s.issueSeq := rfl
@[simp] theorem State.seeWrite_issuePorts : (s.seeWrite a n).issuePorts = s.issuePorts := rfl
@[simp] theorem State.seeWrite_turn : (s.seeWrite a n).turn = s.turn := rfl
@[simp] theorem State.seeWrite_inputs : (s.seeWrite a n).inputs = s.inputs := rfl
end seeWrite

section writePhys
variable (s : State) (a : Nat) (b : List Byte)

@[simp] theorem State.writePhys_cw : (s.writePhys a b).cw = s.cw := rfl
@[simp] theorem State.writePhys_cp : (s.writePhys a b).cp = s.cp := rfl
@[simp] theorem State.writePhys_waves : (s.writePhys a b).waves = s.waves := rfl
@[simp] theorem State.writePhys_teams : (s.writePhys a b).teams = s.teams := rfl
@[simp] theorem State.writePhys_clusters : (s.writePhys a b).clusters = s.clusters := rfl
@[simp] theorem State.writePhys_launches : (s.writePhys a b).launches = s.launches := rfl
@[simp] theorem State.writePhys_ctxs : (s.writePhys a b).ctxs = s.ctxs := rfl
@[simp] theorem State.writePhys_handles : (s.writePhys a b).handles = s.handles := rfl
@[simp] theorem State.writePhys_ports : (s.writePhys a b).ports = s.ports := rfl
@[simp] theorem State.writePhys_remotes : (s.writePhys a b).remotes = s.remotes := rfl
@[simp] theorem State.writePhys_waitSets : (s.writePhys a b).waitSets = s.waitSets := rfl
@[simp] theorem State.writePhys_timers : (s.writePhys a b).timers = s.timers := rfl
@[simp] theorem State.writePhys_copies : (s.writePhys a b).copies = s.copies := rfl
@[simp] theorem State.writePhys_late : (s.writePhys a b).late = s.late := rfl
@[simp] theorem State.writePhys_tensors : (s.writePhys a b).tensors = s.tensors := rfl
@[simp] theorem State.writePhys_tiles : (s.writePhys a b).tiles = s.tiles := rfl
@[simp] theorem State.writePhys_censuses : (s.writePhys a b).censuses = s.censuses := rfl
@[simp] theorem State.writePhys_responders : (s.writePhys a b).responders = s.responders := rfl
@[simp] theorem State.writePhys_latch : (s.writePhys a b).latch = s.latch := rfl
@[simp] theorem State.writePhys_jointOps : (s.writePhys a b).jointOps = s.jointOps := rfl
@[simp] theorem State.writePhys_products : (s.writePhys a b).products = s.products := rfl
@[simp] theorem State.writePhys_owners : (s.writePhys a b).owners = s.owners := rfl
@[simp] theorem State.writePhys_lent : (s.writePhys a b).lent = s.lent := rfl
@[simp] theorem State.writePhys_holds : (s.writePhys a b).holds = s.holds := rfl
@[simp] theorem State.writePhys_tlb : (s.writePhys a b).tlb = s.tlb := rfl
@[simp] theorem State.writePhys_wcb : (s.writePhys a b).wcb = s.wcb := rfl
@[simp] theorem State.writePhys_invals : (s.writePhys a b).invals = s.invals := rfl
@[simp] theorem State.writePhys_banks : (s.writePhys a b).banks = s.banks := rfl
@[simp] theorem State.writePhys_gated : (s.writePhys a b).gated = s.gated := rfl
@[simp] theorem State.writePhys_rimPorts : (s.writePhys a b).rimPorts = s.rimPorts := rfl
@[simp] theorem State.writePhys_rimReqs : (s.writePhys a b).rimReqs = s.rimReqs := rfl
@[simp] theorem State.writePhys_packets : (s.writePhys a b).packets = s.packets := rfl
@[simp] theorem State.writePhys_buckets : (s.writePhys a b).buckets = s.buckets := rfl
@[simp] theorem State.writePhys_parts : (s.writePhys a b).parts = s.parts := rfl
@[simp] theorem State.writePhys_funcs : (s.writePhys a b).funcs = s.funcs := rfl
@[simp] theorem State.writePhys_svcCores : (s.writePhys a b).svcCores = s.svcCores := rfl
@[simp] theorem State.writePhys_trainings : (s.writePhys a b).trainings = s.trainings := rfl
@[simp] theorem State.writePhys_devs : (s.writePhys a b).devs = s.devs := rfl
@[simp] theorem State.writePhys_podW : (s.writePhys a b).podW = s.podW := rfl
@[simp] theorem State.writePhys_podH : (s.writePhys a b).podH = s.podH := rfl
@[simp] theorem State.writePhys_stores : (s.writePhys a b).stores = s.stores := rfl
@[simp] theorem State.writePhys_nextUid : (s.writePhys a b).nextUid = s.nextUid := rfl
@[simp] theorem State.writePhys_free : (s.writePhys a b).free = s.free := rfl
@[simp] theorem State.writePhys_word : (s.writePhys a b).word = s.word := rfl
@[simp] theorem State.writePhys_issueSeq : (s.writePhys a b).issueSeq = s.issueSeq := rfl
@[simp] theorem State.writePhys_issuePorts : (s.writePhys a b).issuePorts = s.issuePorts := rfl
@[simp] theorem State.writePhys_turn : (s.writePhys a b).turn = s.turn := rfl
@[simp] theorem State.writePhys_inputs : (s.writePhys a b).inputs = s.inputs := rfl
end writePhys

section freeHandle
variable (s : State) (k o : Nat)

@[simp] theorem State.freeHandle_cw : (s.freeHandle k o).cw = s.cw := rfl
@[simp] theorem State.freeHandle_cp : (s.freeHandle k o).cp = s.cp := rfl
@[simp] theorem State.freeHandle_waves : (s.freeHandle k o).waves = s.waves := rfl
@[simp] theorem State.freeHandle_teams : (s.freeHandle k o).teams = s.teams := rfl
@[simp] theorem State.freeHandle_clusters : (s.freeHandle k o).clusters = s.clusters := rfl
@[simp] theorem State.freeHandle_launches : (s.freeHandle k o).launches = s.launches := rfl
@[simp] theorem State.freeHandle_ctxs : (s.freeHandle k o).ctxs = s.ctxs := rfl
@[simp] theorem State.freeHandle_ports : (s.freeHandle k o).ports = s.ports := rfl
@[simp] theorem State.freeHandle_remotes : (s.freeHandle k o).remotes = s.remotes := rfl
@[simp] theorem State.freeHandle_waitSets : (s.freeHandle k o).waitSets = s.waitSets := rfl
@[simp] theorem State.freeHandle_timers : (s.freeHandle k o).timers = s.timers := rfl
@[simp] theorem State.freeHandle_watches : (s.freeHandle k o).watches = s.watches := rfl
@[simp] theorem State.freeHandle_copies : (s.freeHandle k o).copies = s.copies := rfl
@[simp] theorem State.freeHandle_late : (s.freeHandle k o).late = s.late := rfl
@[simp] theorem State.freeHandle_tensors : (s.freeHandle k o).tensors = s.tensors := rfl
@[simp] theorem State.freeHandle_tiles : (s.freeHandle k o).tiles = s.tiles := rfl
@[simp] theorem State.freeHandle_censuses : (s.freeHandle k o).censuses = s.censuses := rfl
@[simp] theorem State.freeHandle_responders : (s.freeHandle k o).responders = s.responders := rfl
@[simp] theorem State.freeHandle_latch : (s.freeHandle k o).latch = s.latch := rfl
@[simp] theorem State.freeHandle_jointOps : (s.freeHandle k o).jointOps = s.jointOps := rfl
@[simp] theorem State.freeHandle_products : (s.freeHandle k o).products = s.products := rfl
@[simp] theorem State.freeHandle_mem : (s.freeHandle k o).mem = s.mem := rfl
@[simp] theorem State.freeHandle_owners : (s.freeHandle k o).owners = s.owners := rfl
@[simp] theorem State.freeHandle_lent : (s.freeHandle k o).lent = s.lent := rfl
@[simp] theorem State.freeHandle_holds : (s.freeHandle k o).holds = s.holds := rfl
@[simp] theorem State.freeHandle_tlb : (s.freeHandle k o).tlb = s.tlb := rfl
@[simp] theorem State.freeHandle_wcb : (s.freeHandle k o).wcb = s.wcb := rfl
@[simp] theorem State.freeHandle_invals : (s.freeHandle k o).invals = s.invals := rfl
@[simp] theorem State.freeHandle_banks : (s.freeHandle k o).banks = s.banks := rfl
@[simp] theorem State.freeHandle_gated : (s.freeHandle k o).gated = s.gated := rfl
@[simp] theorem State.freeHandle_rimPorts : (s.freeHandle k o).rimPorts = s.rimPorts := rfl
@[simp] theorem State.freeHandle_rimReqs : (s.freeHandle k o).rimReqs = s.rimReqs := rfl
@[simp] theorem State.freeHandle_packets : (s.freeHandle k o).packets = s.packets := rfl
@[simp] theorem State.freeHandle_buckets : (s.freeHandle k o).buckets = s.buckets := rfl
@[simp] theorem State.freeHandle_parts : (s.freeHandle k o).parts = s.parts := rfl
@[simp] theorem State.freeHandle_funcs : (s.freeHandle k o).funcs = s.funcs := rfl
@[simp] theorem State.freeHandle_svcCores : (s.freeHandle k o).svcCores = s.svcCores := rfl
@[simp] theorem State.freeHandle_trainings : (s.freeHandle k o).trainings = s.trainings := rfl
@[simp] theorem State.freeHandle_devs : (s.freeHandle k o).devs = s.devs := rfl
@[simp] theorem State.freeHandle_podW : (s.freeHandle k o).podW = s.podW := rfl
@[simp] theorem State.freeHandle_podH : (s.freeHandle k o).podH = s.podH := rfl
@[simp] theorem State.freeHandle_poison : (s.freeHandle k o).poison = s.poison := rfl
@[simp] theorem State.freeHandle_stores : (s.freeHandle k o).stores = s.stores := rfl
@[simp] theorem State.freeHandle_nextUid : (s.freeHandle k o).nextUid = s.nextUid := rfl
@[simp] theorem State.freeHandle_free : (s.freeHandle k o).free = s.free := rfl
@[simp] theorem State.freeHandle_word : (s.freeHandle k o).word = s.word := rfl
@[simp] theorem State.freeHandle_issueSeq : (s.freeHandle k o).issueSeq = s.issueSeq := rfl
@[simp] theorem State.freeHandle_issuePorts : (s.freeHandle k o).issuePorts = s.issuePorts := rfl
@[simp] theorem State.freeHandle_turn : (s.freeHandle k o).turn = s.turn := rfl
@[simp] theorem State.freeHandle_inputs : (s.freeHandle k o).inputs = s.inputs := rfl
end freeHandle

section dropSource
variable (s : State) (k o : Nat)

@[simp] theorem State.dropSource_cw : (s.dropSource k o).cw = s.cw := rfl
@[simp] theorem State.dropSource_cp : (s.dropSource k o).cp = s.cp := rfl
@[simp] theorem State.dropSource_waves : (s.dropSource k o).waves = s.waves := rfl
@[simp] theorem State.dropSource_teams : (s.dropSource k o).teams = s.teams := rfl
@[simp] theorem State.dropSource_clusters : (s.dropSource k o).clusters = s.clusters := rfl
@[simp] theorem State.dropSource_launches : (s.dropSource k o).launches = s.launches := rfl
@[simp] theorem State.dropSource_ctxs : (s.dropSource k o).ctxs = s.ctxs := rfl
@[simp] theorem State.dropSource_handles : (s.dropSource k o).handles = s.handles := rfl
@[simp] theorem State.dropSource_ports : (s.dropSource k o).ports = s.ports := rfl
@[simp] theorem State.dropSource_remotes : (s.dropSource k o).remotes = s.remotes := rfl
@[simp] theorem State.dropSource_timers : (s.dropSource k o).timers = s.timers := rfl
@[simp] theorem State.dropSource_watches : (s.dropSource k o).watches = s.watches := rfl
@[simp] theorem State.dropSource_copies : (s.dropSource k o).copies = s.copies := rfl
@[simp] theorem State.dropSource_late : (s.dropSource k o).late = s.late := rfl
@[simp] theorem State.dropSource_tensors : (s.dropSource k o).tensors = s.tensors := rfl
@[simp] theorem State.dropSource_tiles : (s.dropSource k o).tiles = s.tiles := rfl
@[simp] theorem State.dropSource_censuses : (s.dropSource k o).censuses = s.censuses := rfl
@[simp] theorem State.dropSource_responders : (s.dropSource k o).responders = s.responders := rfl
@[simp] theorem State.dropSource_latch : (s.dropSource k o).latch = s.latch := rfl
@[simp] theorem State.dropSource_jointOps : (s.dropSource k o).jointOps = s.jointOps := rfl
@[simp] theorem State.dropSource_products : (s.dropSource k o).products = s.products := rfl
@[simp] theorem State.dropSource_mem : (s.dropSource k o).mem = s.mem := rfl
@[simp] theorem State.dropSource_owners : (s.dropSource k o).owners = s.owners := rfl
@[simp] theorem State.dropSource_lent : (s.dropSource k o).lent = s.lent := rfl
@[simp] theorem State.dropSource_holds : (s.dropSource k o).holds = s.holds := rfl
@[simp] theorem State.dropSource_tlb : (s.dropSource k o).tlb = s.tlb := rfl
@[simp] theorem State.dropSource_wcb : (s.dropSource k o).wcb = s.wcb := rfl
@[simp] theorem State.dropSource_invals : (s.dropSource k o).invals = s.invals := rfl
@[simp] theorem State.dropSource_banks : (s.dropSource k o).banks = s.banks := rfl
@[simp] theorem State.dropSource_gated : (s.dropSource k o).gated = s.gated := rfl
@[simp] theorem State.dropSource_rimPorts : (s.dropSource k o).rimPorts = s.rimPorts := rfl
@[simp] theorem State.dropSource_rimReqs : (s.dropSource k o).rimReqs = s.rimReqs := rfl
@[simp] theorem State.dropSource_packets : (s.dropSource k o).packets = s.packets := rfl
@[simp] theorem State.dropSource_buckets : (s.dropSource k o).buckets = s.buckets := rfl
@[simp] theorem State.dropSource_parts : (s.dropSource k o).parts = s.parts := rfl
@[simp] theorem State.dropSource_funcs : (s.dropSource k o).funcs = s.funcs := rfl
@[simp] theorem State.dropSource_svcCores : (s.dropSource k o).svcCores = s.svcCores := rfl
@[simp] theorem State.dropSource_trainings : (s.dropSource k o).trainings = s.trainings := rfl
@[simp] theorem State.dropSource_devs : (s.dropSource k o).devs = s.devs := rfl
@[simp] theorem State.dropSource_podW : (s.dropSource k o).podW = s.podW := rfl
@[simp] theorem State.dropSource_podH : (s.dropSource k o).podH = s.podH := rfl
@[simp] theorem State.dropSource_poison : (s.dropSource k o).poison = s.poison := rfl
@[simp] theorem State.dropSource_stores : (s.dropSource k o).stores = s.stores := rfl
@[simp] theorem State.dropSource_nextUid : (s.dropSource k o).nextUid = s.nextUid := rfl
@[simp] theorem State.dropSource_free : (s.dropSource k o).free = s.free := rfl
@[simp] theorem State.dropSource_word : (s.dropSource k o).word = s.word := rfl
@[simp] theorem State.dropSource_issueSeq : (s.dropSource k o).issueSeq = s.issueSeq := rfl
@[simp] theorem State.dropSource_issuePorts : (s.dropSource k o).issuePorts = s.issuePorts := rfl
@[simp] theorem State.dropSource_turn : (s.dropSource k o).turn = s.turn := rfl
@[simp] theorem State.dropSource_inputs : (s.dropSource k o).inputs = s.inputs := rfl
end dropSource

section dropHolds
variable (s : State) (u : Nat)

@[simp] theorem State.dropHolds_cw : (s.dropHolds u).cw = s.cw := rfl
@[simp] theorem State.dropHolds_cp : (s.dropHolds u).cp = s.cp := rfl
@[simp] theorem State.dropHolds_waves : (s.dropHolds u).waves = s.waves := rfl
@[simp] theorem State.dropHolds_teams : (s.dropHolds u).teams = s.teams := rfl
@[simp] theorem State.dropHolds_clusters : (s.dropHolds u).clusters = s.clusters := rfl
@[simp] theorem State.dropHolds_launches : (s.dropHolds u).launches = s.launches := rfl
@[simp] theorem State.dropHolds_ctxs : (s.dropHolds u).ctxs = s.ctxs := rfl
@[simp] theorem State.dropHolds_handles : (s.dropHolds u).handles = s.handles := rfl
@[simp] theorem State.dropHolds_ports : (s.dropHolds u).ports = s.ports := rfl
@[simp] theorem State.dropHolds_remotes : (s.dropHolds u).remotes = s.remotes := rfl
@[simp] theorem State.dropHolds_waitSets : (s.dropHolds u).waitSets = s.waitSets := rfl
@[simp] theorem State.dropHolds_timers : (s.dropHolds u).timers = s.timers := rfl
@[simp] theorem State.dropHolds_watches : (s.dropHolds u).watches = s.watches := rfl
@[simp] theorem State.dropHolds_copies : (s.dropHolds u).copies = s.copies := rfl
@[simp] theorem State.dropHolds_late : (s.dropHolds u).late = s.late := rfl
@[simp] theorem State.dropHolds_tensors : (s.dropHolds u).tensors = s.tensors := rfl
@[simp] theorem State.dropHolds_tiles : (s.dropHolds u).tiles = s.tiles := rfl
@[simp] theorem State.dropHolds_censuses : (s.dropHolds u).censuses = s.censuses := rfl
@[simp] theorem State.dropHolds_responders : (s.dropHolds u).responders = s.responders := rfl
@[simp] theorem State.dropHolds_latch : (s.dropHolds u).latch = s.latch := rfl
@[simp] theorem State.dropHolds_jointOps : (s.dropHolds u).jointOps = s.jointOps := rfl
@[simp] theorem State.dropHolds_products : (s.dropHolds u).products = s.products := rfl
@[simp] theorem State.dropHolds_mem : (s.dropHolds u).mem = s.mem := rfl
@[simp] theorem State.dropHolds_owners : (s.dropHolds u).owners = s.owners := rfl
@[simp] theorem State.dropHolds_lent : (s.dropHolds u).lent = s.lent := rfl
@[simp] theorem State.dropHolds_tlb : (s.dropHolds u).tlb = s.tlb := rfl
@[simp] theorem State.dropHolds_wcb : (s.dropHolds u).wcb = s.wcb := rfl
@[simp] theorem State.dropHolds_invals : (s.dropHolds u).invals = s.invals := rfl
@[simp] theorem State.dropHolds_banks : (s.dropHolds u).banks = s.banks := rfl
@[simp] theorem State.dropHolds_gated : (s.dropHolds u).gated = s.gated := rfl
@[simp] theorem State.dropHolds_rimPorts : (s.dropHolds u).rimPorts = s.rimPorts := rfl
@[simp] theorem State.dropHolds_rimReqs : (s.dropHolds u).rimReqs = s.rimReqs := rfl
@[simp] theorem State.dropHolds_packets : (s.dropHolds u).packets = s.packets := rfl
@[simp] theorem State.dropHolds_buckets : (s.dropHolds u).buckets = s.buckets := rfl
@[simp] theorem State.dropHolds_parts : (s.dropHolds u).parts = s.parts := rfl
@[simp] theorem State.dropHolds_funcs : (s.dropHolds u).funcs = s.funcs := rfl
@[simp] theorem State.dropHolds_svcCores : (s.dropHolds u).svcCores = s.svcCores := rfl
@[simp] theorem State.dropHolds_trainings : (s.dropHolds u).trainings = s.trainings := rfl
@[simp] theorem State.dropHolds_devs : (s.dropHolds u).devs = s.devs := rfl
@[simp] theorem State.dropHolds_podW : (s.dropHolds u).podW = s.podW := rfl
@[simp] theorem State.dropHolds_podH : (s.dropHolds u).podH = s.podH := rfl
@[simp] theorem State.dropHolds_poison : (s.dropHolds u).poison = s.poison := rfl
@[simp] theorem State.dropHolds_stores : (s.dropHolds u).stores = s.stores := rfl
@[simp] theorem State.dropHolds_nextUid : (s.dropHolds u).nextUid = s.nextUid := rfl
@[simp] theorem State.dropHolds_free : (s.dropHolds u).free = s.free := rfl
@[simp] theorem State.dropHolds_word : (s.dropHolds u).word = s.word := rfl
@[simp] theorem State.dropHolds_issueSeq : (s.dropHolds u).issueSeq = s.issueSeq := rfl
@[simp] theorem State.dropHolds_issuePorts : (s.dropHolds u).issuePorts = s.issuePorts := rfl
@[simp] theorem State.dropHolds_turn : (s.dropHolds u).turn = s.turn := rfl
@[simp] theorem State.dropHolds_inputs : (s.dropHolds u).inputs = s.inputs := rfl
end dropHolds

section abortCensus
variable (s : State) (u : Nat)

@[simp] theorem State.abortCensus_cw : (s.abortCensus u).cw = s.cw := rfl
@[simp] theorem State.abortCensus_cp : (s.abortCensus u).cp = s.cp := rfl
@[simp] theorem State.abortCensus_waves : (s.abortCensus u).waves = s.waves := rfl
@[simp] theorem State.abortCensus_teams : (s.abortCensus u).teams = s.teams := rfl
@[simp] theorem State.abortCensus_clusters : (s.abortCensus u).clusters = s.clusters := rfl
@[simp] theorem State.abortCensus_launches : (s.abortCensus u).launches = s.launches := rfl
@[simp] theorem State.abortCensus_ctxs : (s.abortCensus u).ctxs = s.ctxs := rfl
@[simp] theorem State.abortCensus_handles : (s.abortCensus u).handles = s.handles := rfl
@[simp] theorem State.abortCensus_ports : (s.abortCensus u).ports = s.ports := rfl
@[simp] theorem State.abortCensus_remotes : (s.abortCensus u).remotes = s.remotes := rfl
@[simp] theorem State.abortCensus_waitSets : (s.abortCensus u).waitSets = s.waitSets := rfl
@[simp] theorem State.abortCensus_timers : (s.abortCensus u).timers = s.timers := rfl
@[simp] theorem State.abortCensus_watches : (s.abortCensus u).watches = s.watches := rfl
@[simp] theorem State.abortCensus_copies : (s.abortCensus u).copies = s.copies := rfl
@[simp] theorem State.abortCensus_late : (s.abortCensus u).late = s.late := rfl
@[simp] theorem State.abortCensus_tensors : (s.abortCensus u).tensors = s.tensors := rfl
@[simp] theorem State.abortCensus_tiles : (s.abortCensus u).tiles = s.tiles := rfl
@[simp] theorem State.abortCensus_responders : (s.abortCensus u).responders = s.responders := rfl
@[simp] theorem State.abortCensus_latch : (s.abortCensus u).latch = s.latch := rfl
@[simp] theorem State.abortCensus_jointOps : (s.abortCensus u).jointOps = s.jointOps := rfl
@[simp] theorem State.abortCensus_products : (s.abortCensus u).products = s.products := rfl
@[simp] theorem State.abortCensus_mem : (s.abortCensus u).mem = s.mem := rfl
@[simp] theorem State.abortCensus_owners : (s.abortCensus u).owners = s.owners := rfl
@[simp] theorem State.abortCensus_lent : (s.abortCensus u).lent = s.lent := rfl
@[simp] theorem State.abortCensus_holds : (s.abortCensus u).holds = s.holds := rfl
@[simp] theorem State.abortCensus_tlb : (s.abortCensus u).tlb = s.tlb := rfl
@[simp] theorem State.abortCensus_wcb : (s.abortCensus u).wcb = s.wcb := rfl
@[simp] theorem State.abortCensus_invals : (s.abortCensus u).invals = s.invals := rfl
@[simp] theorem State.abortCensus_banks : (s.abortCensus u).banks = s.banks := rfl
@[simp] theorem State.abortCensus_gated : (s.abortCensus u).gated = s.gated := rfl
@[simp] theorem State.abortCensus_rimPorts : (s.abortCensus u).rimPorts = s.rimPorts := rfl
@[simp] theorem State.abortCensus_rimReqs : (s.abortCensus u).rimReqs = s.rimReqs := rfl
@[simp] theorem State.abortCensus_packets : (s.abortCensus u).packets = s.packets := rfl
@[simp] theorem State.abortCensus_buckets : (s.abortCensus u).buckets = s.buckets := rfl
@[simp] theorem State.abortCensus_parts : (s.abortCensus u).parts = s.parts := rfl
@[simp] theorem State.abortCensus_funcs : (s.abortCensus u).funcs = s.funcs := rfl
@[simp] theorem State.abortCensus_svcCores : (s.abortCensus u).svcCores = s.svcCores := rfl
@[simp] theorem State.abortCensus_trainings : (s.abortCensus u).trainings = s.trainings := rfl
@[simp] theorem State.abortCensus_devs : (s.abortCensus u).devs = s.devs := rfl
@[simp] theorem State.abortCensus_podW : (s.abortCensus u).podW = s.podW := rfl
@[simp] theorem State.abortCensus_podH : (s.abortCensus u).podH = s.podH := rfl
@[simp] theorem State.abortCensus_poison : (s.abortCensus u).poison = s.poison := rfl
@[simp] theorem State.abortCensus_stores : (s.abortCensus u).stores = s.stores := rfl
@[simp] theorem State.abortCensus_nextUid : (s.abortCensus u).nextUid = s.nextUid := rfl
@[simp] theorem State.abortCensus_free : (s.abortCensus u).free = s.free := rfl
@[simp] theorem State.abortCensus_word : (s.abortCensus u).word = s.word := rfl
@[simp] theorem State.abortCensus_issueSeq : (s.abortCensus u).issueSeq = s.issueSeq := rfl
@[simp] theorem State.abortCensus_issuePorts : (s.abortCensus u).issuePorts = s.issuePorts := rfl
@[simp] theorem State.abortCensus_turn : (s.abortCensus u).turn = s.turn := rfl
@[simp] theorem State.abortCensus_inputs : (s.abortCensus u).inputs = s.inputs := rfl
end abortCensus

section settleCtx
variable (s : State) (u : Nat)

@[simp] theorem State.settleCtx_cw : (s.settleCtx u).cw = s.cw := rfl
@[simp] theorem State.settleCtx_cp : (s.settleCtx u).cp = s.cp := rfl
@[simp] theorem State.settleCtx_waves : (s.settleCtx u).waves = s.waves := rfl
@[simp] theorem State.settleCtx_teams : (s.settleCtx u).teams = s.teams := rfl
@[simp] theorem State.settleCtx_clusters : (s.settleCtx u).clusters = s.clusters := rfl
@[simp] theorem State.settleCtx_launches : (s.settleCtx u).launches = s.launches := rfl
@[simp] theorem State.settleCtx_handles : (s.settleCtx u).handles = s.handles := rfl
@[simp] theorem State.settleCtx_ports : (s.settleCtx u).ports = s.ports := rfl
@[simp] theorem State.settleCtx_remotes : (s.settleCtx u).remotes = s.remotes := rfl
@[simp] theorem State.settleCtx_waitSets : (s.settleCtx u).waitSets = s.waitSets := rfl
@[simp] theorem State.settleCtx_timers : (s.settleCtx u).timers = s.timers := rfl
@[simp] theorem State.settleCtx_watches : (s.settleCtx u).watches = s.watches := rfl
@[simp] theorem State.settleCtx_copies : (s.settleCtx u).copies = s.copies := rfl
@[simp] theorem State.settleCtx_late : (s.settleCtx u).late = s.late := rfl
@[simp] theorem State.settleCtx_tensors : (s.settleCtx u).tensors = s.tensors := rfl
@[simp] theorem State.settleCtx_tiles : (s.settleCtx u).tiles = s.tiles := rfl
@[simp] theorem State.settleCtx_censuses : (s.settleCtx u).censuses = s.censuses := rfl
@[simp] theorem State.settleCtx_responders : (s.settleCtx u).responders = s.responders := rfl
@[simp] theorem State.settleCtx_latch : (s.settleCtx u).latch = s.latch := rfl
@[simp] theorem State.settleCtx_jointOps : (s.settleCtx u).jointOps = s.jointOps := rfl
@[simp] theorem State.settleCtx_products : (s.settleCtx u).products = s.products := rfl
@[simp] theorem State.settleCtx_mem : (s.settleCtx u).mem = s.mem := rfl
@[simp] theorem State.settleCtx_owners : (s.settleCtx u).owners = s.owners := rfl
@[simp] theorem State.settleCtx_lent : (s.settleCtx u).lent = s.lent := rfl
@[simp] theorem State.settleCtx_holds : (s.settleCtx u).holds = s.holds := rfl
@[simp] theorem State.settleCtx_tlb : (s.settleCtx u).tlb = s.tlb := rfl
@[simp] theorem State.settleCtx_wcb : (s.settleCtx u).wcb = s.wcb := rfl
@[simp] theorem State.settleCtx_invals : (s.settleCtx u).invals = s.invals := rfl
@[simp] theorem State.settleCtx_banks : (s.settleCtx u).banks = s.banks := rfl
@[simp] theorem State.settleCtx_gated : (s.settleCtx u).gated = s.gated := rfl
@[simp] theorem State.settleCtx_rimPorts : (s.settleCtx u).rimPorts = s.rimPorts := rfl
@[simp] theorem State.settleCtx_rimReqs : (s.settleCtx u).rimReqs = s.rimReqs := rfl
@[simp] theorem State.settleCtx_packets : (s.settleCtx u).packets = s.packets := rfl
@[simp] theorem State.settleCtx_buckets : (s.settleCtx u).buckets = s.buckets := rfl
@[simp] theorem State.settleCtx_parts : (s.settleCtx u).parts = s.parts := rfl
@[simp] theorem State.settleCtx_funcs : (s.settleCtx u).funcs = s.funcs := rfl
@[simp] theorem State.settleCtx_svcCores : (s.settleCtx u).svcCores = s.svcCores := rfl
@[simp] theorem State.settleCtx_trainings : (s.settleCtx u).trainings = s.trainings := rfl
@[simp] theorem State.settleCtx_devs : (s.settleCtx u).devs = s.devs := rfl
@[simp] theorem State.settleCtx_podW : (s.settleCtx u).podW = s.podW := rfl
@[simp] theorem State.settleCtx_podH : (s.settleCtx u).podH = s.podH := rfl
@[simp] theorem State.settleCtx_poison : (s.settleCtx u).poison = s.poison := rfl
@[simp] theorem State.settleCtx_stores : (s.settleCtx u).stores = s.stores := rfl
@[simp] theorem State.settleCtx_nextUid : (s.settleCtx u).nextUid = s.nextUid := rfl
@[simp] theorem State.settleCtx_free : (s.settleCtx u).free = s.free := rfl
@[simp] theorem State.settleCtx_word : (s.settleCtx u).word = s.word := rfl
@[simp] theorem State.settleCtx_issueSeq : (s.settleCtx u).issueSeq = s.issueSeq := rfl
@[simp] theorem State.settleCtx_issuePorts : (s.settleCtx u).issuePorts = s.issuePorts := rfl
@[simp] theorem State.settleCtx_turn : (s.settleCtx u).turn = s.turn := rfl
@[simp] theorem State.settleCtx_inputs : (s.settleCtx u).inputs = s.inputs := rfl
end settleCtx

section rest
variable (s : State)

@[simp] theorem State.rest_cw : s.rest.cw = s.cw := rfl
@[simp] theorem State.rest_cp : s.rest.cp = s.cp := rfl
@[simp] theorem State.rest_waves : s.rest.waves = s.waves := rfl
@[simp] theorem State.rest_teams : s.rest.teams = s.teams := rfl
@[simp] theorem State.rest_clusters : s.rest.clusters = s.clusters := rfl
@[simp] theorem State.rest_launches : s.rest.launches = s.launches := rfl
@[simp] theorem State.rest_ctxs : s.rest.ctxs = s.ctxs := rfl
@[simp] theorem State.rest_handles : s.rest.handles = s.handles := rfl
@[simp] theorem State.rest_ports : s.rest.ports = s.ports := rfl
@[simp] theorem State.rest_remotes : s.rest.remotes = s.remotes := rfl
@[simp] theorem State.rest_waitSets : s.rest.waitSets = s.waitSets := rfl
@[simp] theorem State.rest_timers : s.rest.timers = s.timers := rfl
@[simp] theorem State.rest_watches : s.rest.watches = s.watches := rfl
@[simp] theorem State.rest_copies : s.rest.copies = s.copies := rfl
@[simp] theorem State.rest_late : s.rest.late = s.late := rfl
@[simp] theorem State.rest_tensors : s.rest.tensors = s.tensors := rfl
@[simp] theorem State.rest_tiles : s.rest.tiles = s.tiles := rfl
@[simp] theorem State.rest_censuses : s.rest.censuses = s.censuses := rfl
@[simp] theorem State.rest_responders : s.rest.responders = s.responders := rfl
@[simp] theorem State.rest_latch : s.rest.latch = s.latch := rfl
@[simp] theorem State.rest_jointOps : s.rest.jointOps = s.jointOps := rfl
@[simp] theorem State.rest_products : s.rest.products = s.products := rfl
@[simp] theorem State.rest_mem : s.rest.mem = s.mem := rfl
@[simp] theorem State.rest_owners : s.rest.owners = s.owners := rfl
@[simp] theorem State.rest_lent : s.rest.lent = s.lent := rfl
@[simp] theorem State.rest_holds : s.rest.holds = s.holds := rfl
@[simp] theorem State.rest_tlb : s.rest.tlb = s.tlb := rfl
@[simp] theorem State.rest_wcb : s.rest.wcb = s.wcb := rfl
@[simp] theorem State.rest_invals : s.rest.invals = s.invals := rfl
@[simp] theorem State.rest_banks : s.rest.banks = s.banks := rfl
@[simp] theorem State.rest_gated : s.rest.gated = s.gated := rfl
@[simp] theorem State.rest_rimPorts : s.rest.rimPorts = s.rimPorts := rfl
@[simp] theorem State.rest_rimReqs : s.rest.rimReqs = s.rimReqs := rfl
@[simp] theorem State.rest_packets : s.rest.packets = s.packets := rfl
@[simp] theorem State.rest_buckets : s.rest.buckets = s.buckets := rfl
@[simp] theorem State.rest_parts : s.rest.parts = s.parts := rfl
@[simp] theorem State.rest_funcs : s.rest.funcs = s.funcs := rfl
@[simp] theorem State.rest_svcCores : s.rest.svcCores = s.svcCores := rfl
@[simp] theorem State.rest_trainings : s.rest.trainings = s.trainings := rfl
@[simp] theorem State.rest_devs : s.rest.devs = s.devs := rfl
@[simp] theorem State.rest_podW : s.rest.podW = s.podW := rfl
@[simp] theorem State.rest_podH : s.rest.podH = s.podH := rfl
@[simp] theorem State.rest_poison : s.rest.poison = s.poison := rfl
@[simp] theorem State.rest_stores : s.rest.stores = s.stores := rfl
@[simp] theorem State.rest_nextUid : s.rest.nextUid = s.nextUid := rfl
@[simp] theorem State.rest_free : s.rest.free = s.free := rfl
@[simp] theorem State.rest_word : s.rest.word = s.word := rfl
@[simp] theorem State.rest_issueSeq : s.rest.issueSeq = s.issueSeq := rfl
@[simp] theorem State.rest_issuePorts : s.rest.issuePorts = s.issuePorts := rfl
@[simp] theorem State.rest_inputs : s.rest.inputs = s.inputs := rfl
end rest

section updTeam
variable (s : State) (u : Nat) (f : Team → Team)

@[simp] theorem State.updTeam_cw : (s.updTeam u f).cw = s.cw := rfl
@[simp] theorem State.updTeam_cp : (s.updTeam u f).cp = s.cp := rfl
@[simp] theorem State.updTeam_waves : (s.updTeam u f).waves = s.waves := rfl
@[simp] theorem State.updTeam_clusters : (s.updTeam u f).clusters = s.clusters := rfl
@[simp] theorem State.updTeam_launches : (s.updTeam u f).launches = s.launches := rfl
@[simp] theorem State.updTeam_ctxs : (s.updTeam u f).ctxs = s.ctxs := rfl
@[simp] theorem State.updTeam_handles : (s.updTeam u f).handles = s.handles := rfl
@[simp] theorem State.updTeam_ports : (s.updTeam u f).ports = s.ports := rfl
@[simp] theorem State.updTeam_remotes : (s.updTeam u f).remotes = s.remotes := rfl
@[simp] theorem State.updTeam_waitSets : (s.updTeam u f).waitSets = s.waitSets := rfl
@[simp] theorem State.updTeam_timers : (s.updTeam u f).timers = s.timers := rfl
@[simp] theorem State.updTeam_watches : (s.updTeam u f).watches = s.watches := rfl
@[simp] theorem State.updTeam_copies : (s.updTeam u f).copies = s.copies := rfl
@[simp] theorem State.updTeam_late : (s.updTeam u f).late = s.late := rfl
@[simp] theorem State.updTeam_tensors : (s.updTeam u f).tensors = s.tensors := rfl
@[simp] theorem State.updTeam_tiles : (s.updTeam u f).tiles = s.tiles := rfl
@[simp] theorem State.updTeam_censuses : (s.updTeam u f).censuses = s.censuses := rfl
@[simp] theorem State.updTeam_responders : (s.updTeam u f).responders = s.responders := rfl
@[simp] theorem State.updTeam_latch : (s.updTeam u f).latch = s.latch := rfl
@[simp] theorem State.updTeam_jointOps : (s.updTeam u f).jointOps = s.jointOps := rfl
@[simp] theorem State.updTeam_products : (s.updTeam u f).products = s.products := rfl
@[simp] theorem State.updTeam_mem : (s.updTeam u f).mem = s.mem := rfl
@[simp] theorem State.updTeam_owners : (s.updTeam u f).owners = s.owners := rfl
@[simp] theorem State.updTeam_lent : (s.updTeam u f).lent = s.lent := rfl
@[simp] theorem State.updTeam_holds : (s.updTeam u f).holds = s.holds := rfl
@[simp] theorem State.updTeam_tlb : (s.updTeam u f).tlb = s.tlb := rfl
@[simp] theorem State.updTeam_wcb : (s.updTeam u f).wcb = s.wcb := rfl
@[simp] theorem State.updTeam_invals : (s.updTeam u f).invals = s.invals := rfl
@[simp] theorem State.updTeam_banks : (s.updTeam u f).banks = s.banks := rfl
@[simp] theorem State.updTeam_gated : (s.updTeam u f).gated = s.gated := rfl
@[simp] theorem State.updTeam_rimPorts : (s.updTeam u f).rimPorts = s.rimPorts := rfl
@[simp] theorem State.updTeam_rimReqs : (s.updTeam u f).rimReqs = s.rimReqs := rfl
@[simp] theorem State.updTeam_packets : (s.updTeam u f).packets = s.packets := rfl
@[simp] theorem State.updTeam_buckets : (s.updTeam u f).buckets = s.buckets := rfl
@[simp] theorem State.updTeam_parts : (s.updTeam u f).parts = s.parts := rfl
@[simp] theorem State.updTeam_funcs : (s.updTeam u f).funcs = s.funcs := rfl
@[simp] theorem State.updTeam_svcCores : (s.updTeam u f).svcCores = s.svcCores := rfl
@[simp] theorem State.updTeam_trainings : (s.updTeam u f).trainings = s.trainings := rfl
@[simp] theorem State.updTeam_devs : (s.updTeam u f).devs = s.devs := rfl
@[simp] theorem State.updTeam_podW : (s.updTeam u f).podW = s.podW := rfl
@[simp] theorem State.updTeam_podH : (s.updTeam u f).podH = s.podH := rfl
@[simp] theorem State.updTeam_poison : (s.updTeam u f).poison = s.poison := rfl
@[simp] theorem State.updTeam_stores : (s.updTeam u f).stores = s.stores := rfl
@[simp] theorem State.updTeam_nextUid : (s.updTeam u f).nextUid = s.nextUid := rfl
@[simp] theorem State.updTeam_free : (s.updTeam u f).free = s.free := rfl
@[simp] theorem State.updTeam_word : (s.updTeam u f).word = s.word := rfl
@[simp] theorem State.updTeam_issueSeq : (s.updTeam u f).issueSeq = s.issueSeq := rfl
@[simp] theorem State.updTeam_issuePorts : (s.updTeam u f).issuePorts = s.issuePorts := rfl
@[simp] theorem State.updTeam_turn : (s.updTeam u f).turn = s.turn := rfl
@[simp] theorem State.updTeam_inputs : (s.updTeam u f).inputs = s.inputs := rfl
end updTeam

section updCluster
variable (s : State) (u : Nat) (f : Cluster → Cluster)

@[simp] theorem State.updCluster_cw : (s.updCluster u f).cw = s.cw := rfl
@[simp] theorem State.updCluster_cp : (s.updCluster u f).cp = s.cp := rfl
@[simp] theorem State.updCluster_waves : (s.updCluster u f).waves = s.waves := rfl
@[simp] theorem State.updCluster_teams : (s.updCluster u f).teams = s.teams := rfl
@[simp] theorem State.updCluster_launches : (s.updCluster u f).launches = s.launches := rfl
@[simp] theorem State.updCluster_ctxs : (s.updCluster u f).ctxs = s.ctxs := rfl
@[simp] theorem State.updCluster_handles : (s.updCluster u f).handles = s.handles := rfl
@[simp] theorem State.updCluster_ports : (s.updCluster u f).ports = s.ports := rfl
@[simp] theorem State.updCluster_remotes : (s.updCluster u f).remotes = s.remotes := rfl
@[simp] theorem State.updCluster_waitSets : (s.updCluster u f).waitSets = s.waitSets := rfl
@[simp] theorem State.updCluster_timers : (s.updCluster u f).timers = s.timers := rfl
@[simp] theorem State.updCluster_watches : (s.updCluster u f).watches = s.watches := rfl
@[simp] theorem State.updCluster_copies : (s.updCluster u f).copies = s.copies := rfl
@[simp] theorem State.updCluster_late : (s.updCluster u f).late = s.late := rfl
@[simp] theorem State.updCluster_tensors : (s.updCluster u f).tensors = s.tensors := rfl
@[simp] theorem State.updCluster_tiles : (s.updCluster u f).tiles = s.tiles := rfl
@[simp] theorem State.updCluster_censuses : (s.updCluster u f).censuses = s.censuses := rfl
@[simp] theorem State.updCluster_responders : (s.updCluster u f).responders = s.responders := rfl
@[simp] theorem State.updCluster_latch : (s.updCluster u f).latch = s.latch := rfl
@[simp] theorem State.updCluster_jointOps : (s.updCluster u f).jointOps = s.jointOps := rfl
@[simp] theorem State.updCluster_products : (s.updCluster u f).products = s.products := rfl
@[simp] theorem State.updCluster_mem : (s.updCluster u f).mem = s.mem := rfl
@[simp] theorem State.updCluster_owners : (s.updCluster u f).owners = s.owners := rfl
@[simp] theorem State.updCluster_lent : (s.updCluster u f).lent = s.lent := rfl
@[simp] theorem State.updCluster_holds : (s.updCluster u f).holds = s.holds := rfl
@[simp] theorem State.updCluster_tlb : (s.updCluster u f).tlb = s.tlb := rfl
@[simp] theorem State.updCluster_wcb : (s.updCluster u f).wcb = s.wcb := rfl
@[simp] theorem State.updCluster_invals : (s.updCluster u f).invals = s.invals := rfl
@[simp] theorem State.updCluster_banks : (s.updCluster u f).banks = s.banks := rfl
@[simp] theorem State.updCluster_gated : (s.updCluster u f).gated = s.gated := rfl
@[simp] theorem State.updCluster_rimPorts : (s.updCluster u f).rimPorts = s.rimPorts := rfl
@[simp] theorem State.updCluster_rimReqs : (s.updCluster u f).rimReqs = s.rimReqs := rfl
@[simp] theorem State.updCluster_packets : (s.updCluster u f).packets = s.packets := rfl
@[simp] theorem State.updCluster_buckets : (s.updCluster u f).buckets = s.buckets := rfl
@[simp] theorem State.updCluster_parts : (s.updCluster u f).parts = s.parts := rfl
@[simp] theorem State.updCluster_funcs : (s.updCluster u f).funcs = s.funcs := rfl
@[simp] theorem State.updCluster_svcCores : (s.updCluster u f).svcCores = s.svcCores := rfl
@[simp] theorem State.updCluster_trainings : (s.updCluster u f).trainings = s.trainings := rfl
@[simp] theorem State.updCluster_devs : (s.updCluster u f).devs = s.devs := rfl
@[simp] theorem State.updCluster_podW : (s.updCluster u f).podW = s.podW := rfl
@[simp] theorem State.updCluster_podH : (s.updCluster u f).podH = s.podH := rfl
@[simp] theorem State.updCluster_poison : (s.updCluster u f).poison = s.poison := rfl
@[simp] theorem State.updCluster_stores : (s.updCluster u f).stores = s.stores := rfl
@[simp] theorem State.updCluster_nextUid : (s.updCluster u f).nextUid = s.nextUid := rfl
@[simp] theorem State.updCluster_free : (s.updCluster u f).free = s.free := rfl
@[simp] theorem State.updCluster_word : (s.updCluster u f).word = s.word := rfl
@[simp] theorem State.updCluster_issueSeq : (s.updCluster u f).issueSeq = s.issueSeq := rfl
@[simp] theorem State.updCluster_issuePorts : (s.updCluster u f).issuePorts = s.issuePorts := rfl
@[simp] theorem State.updCluster_turn : (s.updCluster u f).turn = s.turn := rfl
@[simp] theorem State.updCluster_inputs : (s.updCluster u f).inputs = s.inputs := rfl
end updCluster

section updCtx
variable (s : State) (u : Nat) (f : Ctx → Ctx)

@[simp] theorem State.updCtx_cw : (s.updCtx u f).cw = s.cw := rfl
@[simp] theorem State.updCtx_cp : (s.updCtx u f).cp = s.cp := rfl
@[simp] theorem State.updCtx_waves : (s.updCtx u f).waves = s.waves := rfl
@[simp] theorem State.updCtx_teams : (s.updCtx u f).teams = s.teams := rfl
@[simp] theorem State.updCtx_clusters : (s.updCtx u f).clusters = s.clusters := rfl
@[simp] theorem State.updCtx_launches : (s.updCtx u f).launches = s.launches := rfl
@[simp] theorem State.updCtx_handles : (s.updCtx u f).handles = s.handles := rfl
@[simp] theorem State.updCtx_ports : (s.updCtx u f).ports = s.ports := rfl
@[simp] theorem State.updCtx_remotes : (s.updCtx u f).remotes = s.remotes := rfl
@[simp] theorem State.updCtx_waitSets : (s.updCtx u f).waitSets = s.waitSets := rfl
@[simp] theorem State.updCtx_timers : (s.updCtx u f).timers = s.timers := rfl
@[simp] theorem State.updCtx_watches : (s.updCtx u f).watches = s.watches := rfl
@[simp] theorem State.updCtx_copies : (s.updCtx u f).copies = s.copies := rfl
@[simp] theorem State.updCtx_late : (s.updCtx u f).late = s.late := rfl
@[simp] theorem State.updCtx_tensors : (s.updCtx u f).tensors = s.tensors := rfl
@[simp] theorem State.updCtx_tiles : (s.updCtx u f).tiles = s.tiles := rfl
@[simp] theorem State.updCtx_censuses : (s.updCtx u f).censuses = s.censuses := rfl
@[simp] theorem State.updCtx_responders : (s.updCtx u f).responders = s.responders := rfl
@[simp] theorem State.updCtx_latch : (s.updCtx u f).latch = s.latch := rfl
@[simp] theorem State.updCtx_jointOps : (s.updCtx u f).jointOps = s.jointOps := rfl
@[simp] theorem State.updCtx_products : (s.updCtx u f).products = s.products := rfl
@[simp] theorem State.updCtx_mem : (s.updCtx u f).mem = s.mem := rfl
@[simp] theorem State.updCtx_owners : (s.updCtx u f).owners = s.owners := rfl
@[simp] theorem State.updCtx_lent : (s.updCtx u f).lent = s.lent := rfl
@[simp] theorem State.updCtx_holds : (s.updCtx u f).holds = s.holds := rfl
@[simp] theorem State.updCtx_tlb : (s.updCtx u f).tlb = s.tlb := rfl
@[simp] theorem State.updCtx_wcb : (s.updCtx u f).wcb = s.wcb := rfl
@[simp] theorem State.updCtx_invals : (s.updCtx u f).invals = s.invals := rfl
@[simp] theorem State.updCtx_banks : (s.updCtx u f).banks = s.banks := rfl
@[simp] theorem State.updCtx_gated : (s.updCtx u f).gated = s.gated := rfl
@[simp] theorem State.updCtx_rimPorts : (s.updCtx u f).rimPorts = s.rimPorts := rfl
@[simp] theorem State.updCtx_rimReqs : (s.updCtx u f).rimReqs = s.rimReqs := rfl
@[simp] theorem State.updCtx_packets : (s.updCtx u f).packets = s.packets := rfl
@[simp] theorem State.updCtx_buckets : (s.updCtx u f).buckets = s.buckets := rfl
@[simp] theorem State.updCtx_parts : (s.updCtx u f).parts = s.parts := rfl
@[simp] theorem State.updCtx_funcs : (s.updCtx u f).funcs = s.funcs := rfl
@[simp] theorem State.updCtx_svcCores : (s.updCtx u f).svcCores = s.svcCores := rfl
@[simp] theorem State.updCtx_trainings : (s.updCtx u f).trainings = s.trainings := rfl
@[simp] theorem State.updCtx_devs : (s.updCtx u f).devs = s.devs := rfl
@[simp] theorem State.updCtx_podW : (s.updCtx u f).podW = s.podW := rfl
@[simp] theorem State.updCtx_podH : (s.updCtx u f).podH = s.podH := rfl
@[simp] theorem State.updCtx_poison : (s.updCtx u f).poison = s.poison := rfl
@[simp] theorem State.updCtx_stores : (s.updCtx u f).stores = s.stores := rfl
@[simp] theorem State.updCtx_nextUid : (s.updCtx u f).nextUid = s.nextUid := rfl
@[simp] theorem State.updCtx_free : (s.updCtx u f).free = s.free := rfl
@[simp] theorem State.updCtx_word : (s.updCtx u f).word = s.word := rfl
@[simp] theorem State.updCtx_issueSeq : (s.updCtx u f).issueSeq = s.issueSeq := rfl
@[simp] theorem State.updCtx_issuePorts : (s.updCtx u f).issuePorts = s.issuePorts := rfl
@[simp] theorem State.updCtx_turn : (s.updCtx u f).turn = s.turn := rfl
@[simp] theorem State.updCtx_inputs : (s.updCtx u f).inputs = s.inputs := rfl
end updCtx

section updPort
variable (s : State) (u : Nat) (f : Port → Port)

@[simp] theorem State.updPort_cw : (s.updPort u f).cw = s.cw := rfl
@[simp] theorem State.updPort_cp : (s.updPort u f).cp = s.cp := rfl
@[simp] theorem State.updPort_waves : (s.updPort u f).waves = s.waves := rfl
@[simp] theorem State.updPort_teams : (s.updPort u f).teams = s.teams := rfl
@[simp] theorem State.updPort_clusters : (s.updPort u f).clusters = s.clusters := rfl
@[simp] theorem State.updPort_launches : (s.updPort u f).launches = s.launches := rfl
@[simp] theorem State.updPort_ctxs : (s.updPort u f).ctxs = s.ctxs := rfl
@[simp] theorem State.updPort_handles : (s.updPort u f).handles = s.handles := rfl
@[simp] theorem State.updPort_remotes : (s.updPort u f).remotes = s.remotes := rfl
@[simp] theorem State.updPort_waitSets : (s.updPort u f).waitSets = s.waitSets := rfl
@[simp] theorem State.updPort_timers : (s.updPort u f).timers = s.timers := rfl
@[simp] theorem State.updPort_watches : (s.updPort u f).watches = s.watches := rfl
@[simp] theorem State.updPort_copies : (s.updPort u f).copies = s.copies := rfl
@[simp] theorem State.updPort_late : (s.updPort u f).late = s.late := rfl
@[simp] theorem State.updPort_tensors : (s.updPort u f).tensors = s.tensors := rfl
@[simp] theorem State.updPort_tiles : (s.updPort u f).tiles = s.tiles := rfl
@[simp] theorem State.updPort_censuses : (s.updPort u f).censuses = s.censuses := rfl
@[simp] theorem State.updPort_responders : (s.updPort u f).responders = s.responders := rfl
@[simp] theorem State.updPort_latch : (s.updPort u f).latch = s.latch := rfl
@[simp] theorem State.updPort_jointOps : (s.updPort u f).jointOps = s.jointOps := rfl
@[simp] theorem State.updPort_products : (s.updPort u f).products = s.products := rfl
@[simp] theorem State.updPort_mem : (s.updPort u f).mem = s.mem := rfl
@[simp] theorem State.updPort_owners : (s.updPort u f).owners = s.owners := rfl
@[simp] theorem State.updPort_lent : (s.updPort u f).lent = s.lent := rfl
@[simp] theorem State.updPort_holds : (s.updPort u f).holds = s.holds := rfl
@[simp] theorem State.updPort_tlb : (s.updPort u f).tlb = s.tlb := rfl
@[simp] theorem State.updPort_wcb : (s.updPort u f).wcb = s.wcb := rfl
@[simp] theorem State.updPort_invals : (s.updPort u f).invals = s.invals := rfl
@[simp] theorem State.updPort_banks : (s.updPort u f).banks = s.banks := rfl
@[simp] theorem State.updPort_gated : (s.updPort u f).gated = s.gated := rfl
@[simp] theorem State.updPort_rimPorts : (s.updPort u f).rimPorts = s.rimPorts := rfl
@[simp] theorem State.updPort_rimReqs : (s.updPort u f).rimReqs = s.rimReqs := rfl
@[simp] theorem State.updPort_packets : (s.updPort u f).packets = s.packets := rfl
@[simp] theorem State.updPort_buckets : (s.updPort u f).buckets = s.buckets := rfl
@[simp] theorem State.updPort_parts : (s.updPort u f).parts = s.parts := rfl
@[simp] theorem State.updPort_funcs : (s.updPort u f).funcs = s.funcs := rfl
@[simp] theorem State.updPort_svcCores : (s.updPort u f).svcCores = s.svcCores := rfl
@[simp] theorem State.updPort_trainings : (s.updPort u f).trainings = s.trainings := rfl
@[simp] theorem State.updPort_devs : (s.updPort u f).devs = s.devs := rfl
@[simp] theorem State.updPort_podW : (s.updPort u f).podW = s.podW := rfl
@[simp] theorem State.updPort_podH : (s.updPort u f).podH = s.podH := rfl
@[simp] theorem State.updPort_poison : (s.updPort u f).poison = s.poison := rfl
@[simp] theorem State.updPort_stores : (s.updPort u f).stores = s.stores := rfl
@[simp] theorem State.updPort_nextUid : (s.updPort u f).nextUid = s.nextUid := rfl
@[simp] theorem State.updPort_free : (s.updPort u f).free = s.free := rfl
@[simp] theorem State.updPort_word : (s.updPort u f).word = s.word := rfl
@[simp] theorem State.updPort_issueSeq : (s.updPort u f).issueSeq = s.issueSeq := rfl
@[simp] theorem State.updPort_issuePorts : (s.updPort u f).issuePorts = s.issuePorts := rfl
@[simp] theorem State.updPort_turn : (s.updPort u f).turn = s.turn := rfl
@[simp] theorem State.updPort_inputs : (s.updPort u f).inputs = s.inputs := rfl
end updPort

section updRemote
variable (s : State) (u : Nat) (f : Remote → Remote)

@[simp] theorem State.updRemote_cw : (s.updRemote u f).cw = s.cw := rfl
@[simp] theorem State.updRemote_cp : (s.updRemote u f).cp = s.cp := rfl
@[simp] theorem State.updRemote_waves : (s.updRemote u f).waves = s.waves := rfl
@[simp] theorem State.updRemote_teams : (s.updRemote u f).teams = s.teams := rfl
@[simp] theorem State.updRemote_clusters : (s.updRemote u f).clusters = s.clusters := rfl
@[simp] theorem State.updRemote_launches : (s.updRemote u f).launches = s.launches := rfl
@[simp] theorem State.updRemote_ctxs : (s.updRemote u f).ctxs = s.ctxs := rfl
@[simp] theorem State.updRemote_handles : (s.updRemote u f).handles = s.handles := rfl
@[simp] theorem State.updRemote_ports : (s.updRemote u f).ports = s.ports := rfl
@[simp] theorem State.updRemote_waitSets : (s.updRemote u f).waitSets = s.waitSets := rfl
@[simp] theorem State.updRemote_timers : (s.updRemote u f).timers = s.timers := rfl
@[simp] theorem State.updRemote_watches : (s.updRemote u f).watches = s.watches := rfl
@[simp] theorem State.updRemote_copies : (s.updRemote u f).copies = s.copies := rfl
@[simp] theorem State.updRemote_late : (s.updRemote u f).late = s.late := rfl
@[simp] theorem State.updRemote_tensors : (s.updRemote u f).tensors = s.tensors := rfl
@[simp] theorem State.updRemote_tiles : (s.updRemote u f).tiles = s.tiles := rfl
@[simp] theorem State.updRemote_censuses : (s.updRemote u f).censuses = s.censuses := rfl
@[simp] theorem State.updRemote_responders : (s.updRemote u f).responders = s.responders := rfl
@[simp] theorem State.updRemote_latch : (s.updRemote u f).latch = s.latch := rfl
@[simp] theorem State.updRemote_jointOps : (s.updRemote u f).jointOps = s.jointOps := rfl
@[simp] theorem State.updRemote_products : (s.updRemote u f).products = s.products := rfl
@[simp] theorem State.updRemote_mem : (s.updRemote u f).mem = s.mem := rfl
@[simp] theorem State.updRemote_owners : (s.updRemote u f).owners = s.owners := rfl
@[simp] theorem State.updRemote_lent : (s.updRemote u f).lent = s.lent := rfl
@[simp] theorem State.updRemote_holds : (s.updRemote u f).holds = s.holds := rfl
@[simp] theorem State.updRemote_tlb : (s.updRemote u f).tlb = s.tlb := rfl
@[simp] theorem State.updRemote_wcb : (s.updRemote u f).wcb = s.wcb := rfl
@[simp] theorem State.updRemote_invals : (s.updRemote u f).invals = s.invals := rfl
@[simp] theorem State.updRemote_banks : (s.updRemote u f).banks = s.banks := rfl
@[simp] theorem State.updRemote_gated : (s.updRemote u f).gated = s.gated := rfl
@[simp] theorem State.updRemote_rimPorts : (s.updRemote u f).rimPorts = s.rimPorts := rfl
@[simp] theorem State.updRemote_rimReqs : (s.updRemote u f).rimReqs = s.rimReqs := rfl
@[simp] theorem State.updRemote_packets : (s.updRemote u f).packets = s.packets := rfl
@[simp] theorem State.updRemote_buckets : (s.updRemote u f).buckets = s.buckets := rfl
@[simp] theorem State.updRemote_parts : (s.updRemote u f).parts = s.parts := rfl
@[simp] theorem State.updRemote_funcs : (s.updRemote u f).funcs = s.funcs := rfl
@[simp] theorem State.updRemote_svcCores : (s.updRemote u f).svcCores = s.svcCores := rfl
@[simp] theorem State.updRemote_trainings : (s.updRemote u f).trainings = s.trainings := rfl
@[simp] theorem State.updRemote_devs : (s.updRemote u f).devs = s.devs := rfl
@[simp] theorem State.updRemote_podW : (s.updRemote u f).podW = s.podW := rfl
@[simp] theorem State.updRemote_podH : (s.updRemote u f).podH = s.podH := rfl
@[simp] theorem State.updRemote_poison : (s.updRemote u f).poison = s.poison := rfl
@[simp] theorem State.updRemote_stores : (s.updRemote u f).stores = s.stores := rfl
@[simp] theorem State.updRemote_nextUid : (s.updRemote u f).nextUid = s.nextUid := rfl
@[simp] theorem State.updRemote_free : (s.updRemote u f).free = s.free := rfl
@[simp] theorem State.updRemote_word : (s.updRemote u f).word = s.word := rfl
@[simp] theorem State.updRemote_issueSeq : (s.updRemote u f).issueSeq = s.issueSeq := rfl
@[simp] theorem State.updRemote_issuePorts : (s.updRemote u f).issuePorts = s.issuePorts := rfl
@[simp] theorem State.updRemote_turn : (s.updRemote u f).turn = s.turn := rfl
@[simp] theorem State.updRemote_inputs : (s.updRemote u f).inputs = s.inputs := rfl
end updRemote

section updCopy
variable (s : State) (u : Nat) (f : Copy → Copy)

@[simp] theorem State.updCopy_cw : (s.updCopy u f).cw = s.cw := rfl
@[simp] theorem State.updCopy_cp : (s.updCopy u f).cp = s.cp := rfl
@[simp] theorem State.updCopy_waves : (s.updCopy u f).waves = s.waves := rfl
@[simp] theorem State.updCopy_teams : (s.updCopy u f).teams = s.teams := rfl
@[simp] theorem State.updCopy_clusters : (s.updCopy u f).clusters = s.clusters := rfl
@[simp] theorem State.updCopy_launches : (s.updCopy u f).launches = s.launches := rfl
@[simp] theorem State.updCopy_ctxs : (s.updCopy u f).ctxs = s.ctxs := rfl
@[simp] theorem State.updCopy_handles : (s.updCopy u f).handles = s.handles := rfl
@[simp] theorem State.updCopy_ports : (s.updCopy u f).ports = s.ports := rfl
@[simp] theorem State.updCopy_remotes : (s.updCopy u f).remotes = s.remotes := rfl
@[simp] theorem State.updCopy_waitSets : (s.updCopy u f).waitSets = s.waitSets := rfl
@[simp] theorem State.updCopy_timers : (s.updCopy u f).timers = s.timers := rfl
@[simp] theorem State.updCopy_watches : (s.updCopy u f).watches = s.watches := rfl
@[simp] theorem State.updCopy_late : (s.updCopy u f).late = s.late := rfl
@[simp] theorem State.updCopy_tensors : (s.updCopy u f).tensors = s.tensors := rfl
@[simp] theorem State.updCopy_tiles : (s.updCopy u f).tiles = s.tiles := rfl
@[simp] theorem State.updCopy_censuses : (s.updCopy u f).censuses = s.censuses := rfl
@[simp] theorem State.updCopy_responders : (s.updCopy u f).responders = s.responders := rfl
@[simp] theorem State.updCopy_latch : (s.updCopy u f).latch = s.latch := rfl
@[simp] theorem State.updCopy_jointOps : (s.updCopy u f).jointOps = s.jointOps := rfl
@[simp] theorem State.updCopy_products : (s.updCopy u f).products = s.products := rfl
@[simp] theorem State.updCopy_mem : (s.updCopy u f).mem = s.mem := rfl
@[simp] theorem State.updCopy_owners : (s.updCopy u f).owners = s.owners := rfl
@[simp] theorem State.updCopy_lent : (s.updCopy u f).lent = s.lent := rfl
@[simp] theorem State.updCopy_holds : (s.updCopy u f).holds = s.holds := rfl
@[simp] theorem State.updCopy_tlb : (s.updCopy u f).tlb = s.tlb := rfl
@[simp] theorem State.updCopy_wcb : (s.updCopy u f).wcb = s.wcb := rfl
@[simp] theorem State.updCopy_invals : (s.updCopy u f).invals = s.invals := rfl
@[simp] theorem State.updCopy_banks : (s.updCopy u f).banks = s.banks := rfl
@[simp] theorem State.updCopy_gated : (s.updCopy u f).gated = s.gated := rfl
@[simp] theorem State.updCopy_rimPorts : (s.updCopy u f).rimPorts = s.rimPorts := rfl
@[simp] theorem State.updCopy_rimReqs : (s.updCopy u f).rimReqs = s.rimReqs := rfl
@[simp] theorem State.updCopy_packets : (s.updCopy u f).packets = s.packets := rfl
@[simp] theorem State.updCopy_buckets : (s.updCopy u f).buckets = s.buckets := rfl
@[simp] theorem State.updCopy_parts : (s.updCopy u f).parts = s.parts := rfl
@[simp] theorem State.updCopy_funcs : (s.updCopy u f).funcs = s.funcs := rfl
@[simp] theorem State.updCopy_svcCores : (s.updCopy u f).svcCores = s.svcCores := rfl
@[simp] theorem State.updCopy_trainings : (s.updCopy u f).trainings = s.trainings := rfl
@[simp] theorem State.updCopy_devs : (s.updCopy u f).devs = s.devs := rfl
@[simp] theorem State.updCopy_podW : (s.updCopy u f).podW = s.podW := rfl
@[simp] theorem State.updCopy_podH : (s.updCopy u f).podH = s.podH := rfl
@[simp] theorem State.updCopy_poison : (s.updCopy u f).poison = s.poison := rfl
@[simp] theorem State.updCopy_stores : (s.updCopy u f).stores = s.stores := rfl
@[simp] theorem State.updCopy_nextUid : (s.updCopy u f).nextUid = s.nextUid := rfl
@[simp] theorem State.updCopy_free : (s.updCopy u f).free = s.free := rfl
@[simp] theorem State.updCopy_word : (s.updCopy u f).word = s.word := rfl
@[simp] theorem State.updCopy_issueSeq : (s.updCopy u f).issueSeq = s.issueSeq := rfl
@[simp] theorem State.updCopy_issuePorts : (s.updCopy u f).issuePorts = s.issuePorts := rfl
@[simp] theorem State.updCopy_turn : (s.updCopy u f).turn = s.turn := rfl
@[simp] theorem State.updCopy_inputs : (s.updCopy u f).inputs = s.inputs := rfl
end updCopy

section updTensor
variable (s : State) (u : Nat) (f : Tensor → Tensor)

@[simp] theorem State.updTensor_cw : (s.updTensor u f).cw = s.cw := rfl
@[simp] theorem State.updTensor_cp : (s.updTensor u f).cp = s.cp := rfl
@[simp] theorem State.updTensor_waves : (s.updTensor u f).waves = s.waves := rfl
@[simp] theorem State.updTensor_teams : (s.updTensor u f).teams = s.teams := rfl
@[simp] theorem State.updTensor_clusters : (s.updTensor u f).clusters = s.clusters := rfl
@[simp] theorem State.updTensor_launches : (s.updTensor u f).launches = s.launches := rfl
@[simp] theorem State.updTensor_ctxs : (s.updTensor u f).ctxs = s.ctxs := rfl
@[simp] theorem State.updTensor_handles : (s.updTensor u f).handles = s.handles := rfl
@[simp] theorem State.updTensor_ports : (s.updTensor u f).ports = s.ports := rfl
@[simp] theorem State.updTensor_remotes : (s.updTensor u f).remotes = s.remotes := rfl
@[simp] theorem State.updTensor_waitSets : (s.updTensor u f).waitSets = s.waitSets := rfl
@[simp] theorem State.updTensor_timers : (s.updTensor u f).timers = s.timers := rfl
@[simp] theorem State.updTensor_watches : (s.updTensor u f).watches = s.watches := rfl
@[simp] theorem State.updTensor_copies : (s.updTensor u f).copies = s.copies := rfl
@[simp] theorem State.updTensor_late : (s.updTensor u f).late = s.late := rfl
@[simp] theorem State.updTensor_tiles : (s.updTensor u f).tiles = s.tiles := rfl
@[simp] theorem State.updTensor_censuses : (s.updTensor u f).censuses = s.censuses := rfl
@[simp] theorem State.updTensor_responders : (s.updTensor u f).responders = s.responders := rfl
@[simp] theorem State.updTensor_latch : (s.updTensor u f).latch = s.latch := rfl
@[simp] theorem State.updTensor_jointOps : (s.updTensor u f).jointOps = s.jointOps := rfl
@[simp] theorem State.updTensor_products : (s.updTensor u f).products = s.products := rfl
@[simp] theorem State.updTensor_mem : (s.updTensor u f).mem = s.mem := rfl
@[simp] theorem State.updTensor_owners : (s.updTensor u f).owners = s.owners := rfl
@[simp] theorem State.updTensor_lent : (s.updTensor u f).lent = s.lent := rfl
@[simp] theorem State.updTensor_holds : (s.updTensor u f).holds = s.holds := rfl
@[simp] theorem State.updTensor_tlb : (s.updTensor u f).tlb = s.tlb := rfl
@[simp] theorem State.updTensor_wcb : (s.updTensor u f).wcb = s.wcb := rfl
@[simp] theorem State.updTensor_invals : (s.updTensor u f).invals = s.invals := rfl
@[simp] theorem State.updTensor_banks : (s.updTensor u f).banks = s.banks := rfl
@[simp] theorem State.updTensor_gated : (s.updTensor u f).gated = s.gated := rfl
@[simp] theorem State.updTensor_rimPorts : (s.updTensor u f).rimPorts = s.rimPorts := rfl
@[simp] theorem State.updTensor_rimReqs : (s.updTensor u f).rimReqs = s.rimReqs := rfl
@[simp] theorem State.updTensor_packets : (s.updTensor u f).packets = s.packets := rfl
@[simp] theorem State.updTensor_buckets : (s.updTensor u f).buckets = s.buckets := rfl
@[simp] theorem State.updTensor_parts : (s.updTensor u f).parts = s.parts := rfl
@[simp] theorem State.updTensor_funcs : (s.updTensor u f).funcs = s.funcs := rfl
@[simp] theorem State.updTensor_svcCores : (s.updTensor u f).svcCores = s.svcCores := rfl
@[simp] theorem State.updTensor_trainings : (s.updTensor u f).trainings = s.trainings := rfl
@[simp] theorem State.updTensor_devs : (s.updTensor u f).devs = s.devs := rfl
@[simp] theorem State.updTensor_podW : (s.updTensor u f).podW = s.podW := rfl
@[simp] theorem State.updTensor_podH : (s.updTensor u f).podH = s.podH := rfl
@[simp] theorem State.updTensor_poison : (s.updTensor u f).poison = s.poison := rfl
@[simp] theorem State.updTensor_stores : (s.updTensor u f).stores = s.stores := rfl
@[simp] theorem State.updTensor_nextUid : (s.updTensor u f).nextUid = s.nextUid := rfl
@[simp] theorem State.updTensor_free : (s.updTensor u f).free = s.free := rfl
@[simp] theorem State.updTensor_word : (s.updTensor u f).word = s.word := rfl
@[simp] theorem State.updTensor_issueSeq : (s.updTensor u f).issueSeq = s.issueSeq := rfl
@[simp] theorem State.updTensor_issuePorts : (s.updTensor u f).issuePorts = s.issuePorts := rfl
@[simp] theorem State.updTensor_turn : (s.updTensor u f).turn = s.turn := rfl
@[simp] theorem State.updTensor_inputs : (s.updTensor u f).inputs = s.inputs := rfl
end updTensor

section updTile
variable (s : State) (u : Nat) (f : TileEnt → TileEnt)

@[simp] theorem State.updTile_cw : (s.updTile u f).cw = s.cw := rfl
@[simp] theorem State.updTile_cp : (s.updTile u f).cp = s.cp := rfl
@[simp] theorem State.updTile_waves : (s.updTile u f).waves = s.waves := rfl
@[simp] theorem State.updTile_teams : (s.updTile u f).teams = s.teams := rfl
@[simp] theorem State.updTile_clusters : (s.updTile u f).clusters = s.clusters := rfl
@[simp] theorem State.updTile_launches : (s.updTile u f).launches = s.launches := rfl
@[simp] theorem State.updTile_ctxs : (s.updTile u f).ctxs = s.ctxs := rfl
@[simp] theorem State.updTile_handles : (s.updTile u f).handles = s.handles := rfl
@[simp] theorem State.updTile_ports : (s.updTile u f).ports = s.ports := rfl
@[simp] theorem State.updTile_remotes : (s.updTile u f).remotes = s.remotes := rfl
@[simp] theorem State.updTile_waitSets : (s.updTile u f).waitSets = s.waitSets := rfl
@[simp] theorem State.updTile_timers : (s.updTile u f).timers = s.timers := rfl
@[simp] theorem State.updTile_watches : (s.updTile u f).watches = s.watches := rfl
@[simp] theorem State.updTile_copies : (s.updTile u f).copies = s.copies := rfl
@[simp] theorem State.updTile_late : (s.updTile u f).late = s.late := rfl
@[simp] theorem State.updTile_tensors : (s.updTile u f).tensors = s.tensors := rfl
@[simp] theorem State.updTile_censuses : (s.updTile u f).censuses = s.censuses := rfl
@[simp] theorem State.updTile_responders : (s.updTile u f).responders = s.responders := rfl
@[simp] theorem State.updTile_latch : (s.updTile u f).latch = s.latch := rfl
@[simp] theorem State.updTile_jointOps : (s.updTile u f).jointOps = s.jointOps := rfl
@[simp] theorem State.updTile_products : (s.updTile u f).products = s.products := rfl
@[simp] theorem State.updTile_mem : (s.updTile u f).mem = s.mem := rfl
@[simp] theorem State.updTile_owners : (s.updTile u f).owners = s.owners := rfl
@[simp] theorem State.updTile_lent : (s.updTile u f).lent = s.lent := rfl
@[simp] theorem State.updTile_holds : (s.updTile u f).holds = s.holds := rfl
@[simp] theorem State.updTile_tlb : (s.updTile u f).tlb = s.tlb := rfl
@[simp] theorem State.updTile_wcb : (s.updTile u f).wcb = s.wcb := rfl
@[simp] theorem State.updTile_invals : (s.updTile u f).invals = s.invals := rfl
@[simp] theorem State.updTile_banks : (s.updTile u f).banks = s.banks := rfl
@[simp] theorem State.updTile_gated : (s.updTile u f).gated = s.gated := rfl
@[simp] theorem State.updTile_rimPorts : (s.updTile u f).rimPorts = s.rimPorts := rfl
@[simp] theorem State.updTile_rimReqs : (s.updTile u f).rimReqs = s.rimReqs := rfl
@[simp] theorem State.updTile_packets : (s.updTile u f).packets = s.packets := rfl
@[simp] theorem State.updTile_buckets : (s.updTile u f).buckets = s.buckets := rfl
@[simp] theorem State.updTile_parts : (s.updTile u f).parts = s.parts := rfl
@[simp] theorem State.updTile_funcs : (s.updTile u f).funcs = s.funcs := rfl
@[simp] theorem State.updTile_svcCores : (s.updTile u f).svcCores = s.svcCores := rfl
@[simp] theorem State.updTile_trainings : (s.updTile u f).trainings = s.trainings := rfl
@[simp] theorem State.updTile_devs : (s.updTile u f).devs = s.devs := rfl
@[simp] theorem State.updTile_podW : (s.updTile u f).podW = s.podW := rfl
@[simp] theorem State.updTile_podH : (s.updTile u f).podH = s.podH := rfl
@[simp] theorem State.updTile_poison : (s.updTile u f).poison = s.poison := rfl
@[simp] theorem State.updTile_stores : (s.updTile u f).stores = s.stores := rfl
@[simp] theorem State.updTile_nextUid : (s.updTile u f).nextUid = s.nextUid := rfl
@[simp] theorem State.updTile_free : (s.updTile u f).free = s.free := rfl
@[simp] theorem State.updTile_word : (s.updTile u f).word = s.word := rfl
@[simp] theorem State.updTile_issueSeq : (s.updTile u f).issueSeq = s.issueSeq := rfl
@[simp] theorem State.updTile_issuePorts : (s.updTile u f).issuePorts = s.issuePorts := rfl
@[simp] theorem State.updTile_turn : (s.updTile u f).turn = s.turn := rfl
@[simp] theorem State.updTile_inputs : (s.updTile u f).inputs = s.inputs := rfl
end updTile

section updCensus
variable (s : State) (u : Nat) (f : Census → Census)

@[simp] theorem State.updCensus_cw : (s.updCensus u f).cw = s.cw := rfl
@[simp] theorem State.updCensus_cp : (s.updCensus u f).cp = s.cp := rfl
@[simp] theorem State.updCensus_waves : (s.updCensus u f).waves = s.waves := rfl
@[simp] theorem State.updCensus_teams : (s.updCensus u f).teams = s.teams := rfl
@[simp] theorem State.updCensus_clusters : (s.updCensus u f).clusters = s.clusters := rfl
@[simp] theorem State.updCensus_launches : (s.updCensus u f).launches = s.launches := rfl
@[simp] theorem State.updCensus_ctxs : (s.updCensus u f).ctxs = s.ctxs := rfl
@[simp] theorem State.updCensus_handles : (s.updCensus u f).handles = s.handles := rfl
@[simp] theorem State.updCensus_ports : (s.updCensus u f).ports = s.ports := rfl
@[simp] theorem State.updCensus_remotes : (s.updCensus u f).remotes = s.remotes := rfl
@[simp] theorem State.updCensus_waitSets : (s.updCensus u f).waitSets = s.waitSets := rfl
@[simp] theorem State.updCensus_timers : (s.updCensus u f).timers = s.timers := rfl
@[simp] theorem State.updCensus_watches : (s.updCensus u f).watches = s.watches := rfl
@[simp] theorem State.updCensus_copies : (s.updCensus u f).copies = s.copies := rfl
@[simp] theorem State.updCensus_late : (s.updCensus u f).late = s.late := rfl
@[simp] theorem State.updCensus_tensors : (s.updCensus u f).tensors = s.tensors := rfl
@[simp] theorem State.updCensus_tiles : (s.updCensus u f).tiles = s.tiles := rfl
@[simp] theorem State.updCensus_responders : (s.updCensus u f).responders = s.responders := rfl
@[simp] theorem State.updCensus_latch : (s.updCensus u f).latch = s.latch := rfl
@[simp] theorem State.updCensus_jointOps : (s.updCensus u f).jointOps = s.jointOps := rfl
@[simp] theorem State.updCensus_products : (s.updCensus u f).products = s.products := rfl
@[simp] theorem State.updCensus_mem : (s.updCensus u f).mem = s.mem := rfl
@[simp] theorem State.updCensus_owners : (s.updCensus u f).owners = s.owners := rfl
@[simp] theorem State.updCensus_lent : (s.updCensus u f).lent = s.lent := rfl
@[simp] theorem State.updCensus_holds : (s.updCensus u f).holds = s.holds := rfl
@[simp] theorem State.updCensus_tlb : (s.updCensus u f).tlb = s.tlb := rfl
@[simp] theorem State.updCensus_wcb : (s.updCensus u f).wcb = s.wcb := rfl
@[simp] theorem State.updCensus_invals : (s.updCensus u f).invals = s.invals := rfl
@[simp] theorem State.updCensus_banks : (s.updCensus u f).banks = s.banks := rfl
@[simp] theorem State.updCensus_gated : (s.updCensus u f).gated = s.gated := rfl
@[simp] theorem State.updCensus_rimPorts : (s.updCensus u f).rimPorts = s.rimPorts := rfl
@[simp] theorem State.updCensus_rimReqs : (s.updCensus u f).rimReqs = s.rimReqs := rfl
@[simp] theorem State.updCensus_packets : (s.updCensus u f).packets = s.packets := rfl
@[simp] theorem State.updCensus_buckets : (s.updCensus u f).buckets = s.buckets := rfl
@[simp] theorem State.updCensus_parts : (s.updCensus u f).parts = s.parts := rfl
@[simp] theorem State.updCensus_funcs : (s.updCensus u f).funcs = s.funcs := rfl
@[simp] theorem State.updCensus_svcCores : (s.updCensus u f).svcCores = s.svcCores := rfl
@[simp] theorem State.updCensus_trainings : (s.updCensus u f).trainings = s.trainings := rfl
@[simp] theorem State.updCensus_devs : (s.updCensus u f).devs = s.devs := rfl
@[simp] theorem State.updCensus_podW : (s.updCensus u f).podW = s.podW := rfl
@[simp] theorem State.updCensus_podH : (s.updCensus u f).podH = s.podH := rfl
@[simp] theorem State.updCensus_poison : (s.updCensus u f).poison = s.poison := rfl
@[simp] theorem State.updCensus_stores : (s.updCensus u f).stores = s.stores := rfl
@[simp] theorem State.updCensus_nextUid : (s.updCensus u f).nextUid = s.nextUid := rfl
@[simp] theorem State.updCensus_free : (s.updCensus u f).free = s.free := rfl
@[simp] theorem State.updCensus_word : (s.updCensus u f).word = s.word := rfl
@[simp] theorem State.updCensus_issueSeq : (s.updCensus u f).issueSeq = s.issueSeq := rfl
@[simp] theorem State.updCensus_issuePorts : (s.updCensus u f).issuePorts = s.issuePorts := rfl
@[simp] theorem State.updCensus_turn : (s.updCensus u f).turn = s.turn := rfl
@[simp] theorem State.updCensus_inputs : (s.updCensus u f).inputs = s.inputs := rfl
end updCensus

section updTimer
variable (s : State) (u : Nat) (f : Timer → Timer)

@[simp] theorem State.updTimer_cw : (s.updTimer u f).cw = s.cw := rfl
@[simp] theorem State.updTimer_cp : (s.updTimer u f).cp = s.cp := rfl
@[simp] theorem State.updTimer_waves : (s.updTimer u f).waves = s.waves := rfl
@[simp] theorem State.updTimer_teams : (s.updTimer u f).teams = s.teams := rfl
@[simp] theorem State.updTimer_clusters : (s.updTimer u f).clusters = s.clusters := rfl
@[simp] theorem State.updTimer_launches : (s.updTimer u f).launches = s.launches := rfl
@[simp] theorem State.updTimer_ctxs : (s.updTimer u f).ctxs = s.ctxs := rfl
@[simp] theorem State.updTimer_handles : (s.updTimer u f).handles = s.handles := rfl
@[simp] theorem State.updTimer_ports : (s.updTimer u f).ports = s.ports := rfl
@[simp] theorem State.updTimer_remotes : (s.updTimer u f).remotes = s.remotes := rfl
@[simp] theorem State.updTimer_waitSets : (s.updTimer u f).waitSets = s.waitSets := rfl
@[simp] theorem State.updTimer_watches : (s.updTimer u f).watches = s.watches := rfl
@[simp] theorem State.updTimer_copies : (s.updTimer u f).copies = s.copies := rfl
@[simp] theorem State.updTimer_late : (s.updTimer u f).late = s.late := rfl
@[simp] theorem State.updTimer_tensors : (s.updTimer u f).tensors = s.tensors := rfl
@[simp] theorem State.updTimer_tiles : (s.updTimer u f).tiles = s.tiles := rfl
@[simp] theorem State.updTimer_censuses : (s.updTimer u f).censuses = s.censuses := rfl
@[simp] theorem State.updTimer_responders : (s.updTimer u f).responders = s.responders := rfl
@[simp] theorem State.updTimer_latch : (s.updTimer u f).latch = s.latch := rfl
@[simp] theorem State.updTimer_jointOps : (s.updTimer u f).jointOps = s.jointOps := rfl
@[simp] theorem State.updTimer_products : (s.updTimer u f).products = s.products := rfl
@[simp] theorem State.updTimer_mem : (s.updTimer u f).mem = s.mem := rfl
@[simp] theorem State.updTimer_owners : (s.updTimer u f).owners = s.owners := rfl
@[simp] theorem State.updTimer_lent : (s.updTimer u f).lent = s.lent := rfl
@[simp] theorem State.updTimer_holds : (s.updTimer u f).holds = s.holds := rfl
@[simp] theorem State.updTimer_tlb : (s.updTimer u f).tlb = s.tlb := rfl
@[simp] theorem State.updTimer_wcb : (s.updTimer u f).wcb = s.wcb := rfl
@[simp] theorem State.updTimer_invals : (s.updTimer u f).invals = s.invals := rfl
@[simp] theorem State.updTimer_banks : (s.updTimer u f).banks = s.banks := rfl
@[simp] theorem State.updTimer_gated : (s.updTimer u f).gated = s.gated := rfl
@[simp] theorem State.updTimer_rimPorts : (s.updTimer u f).rimPorts = s.rimPorts := rfl
@[simp] theorem State.updTimer_rimReqs : (s.updTimer u f).rimReqs = s.rimReqs := rfl
@[simp] theorem State.updTimer_packets : (s.updTimer u f).packets = s.packets := rfl
@[simp] theorem State.updTimer_buckets : (s.updTimer u f).buckets = s.buckets := rfl
@[simp] theorem State.updTimer_parts : (s.updTimer u f).parts = s.parts := rfl
@[simp] theorem State.updTimer_funcs : (s.updTimer u f).funcs = s.funcs := rfl
@[simp] theorem State.updTimer_svcCores : (s.updTimer u f).svcCores = s.svcCores := rfl
@[simp] theorem State.updTimer_trainings : (s.updTimer u f).trainings = s.trainings := rfl
@[simp] theorem State.updTimer_devs : (s.updTimer u f).devs = s.devs := rfl
@[simp] theorem State.updTimer_podW : (s.updTimer u f).podW = s.podW := rfl
@[simp] theorem State.updTimer_podH : (s.updTimer u f).podH = s.podH := rfl
@[simp] theorem State.updTimer_poison : (s.updTimer u f).poison = s.poison := rfl
@[simp] theorem State.updTimer_stores : (s.updTimer u f).stores = s.stores := rfl
@[simp] theorem State.updTimer_nextUid : (s.updTimer u f).nextUid = s.nextUid := rfl
@[simp] theorem State.updTimer_free : (s.updTimer u f).free = s.free := rfl
@[simp] theorem State.updTimer_word : (s.updTimer u f).word = s.word := rfl
@[simp] theorem State.updTimer_issueSeq : (s.updTimer u f).issueSeq = s.issueSeq := rfl
@[simp] theorem State.updTimer_issuePorts : (s.updTimer u f).issuePorts = s.issuePorts := rfl
@[simp] theorem State.updTimer_turn : (s.updTimer u f).turn = s.turn := rfl
@[simp] theorem State.updTimer_inputs : (s.updTimer u f).inputs = s.inputs := rfl
end updTimer

section updWatch
variable (s : State) (u : Nat) (f : Watch → Watch)

@[simp] theorem State.updWatch_cw : (s.updWatch u f).cw = s.cw := rfl
@[simp] theorem State.updWatch_cp : (s.updWatch u f).cp = s.cp := rfl
@[simp] theorem State.updWatch_waves : (s.updWatch u f).waves = s.waves := rfl
@[simp] theorem State.updWatch_teams : (s.updWatch u f).teams = s.teams := rfl
@[simp] theorem State.updWatch_clusters : (s.updWatch u f).clusters = s.clusters := rfl
@[simp] theorem State.updWatch_launches : (s.updWatch u f).launches = s.launches := rfl
@[simp] theorem State.updWatch_ctxs : (s.updWatch u f).ctxs = s.ctxs := rfl
@[simp] theorem State.updWatch_handles : (s.updWatch u f).handles = s.handles := rfl
@[simp] theorem State.updWatch_ports : (s.updWatch u f).ports = s.ports := rfl
@[simp] theorem State.updWatch_remotes : (s.updWatch u f).remotes = s.remotes := rfl
@[simp] theorem State.updWatch_waitSets : (s.updWatch u f).waitSets = s.waitSets := rfl
@[simp] theorem State.updWatch_timers : (s.updWatch u f).timers = s.timers := rfl
@[simp] theorem State.updWatch_copies : (s.updWatch u f).copies = s.copies := rfl
@[simp] theorem State.updWatch_late : (s.updWatch u f).late = s.late := rfl
@[simp] theorem State.updWatch_tensors : (s.updWatch u f).tensors = s.tensors := rfl
@[simp] theorem State.updWatch_tiles : (s.updWatch u f).tiles = s.tiles := rfl
@[simp] theorem State.updWatch_censuses : (s.updWatch u f).censuses = s.censuses := rfl
@[simp] theorem State.updWatch_responders : (s.updWatch u f).responders = s.responders := rfl
@[simp] theorem State.updWatch_latch : (s.updWatch u f).latch = s.latch := rfl
@[simp] theorem State.updWatch_jointOps : (s.updWatch u f).jointOps = s.jointOps := rfl
@[simp] theorem State.updWatch_products : (s.updWatch u f).products = s.products := rfl
@[simp] theorem State.updWatch_mem : (s.updWatch u f).mem = s.mem := rfl
@[simp] theorem State.updWatch_owners : (s.updWatch u f).owners = s.owners := rfl
@[simp] theorem State.updWatch_lent : (s.updWatch u f).lent = s.lent := rfl
@[simp] theorem State.updWatch_holds : (s.updWatch u f).holds = s.holds := rfl
@[simp] theorem State.updWatch_tlb : (s.updWatch u f).tlb = s.tlb := rfl
@[simp] theorem State.updWatch_wcb : (s.updWatch u f).wcb = s.wcb := rfl
@[simp] theorem State.updWatch_invals : (s.updWatch u f).invals = s.invals := rfl
@[simp] theorem State.updWatch_banks : (s.updWatch u f).banks = s.banks := rfl
@[simp] theorem State.updWatch_gated : (s.updWatch u f).gated = s.gated := rfl
@[simp] theorem State.updWatch_rimPorts : (s.updWatch u f).rimPorts = s.rimPorts := rfl
@[simp] theorem State.updWatch_rimReqs : (s.updWatch u f).rimReqs = s.rimReqs := rfl
@[simp] theorem State.updWatch_packets : (s.updWatch u f).packets = s.packets := rfl
@[simp] theorem State.updWatch_buckets : (s.updWatch u f).buckets = s.buckets := rfl
@[simp] theorem State.updWatch_parts : (s.updWatch u f).parts = s.parts := rfl
@[simp] theorem State.updWatch_funcs : (s.updWatch u f).funcs = s.funcs := rfl
@[simp] theorem State.updWatch_svcCores : (s.updWatch u f).svcCores = s.svcCores := rfl
@[simp] theorem State.updWatch_trainings : (s.updWatch u f).trainings = s.trainings := rfl
@[simp] theorem State.updWatch_devs : (s.updWatch u f).devs = s.devs := rfl
@[simp] theorem State.updWatch_podW : (s.updWatch u f).podW = s.podW := rfl
@[simp] theorem State.updWatch_podH : (s.updWatch u f).podH = s.podH := rfl
@[simp] theorem State.updWatch_poison : (s.updWatch u f).poison = s.poison := rfl
@[simp] theorem State.updWatch_stores : (s.updWatch u f).stores = s.stores := rfl
@[simp] theorem State.updWatch_nextUid : (s.updWatch u f).nextUid = s.nextUid := rfl
@[simp] theorem State.updWatch_free : (s.updWatch u f).free = s.free := rfl
@[simp] theorem State.updWatch_word : (s.updWatch u f).word = s.word := rfl
@[simp] theorem State.updWatch_issueSeq : (s.updWatch u f).issueSeq = s.issueSeq := rfl
@[simp] theorem State.updWatch_issuePorts : (s.updWatch u f).issuePorts = s.issuePorts := rfl
@[simp] theorem State.updWatch_turn : (s.updWatch u f).turn = s.turn := rfl
@[simp] theorem State.updWatch_inputs : (s.updWatch u f).inputs = s.inputs := rfl
end updWatch

section updWaitSet
variable (s : State) (u : Nat) (f : WaitSet → WaitSet)

@[simp] theorem State.updWaitSet_cw : (s.updWaitSet u f).cw = s.cw := rfl
@[simp] theorem State.updWaitSet_cp : (s.updWaitSet u f).cp = s.cp := rfl
@[simp] theorem State.updWaitSet_waves : (s.updWaitSet u f).waves = s.waves := rfl
@[simp] theorem State.updWaitSet_teams : (s.updWaitSet u f).teams = s.teams := rfl
@[simp] theorem State.updWaitSet_clusters : (s.updWaitSet u f).clusters = s.clusters := rfl
@[simp] theorem State.updWaitSet_launches : (s.updWaitSet u f).launches = s.launches := rfl
@[simp] theorem State.updWaitSet_ctxs : (s.updWaitSet u f).ctxs = s.ctxs := rfl
@[simp] theorem State.updWaitSet_handles : (s.updWaitSet u f).handles = s.handles := rfl
@[simp] theorem State.updWaitSet_ports : (s.updWaitSet u f).ports = s.ports := rfl
@[simp] theorem State.updWaitSet_remotes : (s.updWaitSet u f).remotes = s.remotes := rfl
@[simp] theorem State.updWaitSet_timers : (s.updWaitSet u f).timers = s.timers := rfl
@[simp] theorem State.updWaitSet_watches : (s.updWaitSet u f).watches = s.watches := rfl
@[simp] theorem State.updWaitSet_copies : (s.updWaitSet u f).copies = s.copies := rfl
@[simp] theorem State.updWaitSet_late : (s.updWaitSet u f).late = s.late := rfl
@[simp] theorem State.updWaitSet_tensors : (s.updWaitSet u f).tensors = s.tensors := rfl
@[simp] theorem State.updWaitSet_tiles : (s.updWaitSet u f).tiles = s.tiles := rfl
@[simp] theorem State.updWaitSet_censuses : (s.updWaitSet u f).censuses = s.censuses := rfl
@[simp] theorem State.updWaitSet_responders : (s.updWaitSet u f).responders = s.responders := rfl
@[simp] theorem State.updWaitSet_latch : (s.updWaitSet u f).latch = s.latch := rfl
@[simp] theorem State.updWaitSet_jointOps : (s.updWaitSet u f).jointOps = s.jointOps := rfl
@[simp] theorem State.updWaitSet_products : (s.updWaitSet u f).products = s.products := rfl
@[simp] theorem State.updWaitSet_mem : (s.updWaitSet u f).mem = s.mem := rfl
@[simp] theorem State.updWaitSet_owners : (s.updWaitSet u f).owners = s.owners := rfl
@[simp] theorem State.updWaitSet_lent : (s.updWaitSet u f).lent = s.lent := rfl
@[simp] theorem State.updWaitSet_holds : (s.updWaitSet u f).holds = s.holds := rfl
@[simp] theorem State.updWaitSet_tlb : (s.updWaitSet u f).tlb = s.tlb := rfl
@[simp] theorem State.updWaitSet_wcb : (s.updWaitSet u f).wcb = s.wcb := rfl
@[simp] theorem State.updWaitSet_invals : (s.updWaitSet u f).invals = s.invals := rfl
@[simp] theorem State.updWaitSet_banks : (s.updWaitSet u f).banks = s.banks := rfl
@[simp] theorem State.updWaitSet_gated : (s.updWaitSet u f).gated = s.gated := rfl
@[simp] theorem State.updWaitSet_rimPorts : (s.updWaitSet u f).rimPorts = s.rimPorts := rfl
@[simp] theorem State.updWaitSet_rimReqs : (s.updWaitSet u f).rimReqs = s.rimReqs := rfl
@[simp] theorem State.updWaitSet_packets : (s.updWaitSet u f).packets = s.packets := rfl
@[simp] theorem State.updWaitSet_buckets : (s.updWaitSet u f).buckets = s.buckets := rfl
@[simp] theorem State.updWaitSet_parts : (s.updWaitSet u f).parts = s.parts := rfl
@[simp] theorem State.updWaitSet_funcs : (s.updWaitSet u f).funcs = s.funcs := rfl
@[simp] theorem State.updWaitSet_svcCores : (s.updWaitSet u f).svcCores = s.svcCores := rfl
@[simp] theorem State.updWaitSet_trainings : (s.updWaitSet u f).trainings = s.trainings := rfl
@[simp] theorem State.updWaitSet_devs : (s.updWaitSet u f).devs = s.devs := rfl
@[simp] theorem State.updWaitSet_podW : (s.updWaitSet u f).podW = s.podW := rfl
@[simp] theorem State.updWaitSet_podH : (s.updWaitSet u f).podH = s.podH := rfl
@[simp] theorem State.updWaitSet_poison : (s.updWaitSet u f).poison = s.poison := rfl
@[simp] theorem State.updWaitSet_stores : (s.updWaitSet u f).stores = s.stores := rfl
@[simp] theorem State.updWaitSet_nextUid : (s.updWaitSet u f).nextUid = s.nextUid := rfl
@[simp] theorem State.updWaitSet_free : (s.updWaitSet u f).free = s.free := rfl
@[simp] theorem State.updWaitSet_word : (s.updWaitSet u f).word = s.word := rfl
@[simp] theorem State.updWaitSet_issueSeq : (s.updWaitSet u f).issueSeq = s.issueSeq := rfl
@[simp] theorem State.updWaitSet_issuePorts : (s.updWaitSet u f).issuePorts = s.issuePorts := rfl
@[simp] theorem State.updWaitSet_turn : (s.updWaitSet u f).turn = s.turn := rfl
@[simp] theorem State.updWaitSet_inputs : (s.updWaitSet u f).inputs = s.inputs := rfl
end updWaitSet

section updLaunch
variable (s : State) (u : Nat) (f : Launch → Launch)

@[simp] theorem State.updLaunch_cw : (s.updLaunch u f).cw = s.cw := rfl
@[simp] theorem State.updLaunch_cp : (s.updLaunch u f).cp = s.cp := rfl
@[simp] theorem State.updLaunch_waves : (s.updLaunch u f).waves = s.waves := rfl
@[simp] theorem State.updLaunch_teams : (s.updLaunch u f).teams = s.teams := rfl
@[simp] theorem State.updLaunch_clusters : (s.updLaunch u f).clusters = s.clusters := rfl
@[simp] theorem State.updLaunch_ctxs : (s.updLaunch u f).ctxs = s.ctxs := rfl
@[simp] theorem State.updLaunch_handles : (s.updLaunch u f).handles = s.handles := rfl
@[simp] theorem State.updLaunch_ports : (s.updLaunch u f).ports = s.ports := rfl
@[simp] theorem State.updLaunch_remotes : (s.updLaunch u f).remotes = s.remotes := rfl
@[simp] theorem State.updLaunch_waitSets : (s.updLaunch u f).waitSets = s.waitSets := rfl
@[simp] theorem State.updLaunch_timers : (s.updLaunch u f).timers = s.timers := rfl
@[simp] theorem State.updLaunch_watches : (s.updLaunch u f).watches = s.watches := rfl
@[simp] theorem State.updLaunch_copies : (s.updLaunch u f).copies = s.copies := rfl
@[simp] theorem State.updLaunch_late : (s.updLaunch u f).late = s.late := rfl
@[simp] theorem State.updLaunch_tensors : (s.updLaunch u f).tensors = s.tensors := rfl
@[simp] theorem State.updLaunch_tiles : (s.updLaunch u f).tiles = s.tiles := rfl
@[simp] theorem State.updLaunch_censuses : (s.updLaunch u f).censuses = s.censuses := rfl
@[simp] theorem State.updLaunch_responders : (s.updLaunch u f).responders = s.responders := rfl
@[simp] theorem State.updLaunch_latch : (s.updLaunch u f).latch = s.latch := rfl
@[simp] theorem State.updLaunch_jointOps : (s.updLaunch u f).jointOps = s.jointOps := rfl
@[simp] theorem State.updLaunch_products : (s.updLaunch u f).products = s.products := rfl
@[simp] theorem State.updLaunch_mem : (s.updLaunch u f).mem = s.mem := rfl
@[simp] theorem State.updLaunch_owners : (s.updLaunch u f).owners = s.owners := rfl
@[simp] theorem State.updLaunch_lent : (s.updLaunch u f).lent = s.lent := rfl
@[simp] theorem State.updLaunch_holds : (s.updLaunch u f).holds = s.holds := rfl
@[simp] theorem State.updLaunch_tlb : (s.updLaunch u f).tlb = s.tlb := rfl
@[simp] theorem State.updLaunch_wcb : (s.updLaunch u f).wcb = s.wcb := rfl
@[simp] theorem State.updLaunch_invals : (s.updLaunch u f).invals = s.invals := rfl
@[simp] theorem State.updLaunch_banks : (s.updLaunch u f).banks = s.banks := rfl
@[simp] theorem State.updLaunch_gated : (s.updLaunch u f).gated = s.gated := rfl
@[simp] theorem State.updLaunch_rimPorts : (s.updLaunch u f).rimPorts = s.rimPorts := rfl
@[simp] theorem State.updLaunch_rimReqs : (s.updLaunch u f).rimReqs = s.rimReqs := rfl
@[simp] theorem State.updLaunch_packets : (s.updLaunch u f).packets = s.packets := rfl
@[simp] theorem State.updLaunch_buckets : (s.updLaunch u f).buckets = s.buckets := rfl
@[simp] theorem State.updLaunch_parts : (s.updLaunch u f).parts = s.parts := rfl
@[simp] theorem State.updLaunch_funcs : (s.updLaunch u f).funcs = s.funcs := rfl
@[simp] theorem State.updLaunch_svcCores : (s.updLaunch u f).svcCores = s.svcCores := rfl
@[simp] theorem State.updLaunch_trainings : (s.updLaunch u f).trainings = s.trainings := rfl
@[simp] theorem State.updLaunch_devs : (s.updLaunch u f).devs = s.devs := rfl
@[simp] theorem State.updLaunch_podW : (s.updLaunch u f).podW = s.podW := rfl
@[simp] theorem State.updLaunch_podH : (s.updLaunch u f).podH = s.podH := rfl
@[simp] theorem State.updLaunch_poison : (s.updLaunch u f).poison = s.poison := rfl
@[simp] theorem State.updLaunch_stores : (s.updLaunch u f).stores = s.stores := rfl
@[simp] theorem State.updLaunch_nextUid : (s.updLaunch u f).nextUid = s.nextUid := rfl
@[simp] theorem State.updLaunch_free : (s.updLaunch u f).free = s.free := rfl
@[simp] theorem State.updLaunch_word : (s.updLaunch u f).word = s.word := rfl
@[simp] theorem State.updLaunch_issueSeq : (s.updLaunch u f).issueSeq = s.issueSeq := rfl
@[simp] theorem State.updLaunch_issuePorts : (s.updLaunch u f).issuePorts = s.issuePorts := rfl
@[simp] theorem State.updLaunch_turn : (s.updLaunch u f).turn = s.turn := rfl
@[simp] theorem State.updLaunch_inputs : (s.updLaunch u f).inputs = s.inputs := rfl
end updLaunch

section updDev
variable (s : State) (u : Nat) (f : Dev → Dev)

@[simp] theorem State.updDev_cw : (s.updDev u f).cw = s.cw := rfl
@[simp] theorem State.updDev_cp : (s.updDev u f).cp = s.cp := rfl
@[simp] theorem State.updDev_waves : (s.updDev u f).waves = s.waves := rfl
@[simp] theorem State.updDev_teams : (s.updDev u f).teams = s.teams := rfl
@[simp] theorem State.updDev_clusters : (s.updDev u f).clusters = s.clusters := rfl
@[simp] theorem State.updDev_launches : (s.updDev u f).launches = s.launches := rfl
@[simp] theorem State.updDev_ctxs : (s.updDev u f).ctxs = s.ctxs := rfl
@[simp] theorem State.updDev_handles : (s.updDev u f).handles = s.handles := rfl
@[simp] theorem State.updDev_ports : (s.updDev u f).ports = s.ports := rfl
@[simp] theorem State.updDev_remotes : (s.updDev u f).remotes = s.remotes := rfl
@[simp] theorem State.updDev_waitSets : (s.updDev u f).waitSets = s.waitSets := rfl
@[simp] theorem State.updDev_timers : (s.updDev u f).timers = s.timers := rfl
@[simp] theorem State.updDev_watches : (s.updDev u f).watches = s.watches := rfl
@[simp] theorem State.updDev_copies : (s.updDev u f).copies = s.copies := rfl
@[simp] theorem State.updDev_late : (s.updDev u f).late = s.late := rfl
@[simp] theorem State.updDev_tensors : (s.updDev u f).tensors = s.tensors := rfl
@[simp] theorem State.updDev_tiles : (s.updDev u f).tiles = s.tiles := rfl
@[simp] theorem State.updDev_censuses : (s.updDev u f).censuses = s.censuses := rfl
@[simp] theorem State.updDev_responders : (s.updDev u f).responders = s.responders := rfl
@[simp] theorem State.updDev_latch : (s.updDev u f).latch = s.latch := rfl
@[simp] theorem State.updDev_jointOps : (s.updDev u f).jointOps = s.jointOps := rfl
@[simp] theorem State.updDev_products : (s.updDev u f).products = s.products := rfl
@[simp] theorem State.updDev_mem : (s.updDev u f).mem = s.mem := rfl
@[simp] theorem State.updDev_owners : (s.updDev u f).owners = s.owners := rfl
@[simp] theorem State.updDev_lent : (s.updDev u f).lent = s.lent := rfl
@[simp] theorem State.updDev_holds : (s.updDev u f).holds = s.holds := rfl
@[simp] theorem State.updDev_tlb : (s.updDev u f).tlb = s.tlb := rfl
@[simp] theorem State.updDev_wcb : (s.updDev u f).wcb = s.wcb := rfl
@[simp] theorem State.updDev_invals : (s.updDev u f).invals = s.invals := rfl
@[simp] theorem State.updDev_banks : (s.updDev u f).banks = s.banks := rfl
@[simp] theorem State.updDev_gated : (s.updDev u f).gated = s.gated := rfl
@[simp] theorem State.updDev_rimPorts : (s.updDev u f).rimPorts = s.rimPorts := rfl
@[simp] theorem State.updDev_rimReqs : (s.updDev u f).rimReqs = s.rimReqs := rfl
@[simp] theorem State.updDev_packets : (s.updDev u f).packets = s.packets := rfl
@[simp] theorem State.updDev_buckets : (s.updDev u f).buckets = s.buckets := rfl
@[simp] theorem State.updDev_parts : (s.updDev u f).parts = s.parts := rfl
@[simp] theorem State.updDev_funcs : (s.updDev u f).funcs = s.funcs := rfl
@[simp] theorem State.updDev_svcCores : (s.updDev u f).svcCores = s.svcCores := rfl
@[simp] theorem State.updDev_trainings : (s.updDev u f).trainings = s.trainings := rfl
@[simp] theorem State.updDev_podW : (s.updDev u f).podW = s.podW := rfl
@[simp] theorem State.updDev_podH : (s.updDev u f).podH = s.podH := rfl
@[simp] theorem State.updDev_poison : (s.updDev u f).poison = s.poison := rfl
@[simp] theorem State.updDev_stores : (s.updDev u f).stores = s.stores := rfl
@[simp] theorem State.updDev_nextUid : (s.updDev u f).nextUid = s.nextUid := rfl
@[simp] theorem State.updDev_free : (s.updDev u f).free = s.free := rfl
@[simp] theorem State.updDev_word : (s.updDev u f).word = s.word := rfl
@[simp] theorem State.updDev_issueSeq : (s.updDev u f).issueSeq = s.issueSeq := rfl
@[simp] theorem State.updDev_issuePorts : (s.updDev u f).issuePorts = s.issuePorts := rfl
@[simp] theorem State.updDev_turn : (s.updDev u f).turn = s.turn := rfl
@[simp] theorem State.updDev_inputs : (s.updDev u f).inputs = s.inputs := rfl
end updDev

section updFunc
variable (s : State) (d n : Nat) (f : Func → Func)

@[simp] theorem State.updFunc_cw : (s.updFunc d n f).cw = s.cw := rfl
@[simp] theorem State.updFunc_cp : (s.updFunc d n f).cp = s.cp := rfl
@[simp] theorem State.updFunc_waves : (s.updFunc d n f).waves = s.waves := rfl
@[simp] theorem State.updFunc_teams : (s.updFunc d n f).teams = s.teams := rfl
@[simp] theorem State.updFunc_clusters : (s.updFunc d n f).clusters = s.clusters := rfl
@[simp] theorem State.updFunc_launches : (s.updFunc d n f).launches = s.launches := rfl
@[simp] theorem State.updFunc_ctxs : (s.updFunc d n f).ctxs = s.ctxs := rfl
@[simp] theorem State.updFunc_handles : (s.updFunc d n f).handles = s.handles := rfl
@[simp] theorem State.updFunc_ports : (s.updFunc d n f).ports = s.ports := rfl
@[simp] theorem State.updFunc_remotes : (s.updFunc d n f).remotes = s.remotes := rfl
@[simp] theorem State.updFunc_waitSets : (s.updFunc d n f).waitSets = s.waitSets := rfl
@[simp] theorem State.updFunc_timers : (s.updFunc d n f).timers = s.timers := rfl
@[simp] theorem State.updFunc_watches : (s.updFunc d n f).watches = s.watches := rfl
@[simp] theorem State.updFunc_copies : (s.updFunc d n f).copies = s.copies := rfl
@[simp] theorem State.updFunc_late : (s.updFunc d n f).late = s.late := rfl
@[simp] theorem State.updFunc_tensors : (s.updFunc d n f).tensors = s.tensors := rfl
@[simp] theorem State.updFunc_tiles : (s.updFunc d n f).tiles = s.tiles := rfl
@[simp] theorem State.updFunc_censuses : (s.updFunc d n f).censuses = s.censuses := rfl
@[simp] theorem State.updFunc_responders : (s.updFunc d n f).responders = s.responders := rfl
@[simp] theorem State.updFunc_latch : (s.updFunc d n f).latch = s.latch := rfl
@[simp] theorem State.updFunc_jointOps : (s.updFunc d n f).jointOps = s.jointOps := rfl
@[simp] theorem State.updFunc_products : (s.updFunc d n f).products = s.products := rfl
@[simp] theorem State.updFunc_mem : (s.updFunc d n f).mem = s.mem := rfl
@[simp] theorem State.updFunc_owners : (s.updFunc d n f).owners = s.owners := rfl
@[simp] theorem State.updFunc_lent : (s.updFunc d n f).lent = s.lent := rfl
@[simp] theorem State.updFunc_holds : (s.updFunc d n f).holds = s.holds := rfl
@[simp] theorem State.updFunc_tlb : (s.updFunc d n f).tlb = s.tlb := rfl
@[simp] theorem State.updFunc_wcb : (s.updFunc d n f).wcb = s.wcb := rfl
@[simp] theorem State.updFunc_invals : (s.updFunc d n f).invals = s.invals := rfl
@[simp] theorem State.updFunc_banks : (s.updFunc d n f).banks = s.banks := rfl
@[simp] theorem State.updFunc_gated : (s.updFunc d n f).gated = s.gated := rfl
@[simp] theorem State.updFunc_rimPorts : (s.updFunc d n f).rimPorts = s.rimPorts := rfl
@[simp] theorem State.updFunc_rimReqs : (s.updFunc d n f).rimReqs = s.rimReqs := rfl
@[simp] theorem State.updFunc_packets : (s.updFunc d n f).packets = s.packets := rfl
@[simp] theorem State.updFunc_buckets : (s.updFunc d n f).buckets = s.buckets := rfl
@[simp] theorem State.updFunc_parts : (s.updFunc d n f).parts = s.parts := rfl
@[simp] theorem State.updFunc_svcCores : (s.updFunc d n f).svcCores = s.svcCores := rfl
@[simp] theorem State.updFunc_trainings : (s.updFunc d n f).trainings = s.trainings := rfl
@[simp] theorem State.updFunc_devs : (s.updFunc d n f).devs = s.devs := rfl
@[simp] theorem State.updFunc_podW : (s.updFunc d n f).podW = s.podW := rfl
@[simp] theorem State.updFunc_podH : (s.updFunc d n f).podH = s.podH := rfl
@[simp] theorem State.updFunc_poison : (s.updFunc d n f).poison = s.poison := rfl
@[simp] theorem State.updFunc_stores : (s.updFunc d n f).stores = s.stores := rfl
@[simp] theorem State.updFunc_nextUid : (s.updFunc d n f).nextUid = s.nextUid := rfl
@[simp] theorem State.updFunc_free : (s.updFunc d n f).free = s.free := rfl
@[simp] theorem State.updFunc_word : (s.updFunc d n f).word = s.word := rfl
@[simp] theorem State.updFunc_issueSeq : (s.updFunc d n f).issueSeq = s.issueSeq := rfl
@[simp] theorem State.updFunc_issuePorts : (s.updFunc d n f).issuePorts = s.issuePorts := rfl
@[simp] theorem State.updFunc_turn : (s.updFunc d n f).turn = s.turn := rfl
@[simp] theorem State.updFunc_inputs : (s.updFunc d n f).inputs = s.inputs := rfl
end updFunc

section updPart
variable (s : State) (d n : Nat) (f : Part → Part)

@[simp] theorem State.updPart_cw : (s.updPart d n f).cw = s.cw := rfl
@[simp] theorem State.updPart_cp : (s.updPart d n f).cp = s.cp := rfl
@[simp] theorem State.updPart_waves : (s.updPart d n f).waves = s.waves := rfl
@[simp] theorem State.updPart_teams : (s.updPart d n f).teams = s.teams := rfl
@[simp] theorem State.updPart_clusters : (s.updPart d n f).clusters = s.clusters := rfl
@[simp] theorem State.updPart_launches : (s.updPart d n f).launches = s.launches := rfl
@[simp] theorem State.updPart_ctxs : (s.updPart d n f).ctxs = s.ctxs := rfl
@[simp] theorem State.updPart_handles : (s.updPart d n f).handles = s.handles := rfl
@[simp] theorem State.updPart_ports : (s.updPart d n f).ports = s.ports := rfl
@[simp] theorem State.updPart_remotes : (s.updPart d n f).remotes = s.remotes := rfl
@[simp] theorem State.updPart_waitSets : (s.updPart d n f).waitSets = s.waitSets := rfl
@[simp] theorem State.updPart_timers : (s.updPart d n f).timers = s.timers := rfl
@[simp] theorem State.updPart_watches : (s.updPart d n f).watches = s.watches := rfl
@[simp] theorem State.updPart_copies : (s.updPart d n f).copies = s.copies := rfl
@[simp] theorem State.updPart_late : (s.updPart d n f).late = s.late := rfl
@[simp] theorem State.updPart_tensors : (s.updPart d n f).tensors = s.tensors := rfl
@[simp] theorem State.updPart_tiles : (s.updPart d n f).tiles = s.tiles := rfl
@[simp] theorem State.updPart_censuses : (s.updPart d n f).censuses = s.censuses := rfl
@[simp] theorem State.updPart_responders : (s.updPart d n f).responders = s.responders := rfl
@[simp] theorem State.updPart_latch : (s.updPart d n f).latch = s.latch := rfl
@[simp] theorem State.updPart_jointOps : (s.updPart d n f).jointOps = s.jointOps := rfl
@[simp] theorem State.updPart_products : (s.updPart d n f).products = s.products := rfl
@[simp] theorem State.updPart_mem : (s.updPart d n f).mem = s.mem := rfl
@[simp] theorem State.updPart_owners : (s.updPart d n f).owners = s.owners := rfl
@[simp] theorem State.updPart_lent : (s.updPart d n f).lent = s.lent := rfl
@[simp] theorem State.updPart_holds : (s.updPart d n f).holds = s.holds := rfl
@[simp] theorem State.updPart_tlb : (s.updPart d n f).tlb = s.tlb := rfl
@[simp] theorem State.updPart_wcb : (s.updPart d n f).wcb = s.wcb := rfl
@[simp] theorem State.updPart_invals : (s.updPart d n f).invals = s.invals := rfl
@[simp] theorem State.updPart_banks : (s.updPart d n f).banks = s.banks := rfl
@[simp] theorem State.updPart_gated : (s.updPart d n f).gated = s.gated := rfl
@[simp] theorem State.updPart_rimPorts : (s.updPart d n f).rimPorts = s.rimPorts := rfl
@[simp] theorem State.updPart_rimReqs : (s.updPart d n f).rimReqs = s.rimReqs := rfl
@[simp] theorem State.updPart_packets : (s.updPart d n f).packets = s.packets := rfl
@[simp] theorem State.updPart_buckets : (s.updPart d n f).buckets = s.buckets := rfl
@[simp] theorem State.updPart_funcs : (s.updPart d n f).funcs = s.funcs := rfl
@[simp] theorem State.updPart_svcCores : (s.updPart d n f).svcCores = s.svcCores := rfl
@[simp] theorem State.updPart_trainings : (s.updPart d n f).trainings = s.trainings := rfl
@[simp] theorem State.updPart_devs : (s.updPart d n f).devs = s.devs := rfl
@[simp] theorem State.updPart_podW : (s.updPart d n f).podW = s.podW := rfl
@[simp] theorem State.updPart_podH : (s.updPart d n f).podH = s.podH := rfl
@[simp] theorem State.updPart_poison : (s.updPart d n f).poison = s.poison := rfl
@[simp] theorem State.updPart_stores : (s.updPart d n f).stores = s.stores := rfl
@[simp] theorem State.updPart_nextUid : (s.updPart d n f).nextUid = s.nextUid := rfl
@[simp] theorem State.updPart_free : (s.updPart d n f).free = s.free := rfl
@[simp] theorem State.updPart_word : (s.updPart d n f).word = s.word := rfl
@[simp] theorem State.updPart_issueSeq : (s.updPart d n f).issueSeq = s.issueSeq := rfl
@[simp] theorem State.updPart_issuePorts : (s.updPart d n f).issuePorts = s.issuePorts := rfl
@[simp] theorem State.updPart_turn : (s.updPart d n f).turn = s.turn := rfl
@[simp] theorem State.updPart_inputs : (s.updPart d n f).inputs = s.inputs := rfl
end updPart

/-! ## Traffic counted and charged (R109, R235, R236) -/

/-- Between two states only counters of traffic differ: token buckets, contexts' buckets and partitions' byte counts. -/
def Spends (s t : State) : Prop := t = { s with buckets := t.buckets, ctxs := t.ctxs, parts := t.parts }

theorem Spends.refl (s : State) : Spends s s := rfl
theorem Spends.trans {s t u : State} (h : Spends s t) (h' : Spends t u) : Spends s u := by
  unfold Spends at h h' ⊢; rw [h'.trans (by rw [h])]

theorem foldl_spends {α : Type} {f : State → α → State} (hf : ∀ s x, Spends s (f s x)) (l : List α) (s : State) :
    Spends s (l.foldl f s) := by
  induction l generalizing s with
  | nil => exact .refl s
  | cons x l ih => exact (hf s x).trans (ih _)

theorem lendOne_spends (dev port : Nat) (s : State) (part : Nat) : Spends s (s.lendOne dev port part) := by
  unfold State.lendOne; split <;> exact rfl

theorem lend_spends (dev port n : Nat) (s : State) : Spends s (s.lend dev port n) := by
  induction n generalizing s with
  | zero => exact .refl s
  | succ n ih => exact (foldl_spends (lendOne_spends dev port) _ s).trans (ih _)

theorem payQueue_spends (dev port part : Nat) (l : List (Nat × Nat)) (s : State) : Spends s (State.payQueue dev port part l s) := by
  induction l generalizing s with
  | nil => exact .refl s
  | cons x l ih =>
    unfold State.payQueue
    split
    · exact .refl s
    · exact Spends.trans (by rfl) (ih _)

theorem charge_spends (s : State) (dev part ctx port k : Nat) : Spends s (s.charge dev part ctx port k) :=
  (payQueue_spends ..).trans (lend_spends ..)

/-- Counting bytes at home agents changes counters of traffic alone. -/
theorem moved_spends (s : State) (dev part ctx phys n : Nat) : Spends s (s.moved dev part ctx phys n) := by
  refine Spends.trans (t := s.updPart dev part fun p => { p with hbmBytes := p.hbmBytes + .ofNat 64 n }) rfl ?_
  unfold State.moved State.chargeBytes
  split
  · exact .refl _
  · exact foldl_spends (fun s i => charge_spends ..) _ _

theorem hbm_spends (s : State) (w : Who) (phys n : Nat) : Spends s (s.hbm w phys n) := by
  unfold State.hbm
  split
  · exact .refl s
  · split <;> exact moved_spends ..

section hbm
variable (s : State) (w : Who) (p n : Nat)

@[simp] theorem State.hbm_cw : (s.hbm w p n).cw = s.cw := by rw [hbm_spends s w p n]
@[simp] theorem State.hbm_cp : (s.hbm w p n).cp = s.cp := by rw [hbm_spends s w p n]
@[simp] theorem State.hbm_waves : (s.hbm w p n).waves = s.waves := by rw [hbm_spends s w p n]
@[simp] theorem State.hbm_teams : (s.hbm w p n).teams = s.teams := by rw [hbm_spends s w p n]
@[simp] theorem State.hbm_clusters : (s.hbm w p n).clusters = s.clusters := by rw [hbm_spends s w p n]
@[simp] theorem State.hbm_launches : (s.hbm w p n).launches = s.launches := by rw [hbm_spends s w p n]
@[simp] theorem State.hbm_handles : (s.hbm w p n).handles = s.handles := by rw [hbm_spends s w p n]
@[simp] theorem State.hbm_ports : (s.hbm w p n).ports = s.ports := by rw [hbm_spends s w p n]
@[simp] theorem State.hbm_remotes : (s.hbm w p n).remotes = s.remotes := by rw [hbm_spends s w p n]
@[simp] theorem State.hbm_waitSets : (s.hbm w p n).waitSets = s.waitSets := by rw [hbm_spends s w p n]
@[simp] theorem State.hbm_timers : (s.hbm w p n).timers = s.timers := by rw [hbm_spends s w p n]
@[simp] theorem State.hbm_watches : (s.hbm w p n).watches = s.watches := by rw [hbm_spends s w p n]
@[simp] theorem State.hbm_copies : (s.hbm w p n).copies = s.copies := by rw [hbm_spends s w p n]
@[simp] theorem State.hbm_late : (s.hbm w p n).late = s.late := by rw [hbm_spends s w p n]
@[simp] theorem State.hbm_tensors : (s.hbm w p n).tensors = s.tensors := by rw [hbm_spends s w p n]
@[simp] theorem State.hbm_tiles : (s.hbm w p n).tiles = s.tiles := by rw [hbm_spends s w p n]
@[simp] theorem State.hbm_censuses : (s.hbm w p n).censuses = s.censuses := by rw [hbm_spends s w p n]
@[simp] theorem State.hbm_responders : (s.hbm w p n).responders = s.responders := by rw [hbm_spends s w p n]
@[simp] theorem State.hbm_latch : (s.hbm w p n).latch = s.latch := by rw [hbm_spends s w p n]
@[simp] theorem State.hbm_jointOps : (s.hbm w p n).jointOps = s.jointOps := by rw [hbm_spends s w p n]
@[simp] theorem State.hbm_products : (s.hbm w p n).products = s.products := by rw [hbm_spends s w p n]
@[simp] theorem State.hbm_mem : (s.hbm w p n).mem = s.mem := by rw [hbm_spends s w p n]
@[simp] theorem State.hbm_owners : (s.hbm w p n).owners = s.owners := by rw [hbm_spends s w p n]
@[simp] theorem State.hbm_lent : (s.hbm w p n).lent = s.lent := by rw [hbm_spends s w p n]
@[simp] theorem State.hbm_holds : (s.hbm w p n).holds = s.holds := by rw [hbm_spends s w p n]
@[simp] theorem State.hbm_tlb : (s.hbm w p n).tlb = s.tlb := by rw [hbm_spends s w p n]
@[simp] theorem State.hbm_wcb : (s.hbm w p n).wcb = s.wcb := by rw [hbm_spends s w p n]
@[simp] theorem State.hbm_invals : (s.hbm w p n).invals = s.invals := by rw [hbm_spends s w p n]
@[simp] theorem State.hbm_banks : (s.hbm w p n).banks = s.banks := by rw [hbm_spends s w p n]
@[simp] theorem State.hbm_gated : (s.hbm w p n).gated = s.gated := by rw [hbm_spends s w p n]
@[simp] theorem State.hbm_rimPorts : (s.hbm w p n).rimPorts = s.rimPorts := by rw [hbm_spends s w p n]
@[simp] theorem State.hbm_rimReqs : (s.hbm w p n).rimReqs = s.rimReqs := by rw [hbm_spends s w p n]
@[simp] theorem State.hbm_packets : (s.hbm w p n).packets = s.packets := by rw [hbm_spends s w p n]
@[simp] theorem State.hbm_funcs : (s.hbm w p n).funcs = s.funcs := by rw [hbm_spends s w p n]
@[simp] theorem State.hbm_svcCores : (s.hbm w p n).svcCores = s.svcCores := by rw [hbm_spends s w p n]
@[simp] theorem State.hbm_trainings : (s.hbm w p n).trainings = s.trainings := by rw [hbm_spends s w p n]
@[simp] theorem State.hbm_devs : (s.hbm w p n).devs = s.devs := by rw [hbm_spends s w p n]
@[simp] theorem State.hbm_podW : (s.hbm w p n).podW = s.podW := by rw [hbm_spends s w p n]
@[simp] theorem State.hbm_podH : (s.hbm w p n).podH = s.podH := by rw [hbm_spends s w p n]
@[simp] theorem State.hbm_poison : (s.hbm w p n).poison = s.poison := by rw [hbm_spends s w p n]
@[simp] theorem State.hbm_stores : (s.hbm w p n).stores = s.stores := by rw [hbm_spends s w p n]
@[simp] theorem State.hbm_nextUid : (s.hbm w p n).nextUid = s.nextUid := by rw [hbm_spends s w p n]
@[simp] theorem State.hbm_free : (s.hbm w p n).free = s.free := by rw [hbm_spends s w p n]
@[simp] theorem State.hbm_word : (s.hbm w p n).word = s.word := by rw [hbm_spends s w p n]
@[simp] theorem State.hbm_issueSeq : (s.hbm w p n).issueSeq = s.issueSeq := by rw [hbm_spends s w p n]
@[simp] theorem State.hbm_issuePorts : (s.hbm w p n).issuePorts = s.issuePorts := by rw [hbm_spends s w p n]
@[simp] theorem State.hbm_turn : (s.hbm w p n).turn = s.turn := by rw [hbm_spends s w p n]
@[simp] theorem State.hbm_inputs : (s.hbm w p n).inputs = s.inputs := by rw [hbm_spends s w p n]
end hbm

/-! ## Fields of a wave -/

section ws
variable (w : Wave) (r : SReg) (x : Word)

@[simp] theorem Wave.ws_uid : (w.ws r x).uid = w.uid := by unfold Wave.ws; split <;> rfl
@[simp] theorem Wave.ws_dev : (w.ws r x).dev = w.dev := by unfold Wave.ws; split <;> rfl
@[simp] theorem Wave.ws_core : (w.ws r x).core = w.core := by unfold Wave.ws; split <;> rfl
@[simp] theorem Wave.ws_ctx : (w.ws r x).ctx = w.ctx := by unfold Wave.ws; split <;> rfl
@[simp] theorem Wave.ws_team : (w.ws r x).team = w.team := by unfold Wave.ws; split <;> rfl
@[simp] theorem Wave.ws_kernel : (w.ws r x).kernel = w.kernel := by unfold Wave.ws; split <;> rfl
@[simp] theorem Wave.ws_handle : (w.ws r x).handle = w.handle := by unfold Wave.ws; split <;> rfl
@[simp] theorem Wave.ws_launch : (w.ws r x).launch = w.launch := by unfold Wave.ws; split <;> rfl
@[simp] theorem Wave.ws_ofLaunch : (w.ws r x).ofLaunch = w.ofLaunch := by unfold Wave.ws; split <;> rfl
@[simp] theorem Wave.ws_responder : (w.ws r x).responder = w.responder := by unfold Wave.ws; split <;> rfl
@[simp] theorem Wave.ws_ceiling : (w.ws r x).ceiling = w.ceiling := by unfold Wave.ws; split <;> rfl
@[simp] theorem Wave.ws_joinable : (w.ws r x).joinable = w.joinable := by unfold Wave.ws; split <;> rfl
@[simp] theorem Wave.ws_index : (w.ws r x).index = w.index := by unfold Wave.ws; split <;> rfl
@[simp] theorem Wave.ws_tpos : (w.ws r x).tpos = w.tpos := by unfold Wave.ws; split <;> rfl
@[simp] theorem Wave.ws_teamIndex : (w.ws r x).teamIndex = w.teamIndex := by unfold Wave.ws; split <;> rfl
@[simp] theorem Wave.ws_clusterIndex : (w.ws r x).clusterIndex = w.clusterIndex := by unfold Wave.ws; split <;> rfl
@[simp] theorem Wave.ws_gridpos : (w.ws r x).gridpos = w.gridpos := by unfold Wave.ws; split <;> rfl
@[simp] theorem Wave.ws_k : (w.ws r x).k = w.k := by unfold Wave.ws; split <;> rfl
@[simp] theorem Wave.ws_q : (w.ws r x).q = w.q := by unfold Wave.ws; split <;> rfl
@[simp] theorem Wave.ws_v : (w.ws r x).v = w.v := by unfold Wave.ws; split <;> rfl
@[simp] theorem Wave.ws_vregs : (w.ws r x).vregs = w.vregs := by unfold Wave.ws; split <;> rfl
@[simp] theorem Wave.ws_pc : (w.ws r x).pc = w.pc := by unfold Wave.ws; split <;> rfl
@[simp] theorem Wave.ws_prev : (w.ws r x).prev = w.prev := by unfold Wave.ws; split <;> rfl
@[simp] theorem Wave.ws_level : (w.ws r x).level = w.level := by unfold Wave.ws; split <;> rfl
@[simp] theorem Wave.ws_st : (w.ws r x).st = w.st := by unfold Wave.ws; split <;> rfl
@[simp] theorem Wave.ws_prio : (w.ws r x).prio = w.prio := by unfold Wave.ws; split <;> rfl
@[simp] theorem Wave.ws_live : (w.ws r x).live = w.live := by unfold Wave.ws; split <;> rfl
@[simp] theorem Wave.ws_fstat : (w.ws r x).fstat = w.fstat := by unfold Wave.ws; split <;> rfl
@[simp] theorem Wave.ws_fmode : (w.ws r x).fmode = w.fmode := by unfold Wave.ws; split <;> rfl
@[simp] theorem Wave.ws_dphase : (w.ws r x).dphase = w.dphase := by unfold Wave.ws; split <;> rfl
@[simp] theorem Wave.ws_chk : (w.ws r x).chk = w.chk := by unfold Wave.ws; split <;> rfl
@[simp] theorem Wave.ws_gang : (w.ws r x).gang = w.gang := by unfold Wave.ws; split <;> rfl
@[simp] theorem Wave.ws_hcause : (w.ws r x).hcause = w.hcause := by unfold Wave.ws; split <;> rfl
@[simp] theorem Wave.ws_hpc : (w.ws r x).hpc = w.hpc := by unfold Wave.ws; split <;> rfl
@[simp] theorem Wave.ws_hlpc : (w.ws r x).hlpc = w.hlpc := by unfold Wave.ws; split <;> rfl
@[simp] theorem Wave.ws_haddr : (w.ws r x).haddr = w.haddr := by unfold Wave.ws; split <;> rfl
@[simp] theorem Wave.ws_hlanes : (w.ws r x).hlanes = w.hlanes := by unfold Wave.ws; split <;> rfl
@[simp] theorem Wave.ws_hinfo : (w.ws r x).hinfo = w.hinfo := by unfold Wave.ws; split <;> rfl
@[simp] theorem Wave.ws_trapIrb : (w.ws r x).trapIrb = w.trapIrb := by unfold Wave.ws; split <;> rfl
@[simp] theorem Wave.ws_trapPath : (w.ws r x).trapPath = w.trapPath := by unfold Wave.ws; split <;> rfl
@[simp] theorem Wave.ws_trapCopy : (w.ws r x).trapCopy = w.trapCopy := by unfold Wave.ws; split <;> rfl
@[simp] theorem Wave.ws_trapWord : (w.ws r x).trapWord = w.trapWord := by unfold Wave.ws; split <;> rfl
@[simp] theorem Wave.ws_trapBoundary : (w.ws r x).trapBoundary = w.trapBoundary := by unfold Wave.ws; split <;> rfl
@[simp] theorem Wave.ws_eng : (w.ws r x).eng = w.eng := by unfold Wave.ws; split <;> rfl
@[simp] theorem Wave.ws_held : (w.ws r x).held = w.held := by unfold Wave.ws; split <;> rfl
@[simp] theorem Wave.ws_region : (w.ws r x).region = w.region := by unfold Wave.ws; split <;> rfl
@[simp] theorem Wave.ws_replays : (w.ws r x).replays = w.replays := by unfold Wave.ws; split <;> rfl
@[simp] theorem Wave.ws_pageWait : (w.ws r x).pageWait = w.pageWait := by unfold Wave.ws; split <;> rfl
@[simp] theorem Wave.ws_pageInfo : (w.ws r x).pageInfo = w.pageInfo := by unfold Wave.ws; split <;> rfl
@[simp] theorem Wave.ws_pageSince : (w.ws r x).pageSince = w.pageSince := by unfold Wave.ws; split <;> rfl
@[simp] theorem Wave.ws_batch : (w.ws r x).batch = w.batch := by unfold Wave.ws; split <;> rfl
@[simp] theorem Wave.ws_closed : (w.ws r x).closed = w.closed := by unfold Wave.ws; split <;> rfl
@[simp] theorem Wave.ws_pending : (w.ws r x).pending = w.pending := by unfold Wave.ws; split <;> rfl
@[simp] theorem Wave.ws_arrivals : (w.ws r x).arrivals = w.arrivals := by unfold Wave.ws; split <;> rfl
@[simp] theorem Wave.ws_wait : (w.ws r x).wait = w.wait := by unfold Wave.ws; split <;> rfl
@[simp] theorem Wave.ws_abandoned : (w.ws r x).abandoned = w.abandoned := by unfold Wave.ws; split <;> rfl
@[simp] theorem Wave.ws_poisonWait : (w.ws r x).poisonWait = w.poisonWait := by unfold Wave.ws; split <;> rfl
@[simp] theorem Wave.ws_seq : (w.ws r x).seq = w.seq := by unfold Wave.ws; split <;> rfl
@[simp] theorem Wave.ws_entered : (w.ws r x).entered = w.entered := by unfold Wave.ws; split <;> rfl
@[simp] theorem Wave.ws_swords : (w.ws r x).swords = w.swords := by unfold Wave.ws; split <;> rfl
@[simp] theorem Wave.ws_lwords : (w.ws r x).lwords = w.lwords := by unfold Wave.ws; split <;> rfl
@[simp] theorem Wave.ws_mjops : (w.ws r x).mjops = w.mjops := by unfold Wave.ws; split <;> rfl
@[simp] theorem Wave.ws_traps : (w.ws r x).traps = w.traps := by unfold Wave.ws; split <;> rfl
@[simp] theorem Wave.ws_loose : (w.ws r x).loose = w.loose := by unfold Wave.ws; split <;> rfl
@[simp] theorem Wave.ws_slot : (w.ws r x).slot = w.slot := by unfold Wave.ws; split <;> rfl
@[simp] theorem Wave.ws_cause : (w.ws r x).cause = w.cause := by unfold Wave.ws; split <;> rfl
@[simp] theorem Wave.ws_issued : (w.ws r x).issued = w.issued := by unfold Wave.ws; split <;> rfl
@[simp] theorem Wave.ws_yieldTo : (w.ws r x).yieldTo = w.yieldTo := by unfold Wave.ws; split <;> rfl
@[simp] theorem Wave.ws_yieldEnd : (w.ws r x).yieldEnd = w.yieldEnd := by unfold Wave.ws; split <;> rfl
end ws

section wk
variable (w : Wave) (r : KReg) (x : BitVec 32)

@[simp] theorem Wave.wk_uid : (w.wk r x).uid = w.uid := rfl
@[simp] theorem Wave.wk_dev : (w.wk r x).dev = w.dev := rfl
@[simp] theorem Wave.wk_core : (w.wk r x).core = w.core := rfl
@[simp] theorem Wave.wk_ctx : (w.wk r x).ctx = w.ctx := rfl
@[simp] theorem Wave.wk_team : (w.wk r x).team = w.team := rfl
@[simp] theorem Wave.wk_kernel : (w.wk r x).kernel = w.kernel := rfl
@[simp] theorem Wave.wk_handle : (w.wk r x).handle = w.handle := rfl
@[simp] theorem Wave.wk_launch : (w.wk r x).launch = w.launch := rfl
@[simp] theorem Wave.wk_ofLaunch : (w.wk r x).ofLaunch = w.ofLaunch := rfl
@[simp] theorem Wave.wk_responder : (w.wk r x).responder = w.responder := rfl
@[simp] theorem Wave.wk_ceiling : (w.wk r x).ceiling = w.ceiling := rfl
@[simp] theorem Wave.wk_joinable : (w.wk r x).joinable = w.joinable := rfl
@[simp] theorem Wave.wk_index : (w.wk r x).index = w.index := rfl
@[simp] theorem Wave.wk_tpos : (w.wk r x).tpos = w.tpos := rfl
@[simp] theorem Wave.wk_teamIndex : (w.wk r x).teamIndex = w.teamIndex := rfl
@[simp] theorem Wave.wk_clusterIndex : (w.wk r x).clusterIndex = w.clusterIndex := rfl
@[simp] theorem Wave.wk_gridpos : (w.wk r x).gridpos = w.gridpos := rfl
@[simp] theorem Wave.wk_s : (w.wk r x).s = w.s := rfl
@[simp] theorem Wave.wk_q : (w.wk r x).q = w.q := rfl
@[simp] theorem Wave.wk_v : (w.wk r x).v = w.v := rfl
@[simp] theorem Wave.wk_vregs : (w.wk r x).vregs = w.vregs := rfl
@[simp] theorem Wave.wk_pc : (w.wk r x).pc = w.pc := rfl
@[simp] theorem Wave.wk_prev : (w.wk r x).prev = w.prev := rfl
@[simp] theorem Wave.wk_level : (w.wk r x).level = w.level := rfl
@[simp] theorem Wave.wk_st : (w.wk r x).st = w.st := rfl
@[simp] theorem Wave.wk_prio : (w.wk r x).prio = w.prio := rfl
@[simp] theorem Wave.wk_live : (w.wk r x).live = w.live := rfl
@[simp] theorem Wave.wk_fstat : (w.wk r x).fstat = w.fstat := rfl
@[simp] theorem Wave.wk_fmode : (w.wk r x).fmode = w.fmode := rfl
@[simp] theorem Wave.wk_dphase : (w.wk r x).dphase = w.dphase := rfl
@[simp] theorem Wave.wk_chk : (w.wk r x).chk = w.chk := rfl
@[simp] theorem Wave.wk_gang : (w.wk r x).gang = w.gang := rfl
@[simp] theorem Wave.wk_hcause : (w.wk r x).hcause = w.hcause := rfl
@[simp] theorem Wave.wk_hpc : (w.wk r x).hpc = w.hpc := rfl
@[simp] theorem Wave.wk_hlpc : (w.wk r x).hlpc = w.hlpc := rfl
@[simp] theorem Wave.wk_haddr : (w.wk r x).haddr = w.haddr := rfl
@[simp] theorem Wave.wk_hlanes : (w.wk r x).hlanes = w.hlanes := rfl
@[simp] theorem Wave.wk_hinfo : (w.wk r x).hinfo = w.hinfo := rfl
@[simp] theorem Wave.wk_trapIrb : (w.wk r x).trapIrb = w.trapIrb := rfl
@[simp] theorem Wave.wk_trapPath : (w.wk r x).trapPath = w.trapPath := rfl
@[simp] theorem Wave.wk_trapCopy : (w.wk r x).trapCopy = w.trapCopy := rfl
@[simp] theorem Wave.wk_trapWord : (w.wk r x).trapWord = w.trapWord := rfl
@[simp] theorem Wave.wk_trapBoundary : (w.wk r x).trapBoundary = w.trapBoundary := rfl
@[simp] theorem Wave.wk_eng : (w.wk r x).eng = w.eng := rfl
@[simp] theorem Wave.wk_held : (w.wk r x).held = w.held := rfl
@[simp] theorem Wave.wk_region : (w.wk r x).region = w.region := rfl
@[simp] theorem Wave.wk_replays : (w.wk r x).replays = w.replays := rfl
@[simp] theorem Wave.wk_pageWait : (w.wk r x).pageWait = w.pageWait := rfl
@[simp] theorem Wave.wk_pageInfo : (w.wk r x).pageInfo = w.pageInfo := rfl
@[simp] theorem Wave.wk_pageSince : (w.wk r x).pageSince = w.pageSince := rfl
@[simp] theorem Wave.wk_batch : (w.wk r x).batch = w.batch := rfl
@[simp] theorem Wave.wk_closed : (w.wk r x).closed = w.closed := rfl
@[simp] theorem Wave.wk_pending : (w.wk r x).pending = w.pending := rfl
@[simp] theorem Wave.wk_arrivals : (w.wk r x).arrivals = w.arrivals := rfl
@[simp] theorem Wave.wk_wait : (w.wk r x).wait = w.wait := rfl
@[simp] theorem Wave.wk_abandoned : (w.wk r x).abandoned = w.abandoned := rfl
@[simp] theorem Wave.wk_poisonWait : (w.wk r x).poisonWait = w.poisonWait := rfl
@[simp] theorem Wave.wk_seq : (w.wk r x).seq = w.seq := rfl
@[simp] theorem Wave.wk_entered : (w.wk r x).entered = w.entered := rfl
@[simp] theorem Wave.wk_swords : (w.wk r x).swords = w.swords := rfl
@[simp] theorem Wave.wk_lwords : (w.wk r x).lwords = w.lwords := rfl
@[simp] theorem Wave.wk_mjops : (w.wk r x).mjops = w.mjops := rfl
@[simp] theorem Wave.wk_traps : (w.wk r x).traps = w.traps := rfl
@[simp] theorem Wave.wk_loose : (w.wk r x).loose = w.loose := rfl
@[simp] theorem Wave.wk_slot : (w.wk r x).slot = w.slot := rfl
@[simp] theorem Wave.wk_cause : (w.wk r x).cause = w.cause := rfl
@[simp] theorem Wave.wk_issued : (w.wk r x).issued = w.issued := rfl
@[simp] theorem Wave.wk_yieldTo : (w.wk r x).yieldTo = w.yieldTo := rfl
@[simp] theorem Wave.wk_yieldEnd : (w.wk r x).yieldEnd = w.yieldEnd := rfl
end wk

section wq
variable (w : Wave) (r : QReg) (x : Word)

@[simp] theorem Wave.wq_uid : (w.wq r x).uid = w.uid := rfl
@[simp] theorem Wave.wq_dev : (w.wq r x).dev = w.dev := rfl
@[simp] theorem Wave.wq_core : (w.wq r x).core = w.core := rfl
@[simp] theorem Wave.wq_ctx : (w.wq r x).ctx = w.ctx := rfl
@[simp] theorem Wave.wq_team : (w.wq r x).team = w.team := rfl
@[simp] theorem Wave.wq_kernel : (w.wq r x).kernel = w.kernel := rfl
@[simp] theorem Wave.wq_handle : (w.wq r x).handle = w.handle := rfl
@[simp] theorem Wave.wq_launch : (w.wq r x).launch = w.launch := rfl
@[simp] theorem Wave.wq_ofLaunch : (w.wq r x).ofLaunch = w.ofLaunch := rfl
@[simp] theorem Wave.wq_responder : (w.wq r x).responder = w.responder := rfl
@[simp] theorem Wave.wq_ceiling : (w.wq r x).ceiling = w.ceiling := rfl
@[simp] theorem Wave.wq_joinable : (w.wq r x).joinable = w.joinable := rfl
@[simp] theorem Wave.wq_index : (w.wq r x).index = w.index := rfl
@[simp] theorem Wave.wq_tpos : (w.wq r x).tpos = w.tpos := rfl
@[simp] theorem Wave.wq_teamIndex : (w.wq r x).teamIndex = w.teamIndex := rfl
@[simp] theorem Wave.wq_clusterIndex : (w.wq r x).clusterIndex = w.clusterIndex := rfl
@[simp] theorem Wave.wq_gridpos : (w.wq r x).gridpos = w.gridpos := rfl
@[simp] theorem Wave.wq_s : (w.wq r x).s = w.s := rfl
@[simp] theorem Wave.wq_k : (w.wq r x).k = w.k := rfl
@[simp] theorem Wave.wq_v : (w.wq r x).v = w.v := rfl
@[simp] theorem Wave.wq_vregs : (w.wq r x).vregs = w.vregs := rfl
@[simp] theorem Wave.wq_pc : (w.wq r x).pc = w.pc := rfl
@[simp] theorem Wave.wq_prev : (w.wq r x).prev = w.prev := rfl
@[simp] theorem Wave.wq_level : (w.wq r x).level = w.level := rfl
@[simp] theorem Wave.wq_st : (w.wq r x).st = w.st := rfl
@[simp] theorem Wave.wq_prio : (w.wq r x).prio = w.prio := rfl
@[simp] theorem Wave.wq_live : (w.wq r x).live = w.live := rfl
@[simp] theorem Wave.wq_fstat : (w.wq r x).fstat = w.fstat := rfl
@[simp] theorem Wave.wq_fmode : (w.wq r x).fmode = w.fmode := rfl
@[simp] theorem Wave.wq_dphase : (w.wq r x).dphase = w.dphase := rfl
@[simp] theorem Wave.wq_chk : (w.wq r x).chk = w.chk := rfl
@[simp] theorem Wave.wq_gang : (w.wq r x).gang = w.gang := rfl
@[simp] theorem Wave.wq_hcause : (w.wq r x).hcause = w.hcause := rfl
@[simp] theorem Wave.wq_hpc : (w.wq r x).hpc = w.hpc := rfl
@[simp] theorem Wave.wq_hlpc : (w.wq r x).hlpc = w.hlpc := rfl
@[simp] theorem Wave.wq_haddr : (w.wq r x).haddr = w.haddr := rfl
@[simp] theorem Wave.wq_hlanes : (w.wq r x).hlanes = w.hlanes := rfl
@[simp] theorem Wave.wq_hinfo : (w.wq r x).hinfo = w.hinfo := rfl
@[simp] theorem Wave.wq_trapIrb : (w.wq r x).trapIrb = w.trapIrb := rfl
@[simp] theorem Wave.wq_trapPath : (w.wq r x).trapPath = w.trapPath := rfl
@[simp] theorem Wave.wq_trapCopy : (w.wq r x).trapCopy = w.trapCopy := rfl
@[simp] theorem Wave.wq_trapWord : (w.wq r x).trapWord = w.trapWord := rfl
@[simp] theorem Wave.wq_trapBoundary : (w.wq r x).trapBoundary = w.trapBoundary := rfl
@[simp] theorem Wave.wq_eng : (w.wq r x).eng = w.eng := rfl
@[simp] theorem Wave.wq_held : (w.wq r x).held = w.held := rfl
@[simp] theorem Wave.wq_region : (w.wq r x).region = w.region := rfl
@[simp] theorem Wave.wq_replays : (w.wq r x).replays = w.replays := rfl
@[simp] theorem Wave.wq_pageWait : (w.wq r x).pageWait = w.pageWait := rfl
@[simp] theorem Wave.wq_pageInfo : (w.wq r x).pageInfo = w.pageInfo := rfl
@[simp] theorem Wave.wq_pageSince : (w.wq r x).pageSince = w.pageSince := rfl
@[simp] theorem Wave.wq_batch : (w.wq r x).batch = w.batch := rfl
@[simp] theorem Wave.wq_closed : (w.wq r x).closed = w.closed := rfl
@[simp] theorem Wave.wq_pending : (w.wq r x).pending = w.pending := rfl
@[simp] theorem Wave.wq_arrivals : (w.wq r x).arrivals = w.arrivals := rfl
@[simp] theorem Wave.wq_wait : (w.wq r x).wait = w.wait := rfl
@[simp] theorem Wave.wq_abandoned : (w.wq r x).abandoned = w.abandoned := rfl
@[simp] theorem Wave.wq_poisonWait : (w.wq r x).poisonWait = w.poisonWait := rfl
@[simp] theorem Wave.wq_seq : (w.wq r x).seq = w.seq := rfl
@[simp] theorem Wave.wq_entered : (w.wq r x).entered = w.entered := rfl
@[simp] theorem Wave.wq_swords : (w.wq r x).swords = w.swords := rfl
@[simp] theorem Wave.wq_lwords : (w.wq r x).lwords = w.lwords := rfl
@[simp] theorem Wave.wq_mjops : (w.wq r x).mjops = w.mjops := rfl
@[simp] theorem Wave.wq_traps : (w.wq r x).traps = w.traps := rfl
@[simp] theorem Wave.wq_loose : (w.wq r x).loose = w.loose := rfl
@[simp] theorem Wave.wq_slot : (w.wq r x).slot = w.slot := rfl
@[simp] theorem Wave.wq_cause : (w.wq r x).cause = w.cause := rfl
@[simp] theorem Wave.wq_issued : (w.wq r x).issued = w.issued := rfl
@[simp] theorem Wave.wq_yieldTo : (w.wq r x).yieldTo = w.yieldTo := rfl
@[simp] theorem Wave.wq_yieldEnd : (w.wq r x).yieldEnd = w.yieldEnd := rfl
end wq

section goto
variable (w : Wave) (p : Word)

@[simp] theorem Wave.goto_uid : (w.goto p).uid = w.uid := rfl
@[simp] theorem Wave.goto_dev : (w.goto p).dev = w.dev := rfl
@[simp] theorem Wave.goto_core : (w.goto p).core = w.core := rfl
@[simp] theorem Wave.goto_ctx : (w.goto p).ctx = w.ctx := rfl
@[simp] theorem Wave.goto_team : (w.goto p).team = w.team := rfl
@[simp] theorem Wave.goto_kernel : (w.goto p).kernel = w.kernel := rfl
@[simp] theorem Wave.goto_handle : (w.goto p).handle = w.handle := rfl
@[simp] theorem Wave.goto_launch : (w.goto p).launch = w.launch := rfl
@[simp] theorem Wave.goto_ofLaunch : (w.goto p).ofLaunch = w.ofLaunch := rfl
@[simp] theorem Wave.goto_responder : (w.goto p).responder = w.responder := rfl
@[simp] theorem Wave.goto_ceiling : (w.goto p).ceiling = w.ceiling := rfl
@[simp] theorem Wave.goto_joinable : (w.goto p).joinable = w.joinable := rfl
@[simp] theorem Wave.goto_index : (w.goto p).index = w.index := rfl
@[simp] theorem Wave.goto_tpos : (w.goto p).tpos = w.tpos := rfl
@[simp] theorem Wave.goto_teamIndex : (w.goto p).teamIndex = w.teamIndex := rfl
@[simp] theorem Wave.goto_clusterIndex : (w.goto p).clusterIndex = w.clusterIndex := rfl
@[simp] theorem Wave.goto_gridpos : (w.goto p).gridpos = w.gridpos := rfl
@[simp] theorem Wave.goto_s : (w.goto p).s = w.s := rfl
@[simp] theorem Wave.goto_k : (w.goto p).k = w.k := rfl
@[simp] theorem Wave.goto_q : (w.goto p).q = w.q := rfl
@[simp] theorem Wave.goto_v : (w.goto p).v = w.v := rfl
@[simp] theorem Wave.goto_vregs : (w.goto p).vregs = w.vregs := rfl
@[simp] theorem Wave.goto_level : (w.goto p).level = w.level := rfl
@[simp] theorem Wave.goto_prio : (w.goto p).prio = w.prio := rfl
@[simp] theorem Wave.goto_live : (w.goto p).live = w.live := rfl
@[simp] theorem Wave.goto_fstat : (w.goto p).fstat = w.fstat := rfl
@[simp] theorem Wave.goto_fmode : (w.goto p).fmode = w.fmode := rfl
@[simp] theorem Wave.goto_dphase : (w.goto p).dphase = w.dphase := rfl
@[simp] theorem Wave.goto_chk : (w.goto p).chk = w.chk := rfl
@[simp] theorem Wave.goto_gang : (w.goto p).gang = w.gang := rfl
@[simp] theorem Wave.goto_hcause : (w.goto p).hcause = w.hcause := rfl
@[simp] theorem Wave.goto_hpc : (w.goto p).hpc = w.hpc := rfl
@[simp] theorem Wave.goto_hlpc : (w.goto p).hlpc = w.hlpc := rfl
@[simp] theorem Wave.goto_haddr : (w.goto p).haddr = w.haddr := rfl
@[simp] theorem Wave.goto_hlanes : (w.goto p).hlanes = w.hlanes := rfl
@[simp] theorem Wave.goto_hinfo : (w.goto p).hinfo = w.hinfo := rfl
@[simp] theorem Wave.goto_trapIrb : (w.goto p).trapIrb = w.trapIrb := rfl
@[simp] theorem Wave.goto_trapPath : (w.goto p).trapPath = w.trapPath := rfl
@[simp] theorem Wave.goto_trapCopy : (w.goto p).trapCopy = w.trapCopy := rfl
@[simp] theorem Wave.goto_trapWord : (w.goto p).trapWord = w.trapWord := rfl
@[simp] theorem Wave.goto_trapBoundary : (w.goto p).trapBoundary = w.trapBoundary := rfl
@[simp] theorem Wave.goto_eng : (w.goto p).eng = w.eng := rfl
@[simp] theorem Wave.goto_held : (w.goto p).held = w.held := rfl
@[simp] theorem Wave.goto_region : (w.goto p).region = w.region := rfl
@[simp] theorem Wave.goto_replays : (w.goto p).replays = w.replays := rfl
@[simp] theorem Wave.goto_pageWait : (w.goto p).pageWait = w.pageWait := rfl
@[simp] theorem Wave.goto_pageInfo : (w.goto p).pageInfo = w.pageInfo := rfl
@[simp] theorem Wave.goto_pageSince : (w.goto p).pageSince = w.pageSince := rfl
@[simp] theorem Wave.goto_batch : (w.goto p).batch = w.batch := rfl
@[simp] theorem Wave.goto_closed : (w.goto p).closed = w.closed := rfl
@[simp] theorem Wave.goto_pending : (w.goto p).pending = w.pending := rfl
@[simp] theorem Wave.goto_arrivals : (w.goto p).arrivals = w.arrivals := rfl
@[simp] theorem Wave.goto_abandoned : (w.goto p).abandoned = w.abandoned := rfl
@[simp] theorem Wave.goto_poisonWait : (w.goto p).poisonWait = w.poisonWait := rfl
@[simp] theorem Wave.goto_seq : (w.goto p).seq = w.seq := rfl
@[simp] theorem Wave.goto_entered : (w.goto p).entered = w.entered := rfl
@[simp] theorem Wave.goto_lwords : (w.goto p).lwords = w.lwords := rfl
@[simp] theorem Wave.goto_mjops : (w.goto p).mjops = w.mjops := rfl
@[simp] theorem Wave.goto_traps : (w.goto p).traps = w.traps := rfl
@[simp] theorem Wave.goto_loose : (w.goto p).loose = w.loose := rfl
@[simp] theorem Wave.goto_slot : (w.goto p).slot = w.slot := rfl
@[simp] theorem Wave.goto_cause : (w.goto p).cause = w.cause := rfl
@[simp] theorem Wave.goto_issued : (w.goto p).issued = w.issued := rfl
@[simp] theorem Wave.goto_yieldTo : (w.goto p).yieldTo = w.yieldTo := rfl
@[simp] theorem Wave.goto_yieldEnd : (w.goto p).yieldEnd = w.yieldEnd := rfl
end goto

section movedTo
variable (w : Wave) (p : Word)

@[simp] theorem Wave.movedTo_uid : (w.movedTo p).uid = w.uid := rfl
@[simp] theorem Wave.movedTo_dev : (w.movedTo p).dev = w.dev := rfl
@[simp] theorem Wave.movedTo_core : (w.movedTo p).core = w.core := rfl
@[simp] theorem Wave.movedTo_ctx : (w.movedTo p).ctx = w.ctx := rfl
@[simp] theorem Wave.movedTo_team : (w.movedTo p).team = w.team := rfl
@[simp] theorem Wave.movedTo_kernel : (w.movedTo p).kernel = w.kernel := rfl
@[simp] theorem Wave.movedTo_handle : (w.movedTo p).handle = w.handle := rfl
@[simp] theorem Wave.movedTo_launch : (w.movedTo p).launch = w.launch := rfl
@[simp] theorem Wave.movedTo_ofLaunch : (w.movedTo p).ofLaunch = w.ofLaunch := rfl
@[simp] theorem Wave.movedTo_responder : (w.movedTo p).responder = w.responder := rfl
@[simp] theorem Wave.movedTo_ceiling : (w.movedTo p).ceiling = w.ceiling := rfl
@[simp] theorem Wave.movedTo_joinable : (w.movedTo p).joinable = w.joinable := rfl
@[simp] theorem Wave.movedTo_index : (w.movedTo p).index = w.index := rfl
@[simp] theorem Wave.movedTo_tpos : (w.movedTo p).tpos = w.tpos := rfl
@[simp] theorem Wave.movedTo_teamIndex : (w.movedTo p).teamIndex = w.teamIndex := rfl
@[simp] theorem Wave.movedTo_clusterIndex : (w.movedTo p).clusterIndex = w.clusterIndex := rfl
@[simp] theorem Wave.movedTo_gridpos : (w.movedTo p).gridpos = w.gridpos := rfl
@[simp] theorem Wave.movedTo_s : (w.movedTo p).s = w.s := rfl
@[simp] theorem Wave.movedTo_k : (w.movedTo p).k = w.k := rfl
@[simp] theorem Wave.movedTo_q : (w.movedTo p).q = w.q := rfl
@[simp] theorem Wave.movedTo_v : (w.movedTo p).v = w.v := rfl
@[simp] theorem Wave.movedTo_vregs : (w.movedTo p).vregs = w.vregs := rfl
@[simp] theorem Wave.movedTo_level : (w.movedTo p).level = w.level := rfl
@[simp] theorem Wave.movedTo_prio : (w.movedTo p).prio = w.prio := rfl
@[simp] theorem Wave.movedTo_live : (w.movedTo p).live = w.live := rfl
@[simp] theorem Wave.movedTo_fstat : (w.movedTo p).fstat = w.fstat := rfl
@[simp] theorem Wave.movedTo_fmode : (w.movedTo p).fmode = w.fmode := rfl
@[simp] theorem Wave.movedTo_dphase : (w.movedTo p).dphase = w.dphase := rfl
@[simp] theorem Wave.movedTo_chk : (w.movedTo p).chk = w.chk := rfl
@[simp] theorem Wave.movedTo_gang : (w.movedTo p).gang = w.gang := rfl
@[simp] theorem Wave.movedTo_hcause : (w.movedTo p).hcause = w.hcause := rfl
@[simp] theorem Wave.movedTo_hpc : (w.movedTo p).hpc = w.hpc := rfl
@[simp] theorem Wave.movedTo_hlpc : (w.movedTo p).hlpc = w.hlpc := rfl
@[simp] theorem Wave.movedTo_haddr : (w.movedTo p).haddr = w.haddr := rfl
@[simp] theorem Wave.movedTo_hlanes : (w.movedTo p).hlanes = w.hlanes := rfl
@[simp] theorem Wave.movedTo_hinfo : (w.movedTo p).hinfo = w.hinfo := rfl
@[simp] theorem Wave.movedTo_trapIrb : (w.movedTo p).trapIrb = w.trapIrb := rfl
@[simp] theorem Wave.movedTo_trapPath : (w.movedTo p).trapPath = w.trapPath := rfl
@[simp] theorem Wave.movedTo_trapCopy : (w.movedTo p).trapCopy = w.trapCopy := rfl
@[simp] theorem Wave.movedTo_trapWord : (w.movedTo p).trapWord = w.trapWord := rfl
@[simp] theorem Wave.movedTo_trapBoundary : (w.movedTo p).trapBoundary = w.trapBoundary := rfl
@[simp] theorem Wave.movedTo_eng : (w.movedTo p).eng = w.eng := rfl
@[simp] theorem Wave.movedTo_held : (w.movedTo p).held = w.held := rfl
@[simp] theorem Wave.movedTo_region : (w.movedTo p).region = w.region := rfl
@[simp] theorem Wave.movedTo_replays : (w.movedTo p).replays = w.replays := rfl
@[simp] theorem Wave.movedTo_pageWait : (w.movedTo p).pageWait = w.pageWait := rfl
@[simp] theorem Wave.movedTo_pageInfo : (w.movedTo p).pageInfo = w.pageInfo := rfl
@[simp] theorem Wave.movedTo_pageSince : (w.movedTo p).pageSince = w.pageSince := rfl
@[simp] theorem Wave.movedTo_batch : (w.movedTo p).batch = w.batch := rfl
@[simp] theorem Wave.movedTo_closed : (w.movedTo p).closed = w.closed := rfl
@[simp] theorem Wave.movedTo_pending : (w.movedTo p).pending = w.pending := rfl
@[simp] theorem Wave.movedTo_arrivals : (w.movedTo p).arrivals = w.arrivals := rfl
@[simp] theorem Wave.movedTo_abandoned : (w.movedTo p).abandoned = w.abandoned := rfl
@[simp] theorem Wave.movedTo_poisonWait : (w.movedTo p).poisonWait = w.poisonWait := rfl
@[simp] theorem Wave.movedTo_seq : (w.movedTo p).seq = w.seq := rfl
@[simp] theorem Wave.movedTo_entered : (w.movedTo p).entered = w.entered := rfl
@[simp] theorem Wave.movedTo_lwords : (w.movedTo p).lwords = w.lwords := rfl
@[simp] theorem Wave.movedTo_mjops : (w.movedTo p).mjops = w.mjops := rfl
@[simp] theorem Wave.movedTo_traps : (w.movedTo p).traps = w.traps := rfl
@[simp] theorem Wave.movedTo_loose : (w.movedTo p).loose = w.loose := rfl
@[simp] theorem Wave.movedTo_slot : (w.movedTo p).slot = w.slot := rfl
@[simp] theorem Wave.movedTo_cause : (w.movedTo p).cause = w.cause := rfl
@[simp] theorem Wave.movedTo_issued : (w.movedTo p).issued = w.issued := rfl
@[simp] theorem Wave.movedTo_yieldTo : (w.movedTo p).yieldTo = w.yieldTo := rfl
@[simp] theorem Wave.movedTo_yieldEnd : (w.movedTo p).yieldEnd = w.yieldEnd := rfl
end movedTo

/-! ## Registers -/

/-- What a read of a scalar register gives after a write (R61). -/
theorem Wave.rs_ws (w : Wave) (d r : SReg) (x : Word) : (w.ws d x).rs r = if r = d ∧ d ≠ 0 then x else w.rs r := by
  unfold Wave.ws Wave.rs
  by_cases hd : d = 0
  · simp [hd]
  · by_cases hr : r = 0
    · subst hr
      have : ¬ (0 = d ∧ d ≠ 0) := fun h => hd h.1.symm
      simp only [if_neg hd, if_neg this, if_true]
    · simp only [if_neg hd, if_neg hr, Vector.getElem_set]
      by_cases h : r = d
      · subst h; rw [if_pos rfl, if_pos ⟨rfl, hd⟩]
      · have : d.toNat ≠ r.toNat := fun e => h (BitVec.eq_of_toNat_eq e.symm)
        simp [h, this]

theorem Wave.rk_wk (w : Wave) (d r : KReg) (x : BitVec 32) : (w.wk d x).rk r = if r = d then x else w.rk r := by
  unfold Wave.wk Wave.rk
  simp only [Vector.getElem_set]
  by_cases h : r = d
  · simp [h]
  · have : d.toNat ≠ r.toNat := fun e => h (BitVec.eq_of_toNat_eq e.symm)
    simp [h, this]

theorem Wave.rq_wq (w : Wave) (d r : QReg) (x : Word) : (w.wq d x).rq r = if r = d then x else w.rq r := by
  unfold Wave.wq Wave.rq
  simp only [Vector.getElem_set]
  by_cases h : r = d
  · simp [h]
  · have : d.toNat ≠ r.toNat := fun e => h (BitVec.eq_of_toNat_eq e.symm)
    simp [h, this]

@[simp] theorem State.rs_ws (s : State) (d r : SReg) (x : Word) : (s.ws d x).rs r = if r = d ∧ d ≠ 0 then x else s.rs r :=
  Wave.rs_ws s.cw d r x

/-- Where a word goes on, in the words of the statements. -/
theorem Wave.goto_eq (w : Wave) (p : Word) : w.goto p = w.movedTo p := by simp [Wave.goto, Wave.movedTo, Wave.awake]

@[simp] theorem State.retire_cw (s : State) : s.retire.cw = s.cw.movedTo (s.cw.pc + 4) := Wave.goto_eq ..
@[simp] theorem State.jump_cw (s : State) (p : Word) : (s.jump p).cw = s.cw.movedTo p := Wave.goto_eq ..
@[simp] theorem Wave.movedTo_pc (w : Wave) (p : Word) : (w.movedTo p).pc = p := rfl

/-! ## Records keyed by a number -/

/-- Looking up a record in a list of which those of one key were changed, where a change keeps the key. -/
theorem find_updBy {α : Type} {key : α → Nat} {f : α → α} (hf : ∀ x, key (f x) = key x) (u v : Nat) (l : List α) :
    (updBy key u f l).find? (fun x => key x == v) = if v = u then (l.find? fun x => key x == v).map f else l.find? fun x => key x == v := by
  unfold updBy
  induction l with
  | nil => simp
  | cons x l ih =>
    simp only [List.map_cons, List.find?_cons]
    by_cases hx : key x = u
    · subst hx
      simp only [beq_self_eq_true, if_true, hf]
      by_cases hv : v = key x
      · subst hv; simp
      · have : (key x == v) = false := by simpa using fun h => hv h.symm
        simp only [this, if_neg hv] at ih ⊢
        exact ih
    · have h1 : (key x == u) = false := by simpa using hx
      simp only [h1, Bool.false_eq_true, if_false]
      by_cases hv : key x = v
      · subst hv
        simp [hx]
      · have : (key x == v) = false := by simpa using hv
        simp only [this]
        exact ih

section find
variable (s : State) (u v : Nat)

theorem State.team_updTeam {f : Team → Team} (hf : ∀ x, (f x).uid = x.uid) :
    (s.updTeam u f).team? v = if v = u then (s.team? v).map f else s.team? v := find_updBy hf u v s.teams
theorem State.cluster_updCluster {f : Cluster → Cluster} (hf : ∀ x, (f x).uid = x.uid) :
    (s.updCluster u f).cluster? v = if v = u then (s.cluster? v).map f else s.cluster? v := find_updBy hf u v s.clusters
theorem State.ctx_updCtx {f : Ctx → Ctx} (hf : ∀ x, (f x).uid = x.uid) :
    (s.updCtx u f).ctx? v = if v = u then (s.ctx? v).map f else s.ctx? v := find_updBy hf u v s.ctxs
theorem State.port_updPort {f : Port → Port} (hf : ∀ x, (f x).uid = x.uid) :
    (s.updPort u f).port? v = if v = u then (s.port? v).map f else s.port? v := find_updBy hf u v s.ports
theorem State.copy_updCopy {f : Copy → Copy} (hf : ∀ x, (f x).uid = x.uid) :
    (s.updCopy u f).copy? v = if v = u then (s.copy? v).map f else s.copy? v := find_updBy hf u v s.copies
theorem State.tensor_updTensor {f : Tensor → Tensor} (hf : ∀ x, (f x).uid = x.uid) :
    (s.updTensor u f).tensor? v = if v = u then (s.tensor? v).map f else s.tensor? v := find_updBy hf u v s.tensors
theorem State.tile_updTile {f : TileEnt → TileEnt} (hf : ∀ x, (f x).uid = x.uid) :
    (s.updTile u f).tile? v = if v = u then (s.tile? v).map f else s.tile? v := find_updBy hf u v s.tiles
theorem State.census_updCensus {f : Census → Census} (hf : ∀ x, (f x).uid = x.uid) :
    (s.updCensus u f).census? v = if v = u then (s.census? v).map f else s.census? v := find_updBy hf u v s.censuses
theorem State.timer_updTimer {f : Timer → Timer} (hf : ∀ x, (f x).uid = x.uid) :
    (s.updTimer u f).timer? v = if v = u then (s.timer? v).map f else s.timer? v := find_updBy hf u v s.timers
theorem State.watch_updWatch {f : Watch → Watch} (hf : ∀ x, (f x).uid = x.uid) :
    (s.updWatch u f).watch? v = if v = u then (s.watch? v).map f else s.watch? v := find_updBy hf u v s.watches
theorem State.launch_updLaunch {f : Launch → Launch} (hf : ∀ x, (f x).uid = x.uid) :
    (s.updLaunch u f).launch? v = if v = u then (s.launch? v).map f else s.launch? v := find_updBy hf u v s.launches
theorem State.dev_updDev {f : Dev → Dev} (hf : ∀ x, (f x).id = x.id) :
    (s.updDev u f).dev? v = if v = u then (s.dev? v).map f else s.dev? v := find_updBy hf u v s.devs

end find

/-- The same for records keyed by a device and a number. -/
theorem find_map2 {α : Type} {p q : α → Nat} {f : α → α} (hp : ∀ x, p (f x) = p x) (hq : ∀ x, q (f x) = q x) (d n e m : Nat) (l : List α) :
    (l.map fun x => if p x == d && q x == n then f x else x).find? (fun x => p x == e && q x == m) =
      if e = d ∧ m = n then (l.find? fun x => p x == e && q x == m).map f else l.find? fun x => p x == e && q x == m := by
  induction l with
  | nil => simp
  | cons x l ih =>
    simp only [List.map_cons, List.find?_cons]
    by_cases hx : p x = d ∧ q x = n
    · obtain ⟨rfl, rfl⟩ := hx
      simp only [beq_self_eq_true, Bool.and_self, if_true, hp, hq]
      by_cases hv : e = p x ∧ m = q x
      · obtain ⟨rfl, rfl⟩ := hv; simp
      · have : (p x == e && q x == m) = false := by
          rw [Bool.and_eq_false_iff, beq_eq_false_iff_ne, beq_eq_false_iff_ne]
          by_cases h : p x = e
          · exact .inr fun h' => hv ⟨h.symm, h'.symm⟩
          · exact .inl h
        simp only [this, if_neg hv] at ih ⊢
        exact ih
    · have h1 : (p x == d && q x == n) = false := by
        rw [Bool.and_eq_false_iff, beq_eq_false_iff_ne, beq_eq_false_iff_ne]
        by_cases h : p x = d
        · exact .inr fun h' => hx ⟨h, h'⟩
        · exact .inl h
      simp only [h1, Bool.false_eq_true, if_false]
      cases hv : (p x == e && q x == m)
      · exact ih
      · rw [Bool.and_eq_true, beq_iff_eq, beq_iff_eq] at hv
        obtain ⟨rfl, rfl⟩ := hv
        simp [hx]

section find2
variable (s : State) (d n e m : Nat)

theorem State.func_updFunc {f : Func → Func} (hd : ∀ x, (f x).dev = x.dev) (hn : ∀ x, (f x).num = x.num) :
    (s.updFunc d n f).func? e m = if e = d ∧ m = n then (s.func? e m).map f else s.func? e m := find_map2 hd hn d n e m s.funcs
theorem State.part_updPart {f : Part → Part} (hd : ∀ x, (f x).dev = x.dev) (hn : ∀ x, (f x).num = x.num) :
    (s.updPart d n f).part? e m = if e = d ∧ m = n then (s.part? e m).map f else s.part? e m := find_map2 hd hn d n e m s.parts

end find2


end Sys2Proof.Machine
end

