-- ==== Sys2Proof/Laws/Drain.lean ====
section
/-!
SUPPORT. What performing buffered remote stores can do, said once: drained entries leave their buffer, their bytes are written or their
waves trap, and nothing else of the machine changes. Memory keeps its canonical form.
-/

namespace Sys2Proof.Machine

/-- Writing bytes at offsets of a line keeps the canonical form. -/
theorem Memory.wf_writeEach {m : List Host.Cell} (base : Nat) (l : List (Nat × Byte)) (h : Memory.wf m = true) :
    Memory.wf (l.foldl (fun m b => Memory.write m (base + b.1) b.2) m) = true := by
  induction l generalizing m with
  | nil => exact h
  | cons b l ih => exact ih (Memory.wf_write _ _ h)

/-- Setting a bit of several table entries keeps the canonical form. -/
theorem Memory.wf_orEach {m : List Host.Cell} (bits : Byte) (l : List Nat) (h : Memory.wf m = true) :
    Memory.wf (l.foldl (fun m a => orByte m a bits) m) = true := by
  induction l generalizing m with
  | nil => exact h
  | cons a l ih => exact ih (Memory.wf_orByte _ _ h)

/-- Between two states stores left their buffers, with the effects that such stores can have. -/
structure Drains (s t : State) : Prop where
  rest : t = { s with mem := t.mem, wcb := t.wcb, poison := t.poison, watches := t.watches, parts := t.parts, buckets := t.buckets,
                      ctxs := t.ctxs, cw := t.cw, waves := t.waves, funcs := t.funcs, free := t.free }
  canonical : Memory.wf s.mem = true → Memory.wf t.mem = true

theorem Drains.refl (s : State) : Drains s s := ⟨rfl, id⟩

theorem Drains.trans {s t u : State} (h : Drains s t) (h' : Drains t u) : Drains s u :=
  ⟨h'.rest.trans (by rw [h.rest]), fun w => h'.canonical (h.canonical w)⟩

theorem foldl_drains {α : Type} {f : State → α → State} (hf : ∀ s x, Drains s (f s x)) (l : List α) (s : State) :
    Drains s (l.foldl f s) := by
  induction l generalizing s with
  | nil => exact .refl s
  | cons x l ih => exact (hf s x).trans (ih _)

theorem Spends.drains {s t : State} (h : Spends s t) : Drains s t := by
  unfold Spends at h
  rw [h]
  exact ⟨rfl, id⟩

theorem seeWrite_drains (s : State) (a n : Nat) : Drains s (s.seeWrite a n) := ⟨rfl, id⟩

theorem updWave_drains (s : State) (u : Nat) (f : Wave → Wave) : Drains s (s.updWave u f) := by
  unfold State.updWave; split <;> exact ⟨rfl, id⟩

/-- A line written is written, cured of poison and seen by watches. -/
theorem writeLine_drains (s : State) (line : Nat) (bytes : List (Nat × Byte)) : Drains s (s.writeLine line bytes) := by
  unfold State.writeLine
  refine Drains.trans ⟨?_, ?_⟩ (foldl_drains (fun s i => ?_) _ _)
  · exact rfl
  · exact Memory.wf_writeEach line bytes
  · split
    · exact seeWrite_drains ..
    · exact .refl s

/-- One entry drained, or refused. -/
theorem drain_drains (s : State) (e : WcbEntry) (refuse : Option Nat) : Drains s (s.drain e refuse) := by
  have dropped : Drains s { s with wcb := s.wcb.filter fun x => !(x == e) } := ⟨rfl, id⟩
  unfold State.drain
  refine dropped.trans ?_
  cases refuse with
  | none => exact (moved_spends ..).drains.trans (writeLine_drains ..)
  | some cause =>
    simp only
    split
    · split
      · exact ⟨rfl, id⟩
      · exact .refl _
    · exact foldl_drains (fun s u => updWave_drains ..) _ _

/-- Entries that a test selects, drained. -/
theorem drainWhere_drains (s : State) (p : WcbEntry → Bool) : Drains s (s.drainWhere p) :=
  foldl_drains (fun _ _ => drain_drains ..) _ _

/-- A read drains what its wave has buffered for the line, and nothing else changes (R237, R238). -/
theorem beforeRead_drains (s : State) (w : Who) (wave phys : Nat) : Drains s (s.beforeRead w wave phys) := by
  unfold State.beforeRead
  split
  · exact drainWhere_drains ..
  · exact .refl s

theorem Drains.setWcb {s t : State} (h : Drains s t) (x : List WcbEntry) : Drains s { t with wcb := x } := h.trans ⟨rfl, id⟩

/-- Bytes merged into a buffer change what a drain changes (R237). -/
theorem wcbMerge_drains (s : State) (w : Who) (wave : Nat) (hand : Bool) (line : Nat) (bytes : List (Nat × Byte)) :
    Drains s (s.wcbMerge w wave hand line bytes) := by
  unfold State.wcbMerge
  refine Drains.trans (Drains.setWcb ?_ _) (drainWhere_drains _ _)
  split
  · exact drainWhere_drains ..
  · refine Drains.setWcb ?_ _
    split
    · split
      · exact (drainWhere_drains ..).trans (drain_drains ..)
      · exact drainWhere_drains ..
    · exact drainWhere_drains ..

theorem wcbStore_drains (s : State) (w : Who) (wave : Wave) (phys : Nat) (bytes : List Byte) : Drains s (s.wcbStore w wave phys bytes) :=
  wcbMerge_drains ..

end Sys2Proof.Machine
end

