-- ==== Sys2Proof/Laws/Joint.lean ====
section
/-!
SUPPORT. What a write of a register does to joint matrix work in progress, said once: it marks operations and leaves tiles undefined, and
with no such work it does nothing.
-/

namespace Sys2Proof.Machine

/-! ## Joint operations whose operands are written (R247, R289) -/

/-- Between two states only the marks of joint operations and the tiles that they leave undefined differ. -/
def Disturbs (s t : State) : Prop :=
  t = { s with jointOps := t.jointOps, latch := t.latch, products := t.products, teams := t.teams, free := t.free }

theorem Disturbs.refl (s : State) : Disturbs s s := rfl
theorem Disturbs.trans {s t u : State} (h : Disturbs s t) (h' : Disturbs t u) : Disturbs s u := by
  unfold Disturbs at h h' ⊢; rw [h'.trans (by rw [h])]

theorem Disturbs.fields {s t : State} (h : Disturbs s t) :
    ∃ a b c d e, t = { s with jointOps := a, latch := b, products := c, teams := d, free := e } := ⟨_, _, _, _, _, h⟩

theorem foldl_disturbs {α : Type} {f : State → α → State} (hf : ∀ s x, Disturbs s (f s x)) (l : List α) (s : State) :
    Disturbs s (l.foldl f s) := by
  induction l generalizing s with
  | nil => exact .refl s
  | cons x l ih => exact (hf s x).trans (ih _)

/-- Whether joint matrix work of any kind is in progress or unawaited. -/
def State.NoJoint (s : State) : Prop := s.jointOps = [] ∧ s.latch = [] ∧ s.products = []

theorem disturb_disturbs (s : State) (hit : Nat → Nat → Nat → List MjArrival → Bool) : Disturbs s (s.disturb hit) := by
  unfold State.disturb
  refine Disturbs.trans ?_ (foldl_disturbs (fun s j => ?_) _ _)
  · exact rfl
  · unfold State.undefTiles
    split <;> exact rfl

theorem disturb_none {s : State} (h : s.NoJoint) (hit : Nat → Nat → Nat → List MjArrival → Bool) : s.disturb hit = s := by
  obtain ⟨hj, hl, hp⟩ := h
  unfold State.disturb
  cases s
  simp_all only [List.filter_nil, List.map_nil, List.foldl_nil]

/-- A write of a register marks joint operations and leaves tiles undefined, and does nothing else beside. -/
theorem dirtyReg_disturbs (s : State) (u : Nat) (r : RegRef) : Disturbs s (s.dirtyReg u r) := by
  cases r with
  | v n => unfold State.dirtyReg; exact disturb_disturbs ..
  | k n => exact .refl s
  | q n => exact .refl s

theorem dirtyReg_none {s : State} (h : s.NoJoint) (u : Nat) (r : RegRef) : s.dirtyReg u r = s := by
  cases r with
  | v n => unfold State.dirtyReg; exact disturb_none h _
  | k n => rfl
  | q n => rfl

theorem dirtyPends_disturbs (s : State) (w : Wave) : Disturbs s (s.dirtyPends w) := by
  unfold State.dirtyPends
  split
  · exact .refl s
  · exact foldl_disturbs (fun s p => dirtyReg_disturbs ..) _ _

theorem dirtyPends_none {s : State} (h : s.NoJoint) (w : Wave) : s.dirtyPends w = s := by
  obtain ⟨hj, hl, hp⟩ := h
  simp [State.dirtyPends, hj, hl, hp]

end Sys2Proof.Machine
end

