-- ==== Sys2Proof/Laws/Run.lean ====
section
/-!
SUPPORT. How a meaning in steps runs: one equation for each way in which steps are put together, so that a proof unfolds a call
into its checks and its effect without unfolding the monad.
-/

namespace Sys2Proof.Machine

variable {α β : Type}

@[simp] theorem run_pure (x : α) (s : State) : (pure x : Op α).run s = .ok x s := rfl

@[simp] theorem run_bind (x : Op α) (f : α → Op β) (s : State) :
    (x >>= f).run s = match x.run s with
      | .ok a t => (f a).run t
      | .error e t => .error e t := by
  simp only [bind, EStateM.bind, EStateM.run]
  cases x s <;> rfl

@[simp] theorem run_get (s : State) : (get : Op State).run s = .ok s s := rfl
@[simp] theorem run_set (t s : State) : (set t : Op PUnit).run s = .ok ⟨⟩ t := rfl
@[simp] theorem run_modify (f : State → State) (s : State) : (modify f : Op PUnit).run s = .ok ⟨⟩ (f s) := rfl
@[simp] theorem run_throw (e : Stop) (s : State) : (throw e : Op α).run s = .error e s := rfl
@[simp] theorem run_map (f : α → β) (x : Op α) (s : State) :
    (f <$> x).run s = match x.run s with
      | .ok a t => .ok (f a) t
      | .error e t => .error e t := by
  simp only [Functor.map, EStateM.map, EStateM.run]
  cases x s <;> rfl

@[simp] theorem run_ite (c : Prop) [Decidable c] (x y : Op α) (s : State) :
    (if c then x else y).run s = if c then x.run s else y.run s := by split <;> rfl

@[simp] theorem run_trap (cause : Nat) (addr info : Word) (s : State) :
    (trap cause addr info : Op α).run s = .error (.trap { cause, addr, info }) s := rfl
@[simp] theorem run_stall (s : State) : (stall : Op α).run s = .error (.wait .plain 0 0 false) s := rfl
@[simp] theorem run_block (k : WaitKind) (o : Nat) (d : SReg) (s : State) :
    (block k o d : Op α).run s = .error (.wait k o d true) s := rfl
@[simp] theorem run_finish (s : State) : (finish : Op α).run s = .error .finished s := rfl
@[simp] theorem run_result (d : SReg) (x : Word) (s : State) : (result d x : Op α).run s = .error .finished (s.ws d x) := rfl
@[simp] theorem run_status (d : SReg) (code low : Nat) (s : State) :
    (status d code low : Op α).run s = .error .finished (s.ws d (.ofNat 64 (code * 2 ^ 32 + low))) := rfl

/-- A register that no poison marks reads as it stands. -/
theorem run_rd {r : SReg} {s : State} (h : .sReg s.cw.uid r ∉ s.poison) : (rd r).run s = .ok (s.rs r) s := by
  simp [rd, h]

/-- A poisoned register traps (R399). -/
theorem run_rd_poison {r : SReg} {s : State} (h : .sReg s.cw.uid r ∈ s.poison) :
    (rd r).run s = .error (.trap { cause := 0x71, info := 6 }) s := by
  simp [rd, h]

theorem run_noRegion {s : State} (h : s.cw.region = none) : noRegion.run s = .ok ⟨⟩ s := by simp [noRegion, h]

theorem run_noRegion_open {s : State} (h : s.cw.region.isSome = true) :
    noRegion.run s = .error (.trap { cause := REGION_ILLEGAL }) s := by
  simp [noRegion, h]

theorem run_laneWait {s : State} (h : s.cw.eng.queue = []) : laneWait.run s = .ok ⟨⟩ s := by
  simp [laneWait, State.blocksAtMost, h]

theorem run_runFits {r : SReg} {n : Nat} {s : State} (h : r.toNat + n ≤ 64) : (runFits r n).run s = .ok ⟨⟩ s := by
  simp [runFits, Nat.not_lt.mpr h]

theorem run_myCtx {s : State} {c : Ctx} (h : s.ctx? s.cw.ctx = some c) : myCtx.run s = .ok c s := by simp [myCtx, h]
theorem run_myTeam {s : State} {t : Team} (h : s.team? s.cw.team = some t) : myTeam.run s = .ok t s := by simp [myTeam, h]
theorem run_myKernel {s : State} {k : Kernel} (h : s.kernelOf s.cw = some k) : myKernel.run s = .ok k s := by
  simp [myKernel, h]

theorem run_needEntry {s : State} {c : Ctx} {d : SReg} {nb : Bool} (h : s.ctx? s.cw.ctx = some c) (hf : s.sliceFull c = false) :
    (needEntry d nb).run s = .ok ⟨⟩ s := by
  simp [needEntry, run_myCtx h, hf]

theorem run_resolve {s : State} {r : SReg} {ks : List Nat} {x : Nat × Nat}
    (h : s.resolve s.cw.ctx ((s.rs r).setWidth 32) ks = some x) : (resolve r ks).run s = .ok x s := by
  simp [resolve, h]

theorem run_resolve_none {s : State} {r : SReg} {ks : List Nat}
    (h : s.resolve s.cw.ctx ((s.rs r).setWidth 32) ks = none) :
    (resolve r ks).run s = .error (.trap { cause := HANDLE_INVALID, info := zext64 ((s.rs r).setWidth 32) }) s := by
  simp [resolve, h]

@[simp] theorem run_fresh (s : State) : fresh.run s = .ok s.nextUid { s with nextUid := s.nextUid + 1 } := rfl
@[simp] theorem run_draw (s : State) : draw.run s = .ok s.free { s with free := s.free + 1 } := rfl
@[simp] theorem run_newHandle (kind obj : Nat) (s : State) :
    (newHandle kind obj).run s = .ok (s.newHandle s.cw.ctx kind obj).1 (s.newHandle s.cw.ctx kind obj).2 := rfl

/-! ## The outcome of a scalar word in steps -/

@[simp] theorem undo_self (s : State) : s.undo s = s := rfl

theorem runOp_ok {op : Op Unit} {s t : State} {x : Unit} (h : op.run s = .ok x t) : runOp op s = .next t.retire := by
  simp [runOp, h]

theorem runOp_finished {op : Op Unit} {s t : State} (h : op.run s = .error .finished t) : runOp op s = .next t.retire := by
  simp [runOp, h]

/-- A word that traps leaves nothing of what it did before but the counters of names and of free values (R8). -/
theorem runOp_trap {op : Op Unit} {s t : State} {x : Trap} (h : op.run s = .error (.trap x) t) :
    runOp op s = .next ((s.undo t).takeTrap x) := by
  simp [runOp, h]

theorem runOp_wait {op : Op Unit} {s t : State} {k : WaitKind} {o : Nat} {d : SReg} {b : Bool}
    (h : op.run s = .error (.wait k o d b) t) : runOp op s = .next (t.suspend k o d b) := by
  simp [runOp, h]

end Sys2Proof.Machine
end

