-- ==== Sys2Proof/Laws/Lane.lean ====
section
/-!
SUPPORT. How a lane word of one operation runs: with its checks passed and its operands readable, its effect on those operands and
then the end of the word.
-/

namespace Sys2Proof.Machine

/-- The operands of an operation whose registers are readable. -/
def State.insOf (s : State) (c : LaneCode) (o : LaneOp) : LaneIn :=
  let sh := laneShape c o 128
  let v (r : Nat) : List Word := if h : r < 128 then s.cw.v[r].toList else []
  { m := if sh.pred then s.opMask o else s.cp.mask, path := s.cp.mask,
    a := if sh.a = .v then v o.a.toNat else [],
    b := if LaneIMMB o then List.replicate 32 (immOperand o.ty.toNat o.imm)
      else if LaneUB o then List.replicate 32 (s.snapshot o.b.toNat)
      else match sh.b with
        | .v _ => v o.b.toNat
        | _ => [],
    c := if LaneUC o then List.replicate 32 (s.snapshot o.c.toNat) else if sh.c = .v then v o.c.toNat else [],
    d := if sh.d = .vRead || sh.d = .vSource then v o.d.toNat else [] }

theorem run_readV {s : State} {r : Nat} (h : s.shortLanes (.v r) = 0) :
    (readV r).run s = .ok (if h : r < 128 then s.cw.v[r].toList else []) s := by
  simp [readV, h]

theorem run_readK {s : State} {r : KReg} (h : s.shortLanes (.k r.toNat) = 0) : (readK r).run s = .ok (s.cw.rk r) s := by
  simp [readK, h]

theorem run_laneMask {s : State} {o : LaneOp} (h : o.k ≠ 0 → s.shortLanes (.k o.k.toNat) = 0) :
    (laneMask o).run s = .ok (s.opMask o) s := by
  unfold laneMask State.opMask
  by_cases hk : o.k = 0
  · simp only [hk, if_true, run_bind, run_get, run_pure]
  · simp only [hk, if_false, run_bind, run_get, run_readK (h hk), run_pure]

/-- Steps shared by both ways of a choice. -/
theorem ite_bind {α β : Type} {p : Prop} [Decidable p] (x y : Op α) (f : α → Op β) :
    (if p then x >>= f else y >>= f) = (if p then x else y) >>= f := by split <;> rfl

/-- An operand that no condition reads leaves the state as it is. -/
theorem run_readIf {α : Type} {p : Prop} [Decidable p] {x : Op α} {y z : α} {s : State} (h : p → x.run s = .ok y s) :
    (if p then x else pure z).run s = .ok (if p then y else z) s := by
  by_cases hp : p
  · simp [hp, h hp]
  · simp [hp]

theorem mem_reads_a {c : LaneCode} {o : LaneOp} (h : (laneShape c o 128).a = .v) : .v o.a.toNat ∈ laneReads c o := by
  refine List.mem_append_left _ (List.mem_map_of_mem ?_)
  simp only [laneVReads, List.mem_append]
  refine .inl (.inl (.inl ?_))
  by_cases hm : c = .mj
  · simp only [hm, if_true, mjRegs]
    refine List.mem_map.2 ⟨0, List.mem_range.2 ?_, rfl⟩
    split <;> decide
  · simp [hm, h]

theorem mem_reads_b {c : LaneCode} {o : LaneOp} {i : Bool} (h : (laneShape c o 128).b = .v i) (hu : LaneUB o = false)
    (hi : LaneIMMB o = false) : .v o.b.toNat ∈ laneReads c o := by
  refine List.mem_append_left _ (List.mem_map_of_mem ?_)
  simp [laneVReads, h, hu, hi]

theorem mem_reads_c {c : LaneCode} {o : LaneOp} (h : (laneShape c o 128).c = .v) (hu : LaneUC o = false) :
    .v o.c.toNat ∈ laneReads c o := by
  refine List.mem_append_left _ (List.mem_map_of_mem ?_)
  simp [laneVReads, h, hu]

theorem mem_reads_d {c : LaneCode} {o : LaneOp} (h : ((laneShape c o 128).d = .vRead || (laneShape c o 128).d = .vSource) = true) :
    .v o.d.toNat ∈ laneReads c o := by
  refine List.mem_append_left _ (List.mem_map_of_mem ?_)
  simp only [laneVReads, List.mem_append]
  refine .inr ?_
  simp only [Bool.or_eq_true, decide_eq_true_eq] at h
  simp [h]

theorem mem_reads_k {c : LaneCode} {o : LaneOp} (h : o.k ≠ 0) : .k o.k.toNat ∈ laneReads c o := by
  refine List.mem_append_right _ (List.mem_map_of_mem ?_)
  simp only [laneKReads, h, if_false, List.mem_append, List.mem_singleton, true_or]

/-- The operands of an operation that may issue are its registers' lanes. -/
theorem run_laneInputs {c : LaneCode} {o : LaneOp} {s : State} (h : ∀ r ∈ laneReads c o, s.shortLanes r = 0) :
    (laneInputs c o).run s = .ok (s.insOf c o) s := by
  have hm : (if (laneShape c o 128).pred = true then laneMask o else pure s.cp.mask).run s =
      .ok (if (laneShape c o 128).pred = true then s.opMask o else s.cp.mask) s :=
    run_readIf fun _ => run_laneMask fun hk => h _ (mem_reads_k hk)
  have ha : (if (laneShape c o 128).a = .v then readV o.a.toNat else pure []).run s =
      .ok (if (laneShape c o 128).a = .v then (if h : o.a.toNat < 128 then s.cw.v[o.a.toNat].toList else []) else []) s :=
    run_readIf fun ha => run_readV (h _ (mem_reads_a ha))
  have hd : (if ((laneShape c o 128).d = .vRead || (laneShape c o 128).d = .vSource) = true then readV o.d.toNat else pure []).run s =
      .ok (if ((laneShape c o 128).d = .vRead || (laneShape c o 128).d = .vSource) = true then
        (if h : o.d.toNat < 128 then s.cw.v[o.d.toNat].toList else []) else []) s :=
    run_readIf fun hd => run_readV (h _ (mem_reads_d hd))
  have hc : (if LaneUC o = true then pure (List.replicate 32 (s.snapshot o.c.toNat))
      else if (laneShape c o 128).c = .v then readV o.c.toNat else pure []).run s =
      .ok (if LaneUC o = true then List.replicate 32 (s.snapshot o.c.toNat) else if (laneShape c o 128).c = .v then
        (if h : o.c.toNat < 128 then s.cw.v[o.c.toNat].toList else []) else []) s := by
    cases hu : LaneUC o
    · simpa using run_readIf fun hc => run_readV (h _ (mem_reads_c hc hu))
    · simp
  simp only [laneInputs, ite_bind, State.insOf]
  cases hi : LaneIMMB o
  · cases hu : LaneUB o
    · cases hs : (laneShape c o 128).b <;>
        simp only [run_bind, run_get, hm, ha, hc, hd, run_pure, Bool.false_eq_true, if_false]
      rw [run_readV (h _ (mem_reads_b hs hu hi))]
      simp only [hc, hd]
    · simp only [run_bind, run_get, hm, ha, hc, hd, run_pure, Bool.false_eq_true, if_false, if_true]
  · simp only [run_bind, run_get, hm, ha, hc, hd, run_pure, if_true]

/-- Whether an operation takes a predicate does not depend on the registers of its block. -/
theorem shape_pred (c : LaneCode) (o : LaneOp) (n m : Nat) : (laneShape c o n).pred = (laneShape c o m).pred := by
  cases c <;> rfl

/-- The lanes that a legal operation acts in are those whose operands are checked for poison. -/
theorem checkMask_eq {c : LaneCode} {o : LaneOp} {s : State} {n a : Nat} (h : laneLegal c o n a = true) :
    (if (laneShape c o 128).pred && o.k != 0 then s.cp.mask &&& s.cw.rk o.k else s.cp.mask) = s.opMask o := by
  have hp : (laneShape c o 128).pred = true ∨ o.k = 0 := by
    unfold laneLegal at h
    simp only [Bool.and_eq_true, Bool.or_eq_true, beq_iff_eq] at h
    exact shape_pred c o n 128 ▸ h.1.2
  unfold State.opMask
  by_cases hk : o.k = 0
  · simp [hk]
  · simp [hp.resolve_right hk]

theorem run_shortCheck {reads : List RegRef} {s : State} (h : ∀ r ∈ reads, s.shortLanes r = 0) :
    (shortCheck reads).run s = .ok ⟨⟩ s := by
  have : reads.any (fun r => s.shortLanes r != 0) = false := by
    rw [List.any_eq_false]; intro r hr; simp [h r hr]
  simp only [shortCheck, run_bind, run_get, this, Bool.and_false, Bool.false_eq_true, if_false, run_pure]

theorem run_poisonCheck {slots : List LaneSlot} {s : State} (h : slots.flatMap s.slotPoison = []) :
    (poisonCheck slots).run s = .ok ⟨⟩ s := by
  simp only [poisonCheck, run_bind, run_get, h, ite_self, run_pure]

theorem foldl_mask_mono {f g : Nat → Bool} (h : ∀ i, f i = true → g i = true) (l : List Nat) {a b : Nat} (hab : a ≤ b) :
    l.foldl (fun n i => if f i then n + 2 ^ i else n) a ≤ l.foldl (fun n i => if g i then n + 2 ^ i else n) b := by
  induction l generalizing a b with
  | nil => exact hab
  | cons i l ih =>
    refine ih ?_
    show (if f i then a + 2 ^ i else a) ≤ if g i then b + 2 ^ i else b
    by_cases hf : f i = true
    · rw [if_pos hf, if_pos (h i hf)]; exact Nat.add_le_add_right hab _
    · rw [if_neg hf]; split
      · exact Nat.le_add_right_of_le hab
      · exact hab

/-- A mask that selects no lane selects none under a stronger test. -/
theorem maskOf_zero_mono {f g : Nat → Bool} (h : ∀ i, f i = true → g i = true) (hg : maskOf g = 0) : maskOf f = 0 := by
  have hfg := foldl_mask_mono h laneList (Nat.le_refl 0)
  have hb : laneList.foldl (fun n i => if g i then n + 2 ^ i else n) 0 ≤ 2 ^ 32 - 1 :=
    Nat.le_trans (foldl_mask_mono (g := fun _ => true) (fun _ _ => rfl) laneList (Nat.le_refl 0)) (by decide)
  have h0 : laneList.foldl (fun n i => if g i then n + 2 ^ i else n) 0 % 2 ^ 32 = 0 := by
    simpa [maskOf] using congrArg BitVec.toNat hg
  rw [Nat.mod_eq_of_lt (Nat.lt_of_le_of_lt hb (by decide))] at h0
  exact congrArg (BitVec.ofNat 32) (Nat.le_zero.1 (Nat.le_trans hfg (Nat.le_of_eq h0)))

/-- A v register that bears no poison in any lane of a mask bears none in a part of it. -/
theorem poisonLanes_mono {s : State} {m m' : BitVec 32} {n : Nat} (hm : ∀ i, m.getLsbD i = true → m'.getLsbD i = true)
    (h : s.poisonLanes m' (.v n) = 0) : s.poisonLanes m (.v n) = 0 := by
  refine maskOf_zero_mono (fun i hi => ?_) h
  simp only [List.any_eq_true] at hi ⊢
  obtain ⟨u, hu, he⟩ := hi
  refine ⟨u, hu, ?_⟩
  cases u <;> simp_all
  exact hm _ (he.2 ▸ he.1.2)

theorem laneOwnReads_sub {c : LaneCode} {o : LaneOp} {r : RegRef} (h : r ∈ laneOwnReads c o) : r ∈ laneReads c o := by
  cases c
  case vperm =>
    simp only [laneOwnReads, List.mem_append] at h
    refine h.elim (fun hb => ?_) fun hk => List.mem_append_right _ hk
    cases hu : LaneUB o <;> cases hi : LaneIMMB o <;> simp [hu, hi] at hb
    subst hb
    exact mem_reads_b (i := true) rfl hu hi
  all_goals first
    | exact h
    | exact List.mem_append_right _ h

theorem slotPoison_ready {c : LaneCode} {o : LaneOp} {fx : LaneFx} {s : State} (h : LaneReady c o s) :
    s.slotPoison { code := c, op := o, fx } = [] := by
  unfold State.slotPoison
  rw [checkMask_eq h.legal, List.filterMap_eq_nil_iff]
  intro r hr
  have hc := h.clean r (laneOwnReads_sub hr)
  cases r with
  | v n =>
    have h0 : s.poisonLanes (s.opMask o) (.v n) = 0 := by
      refine poisonLanes_mono (fun i hi => ?_) hc
      have := BitVec.lt_of_getLsbD hi
      simp only [State.cleanLanes]
      split
      · rw [BitVec.getLsbD_allOnes]; exact decide_eq_true this
      · exact hi
    simp [h0]
  | k n => simp only [State.cleanLanes] at hc; simp [hc]
  | q n => simp [State.poisonLanes]

/-- A lane word of one operation that may issue passes its checks. -/
theorem run_laneChecks {c : LaneCode} {o : LaneOp} {fx : LaneFx} {s : State} (h : LaneReady c o s) :
    (laneChecks [{ code := c, op := o, fx }]).run s = .ok ⟨⟩ s := by
  have hl := h.legal
  have hw : (laneReads c o ++ laneWrites c o).any s.pendingAt = false := by
    rw [List.any_eq_false]; intro r hr; simp [h.written r hr]
  have ho := run_shortCheck h.old
  have hp := run_poisonCheck (slots := [{ code := c, op := o, fx }]) (by simpa using slotPoison_ready h)
  simp only [laneChecks, List.all_cons, List.all_nil, hl, Bool.and_true, Bool.not_true, Bool.false_eq_true, if_false,
    List.flatMap_cons, List.flatMap_nil, List.append_nil, hw, run_bind, run_get, List.filter_cons, List.filter_nil]
  by_cases hc : c = .vpref
  · subst hc
    simp only [bne_self_eq_false, Bool.false_eq_true, if_false]
    rw [ho]
    exact run_poisonCheck (by simp)
  · simp only [bne_iff_ne, ne_eq, hc, not_false_eq_true, if_true]
    rw [ho]
    exact hp

/-- The outcome of a lane word of one operation whose effect completes. -/
theorem runOne_ok {c : LaneCode} {o : LaneOp} {fx : LaneFx} {s t : State} {out : LaneOut} (h : LaneReady c o s)
    (hf : (fx o (s.insOf c o)).run s = .ok out t) :
    runOne c fx o s = .next (t.laneDone o.stall.toNat [({ code := c, op := o, fx }, out)]) := by
  simp [runOne, runLane, laneEffects, run_laneChecks h, run_laneInputs h.old, List.mapM_cons, List.mapM_nil, hf]

/-! ## The end of a lane word -/

/-- A flag of a list is in its OR. -/
theorem and_of_or {l : List Nat} {n acc : Nat} (h : l.foldl (· ||| ·) acc &&& n = 0) : acc &&& n = 0 ∧ ∀ x ∈ l, x &&& n = 0 := by
  induction l generalizing acc with
  | nil => exact ⟨h, fun _ hx => absurd hx List.not_mem_nil⟩
  | cons y l ih =>
    obtain ⟨h1, h2⟩ := ih h
    rw [Nat.and_or_distrib_right] at h1
    have h3 := Nat.or_eq_zero_iff.1 h1
    refine ⟨h3.1, fun x hx => ?_⟩
    rcases List.mem_cons.1 hx with rfl | hx
    · exact h3.2
    · exact h2 x hx

theorem quiet_flagLanes {s : State} {out : LaneOut} (h : s.Quiet (out.flags.foldl (· ||| ·) 0)) :
    flagLanes [out] (if (s.cw.level == .handler) = true then 0 else bitsOf s.cw.fmode.toNat 8 5) = 0 := by
  have hz : ∀ i, out.flags.getD i 0 &&& (if (s.cw.level == .handler) = true then 0 else bitsOf s.cw.fmode.toNat 8 5) = 0 := by
    intro i
    rcases h with h | h
    · simp [h]
    · by_cases hh : s.cw.level = .handler
      · simp [hh]
      · have := (and_of_or h).2
        simp only [beq_iff_eq, hh, if_false]
        by_cases hi : i < out.flags.length
        · rw [List.getD_eq_getElem?_getD, List.getElem?_eq_getElem hi, Option.getD_some]
          exact this _ (List.getElem_mem hi)
        · rw [List.getD_eq_getElem?_getD, List.getElem?_eq_none (Nat.not_lt.1 hi), Option.getD_none, Nat.zero_and]
  simp only [flagLanes, maskOf, List.any_cons, List.any_nil, hz, bne_self_eq_false, Bool.and_false, Bool.or_false,
    Bool.false_eq_true, if_false]
  rfl

/-- The end of a wait at a rendezvous move changes the wave's status alone. -/
theorem slotLeft_eq (s : State) : s.slotLeft = { s with cw := { s.cw with st := s.slotLeft.cw.st } } := by
  unfold State.slotLeft; split <;> rfl

theorem slotLeft_st {s : State} (h : s.cw.st ≠ .waiting) : s.slotLeft.cw.st = s.cw.st := by simp [State.slotLeft, h]

/-- The end of a word of one operation that goes on to the next word and raises no trap. -/
theorem laneDone_step {s : State} {n : Nat} {x : LaneSlot} {out : LaneOut} (hn : out.next = .step)
    (hq : (out.writes.foldl (fun (s : State) p => s.putResult (laneLatency x.code x.op) p) s).Quiet (out.flags.foldl (· ||| ·) 0)) :
    let u := out.writes.foldl (fun (s : State) p => s.putResult (laneLatency x.code x.op) p) s
    ∃ st, (u.cw.st ≠ .waiting → st = u.cw.st) ∧ s.laneDone n [(x, out)] =
      { u with
        cw := { u.cw with fstat := u.cw.fstat ||| .ofNat 64 (out.flags.foldl (· ||| ·) 0), lwords := u.cw.lwords + 1, st }
        cp := { u.cp.age (n + 1) with lpc := u.cp.lpc + 1, wait := .none } } := by
  have hl := quiet_flagLanes hq
  revert hq hl
  generalize hu : out.writes.foldl (fun (s : State) p => s.putResult (laneLatency x.code x.op) p) s = u
  intro hq hl
  have hf : flagsOf [out] = out.flags.foldl (· ||| ·) 0 := by
    simp only [flagsOf, List.flatMap_cons, List.flatMap_nil, List.append_nil]
  have hw : wordNext [out] = .step := by
    simp only [wordNext, List.map_cons, List.map_nil, hn, List.find?_cons, List.find?_nil, bne_self_eq_false, Option.getD_none]
  let v : State := { u with
    cw := { u.cw with fstat := u.cw.fstat ||| .ofNat 64 (out.flags.foldl (· ||| ·) 0), lwords := u.cw.lwords + 1 }
    cp := { u.cp.age (n + 1) with lpc := u.cp.lpc + 1, wait := .none } }
  have e : s.laneDone n [(x, out)] = v.slotLeft := by
    unfold State.laneDone
    simp only [List.foldl_cons, List.foldl_nil, List.map_cons, List.map_nil, hu]
    rw [if_pos hl, hf, hw]
    rfl
  exact ⟨v.slotLeft.cw.st, fun h => slotLeft_st (s := v) h, e.trans (slotLeft_eq v)⟩

/-! ## Results -/

theorem writePend_v {w : Wave} {d : BitVec 7} {m : BitVec 32} {vals : List Word} :
    w.writePend (outV d m vals) = { w with v := w.v.set d.toNat (mergeLanes w.v[d.toNat] m 0 vals) d.isLt } := by
  unfold Wave.writePend outV
  simp only [d.isLt, dite_true]

theorem lane_merge {w : Wave} {d : BitVec 7} {m : BitVec 32} {vals : List Word} {r l : Nat} (hl : l < 32) :
    (w.writePend (outV d m vals)).lane r l = if r = d.toNat ∧ m.getLsbD l then vals.getD l 0 else w.lane r l := by
  rw [writePend_v]
  unfold Wave.lane
  by_cases hr : r < 128
  · simp only [hr, dite_true]
    by_cases h : r = d.toNat
    · subst h
      simp only [Vector.getElem_set_self, true_and, laneOf]
      rw [List.getD_eq_getElem?_getD, List.getD_eq_getElem?_getD]
      simp only [Vector.getElem?_toList, mergeLanes, Vector.getElem?_ofFn, hl, dite_true, Option.getD_some]
      split
      · rw [show (0 : Word) = 0#64 from rfl, BitVec.and_zero, BitVec.zero_or, show ~~~0#64 = BitVec.allOnes 64 from rfl,
          BitVec.and_allOnes, List.getD_eq_getElem?_getD]
      · simp [hl]
    · simp [h, Vector.getElem_set_ne, Ne.symm h]
  · have h : r ≠ d.toNat := fun e => hr (e ▸ d.isLt)
    simp [hr, h]

theorem loosen_eq (w : Wave) (r : RegRef) : w.loosen r = { w with loose := (w.loosen r).loose } := by
  unfold Wave.loosen
  cases r with
  | v n => simp only; split <;> rfl
  | k n => rfl
  | q n => rfl

/-- A result that is written at once: poison of what it replaces is gone, joint operations that it disturbs are marked, the write
is noted, and the path remembers how old the result is. -/
theorem putResult_some (s : State) (n : Nat) (p : VarPend) :
    ∃ j, Disturbs s j ∧ (s.NoJoint → j = s) ∧ s.putResult (some n) p =
      { j with
        cw := (s.cw.loosen p.reg).writePend p
        poison := s.poison.filter fun u => !p.cures s.cw.uid u
        cp := { s.cp with fixed := { reg := p.reg, lanes := p.lanes, left := n } :: s.cp.replaced p.reg p.lanes } } := by
  let u : State := { s.cure (p.cures s.cw.uid) with cw := s.cw.loosen p.reg }
  have key : s.putResult (some n) p =
      let t := u.dirtyReg u.cw.uid p.reg
      { t with cw := t.cw.writePend p
               cp := { t.cp with fixed := { reg := p.reg, lanes := p.lanes, left := n } :: s.cp.replaced p.reg p.lanes } } := rfl
  obtain ⟨a, b, c, d, e, h⟩ := (dirtyReg_disturbs u u.cw.uid p.reg).fields
  refine ⟨{ s with jointOps := a, latch := b, products := c, teams := d, free := e }, rfl, fun hn => ?_, ?_⟩
  · rw [dirtyReg_none (s := u) hn] at h
    obtain rfl := congrArg State.jointOps h
    obtain rfl := congrArg State.latch h
    obtain rfl := congrArg State.products h
    obtain rfl := congrArg State.teams h
    obtain rfl := congrArg State.free h
    rfl
  · rw [key, h]
    rfl

/-- A word whose one result has a fixed latency. -/
theorem laneDone_lanes {s : State} {n k : Nat} {x : LaneSlot} {d : BitVec 7} {m : BitVec 32} {vals : List Word} {fl : List Nat}
    {q : Bool} (hk : laneLatency x.code x.op = some k) (hq : s.Quiet (fl.foldl (· ||| ·) 0)) :
    WritesLanes s (s.laneDone n [(x, { writes := [outV d m vals], flags := fl, quiet := q })]) d m (fun l => vals.getD l 0)
      (fl.foldl (· ||| ·) 0) := by
  obtain ⟨j, hj, hn, hp⟩ := putResult_some s k (outV d m vals)
  have hw : (s.cw.loosen (.v d.toNat)).writePend (outV d m vals) =
      { s.cw with v := (s.cw.writePend (outV d m vals)).v, loose := (s.cw.loosen (.v d.toNat)).loose } := by
    rw [loosen_eq, writePend_v, writePend_v]
  have hr : (outV d m vals).reg = .v d.toNat := rfl
  rw [hr, hw] at hp
  have hs := laneDone_step (s := s) (n := n) (x := x) (out := { writes := [outV d m vals], flags := fl, quiet := q }) rfl
  simp only [List.foldl_cons, List.foldl_nil, hk, hp] at hs
  obtain ⟨st, hst, hs⟩ := hs hq
  rw [hs]
  exact {
    wave := rfl, runs := hst, path := rfl, masks := rfl, returns := rfl, waiting := rfl
    poison := fun u hu => (List.mem_filter.1 hu).1
    rest := by simp only; rw [hj]
    joint := fun h1 h2 h3 => by simp only [hn ⟨h1, h2, h3⟩]
    memory := fun a => by simp only; rw [hj]
    value := fun r l hl => lane_merge hl }

/-! ## Operations that act on each lane -/

theorem getD_laneList {α : Type} (f : Nat → α) {l : Nat} (hl : l < 32) (z : α) : (laneList.map f).getD l z = f l := by
  simp [laneList, List.getD_eq_getElem?_getD, hl]

theorem WritesLanes.congr {s t : State} {d : BitVec 7} {m : BitVec 32} {v v' : Nat → Word} {fl fl' : Nat}
    (h : WritesLanes s t d m v fl) (hv : ∀ l, l < 32 → m.getLsbD l → v l = v' l) (hf : fl = fl') : WritesLanes s t d m v' fl' := by
  subst hf
  refine { h with value := fun r l hl => ?_ }
  rw [h.value r l hl]
  by_cases hm : r = d.toNat ∧ m.getLsbD l
  · rw [if_pos hm, if_pos hm, hv l hl hm.2]
  · rw [if_neg hm, if_neg hm]

/-- The value and flags that an operation on each lane forms. -/
def laneValue (f : Wave → LaneOp → Nat → Word → Word → Word → Word → Word × Nat) (s : State) (c : LaneCode) (o : LaneOp)
    (l : Nat) : Word × Nat :=
  f s.cw o l (laneOf (s.insOf c o).a l) (laneOf (s.insOf c o).b l) (laneOf (s.insOf c o).c l) (laneOf (s.insOf c o).d l)

theorem flagsIn_eq (m : BitVec 32) (f : Nat → Word × Nat) :
    (((laneList.map fun l => if m.getLsbD l then f l else (0, 0)).map (·.2)).foldl (· ||| ·) 0) = flagsIn m fun l => (f l).2 := by
  unfold flagsIn
  rw [List.map_map]
  congr 2
  funext l
  simp only [Function.comp_apply]
  split <;> rfl

/-- An operation on each lane, of a fixed latency, completes and writes its lanes. -/
theorem runOne_fxLanes {c : LaneCode} {o : LaneOp} {s : State} {k : Nat}
    (f : Wave → LaneOp → Nat → Word → Word → Word → Word → Word × Nat) (h : LaneReady c o s)
    (hk : laneLatency c o = some k) (hq : s.Quiet (flagsIn (s.insOf c o).m fun l => (laneValue f s c o l).2)) :
    ∃ t, runOne c (fxLanes f) o s = .next t ∧
      WritesLanes s t o.d (s.insOf c o).m (fun l => (laneValue f s c o l).1)
        (flagsIn (s.insOf c o).m fun l => (laneValue f s c o l).2) := by
  refine ⟨_, runOne_ok h (by simp only [fxLanes, run_bind, run_get, run_pure]; rfl), ?_⟩
  have hf := flagsIn_eq (s.insOf c o).m (laneValue f s c o)
  refine (laneDone_lanes hk (hf ▸ hq)).congr (fun l hl hm => ?_) hf
  rw [List.map_map, getD_laneList _ hl]
  simp only [Function.comp_apply, hm, if_true, laneValue]

/-! ## Sub-elements -/

/-- The number that sub-elements of `w` bits form. -/
def packed (w : Nat) (xs : List Nat) : Nat := xs.foldr (fun x n => x % 2 ^ w + 2 ^ w * n) 0

theorem packed_lt (w : Nat) (xs : List Nat) : packed w xs < 2 ^ (w * xs.length) := by
  induction xs with
  | nil => simp [packed]
  | cons x xs ih =>
    have hx : x % 2 ^ w < 2 ^ w := Nat.mod_lt _ (Nat.two_pow_pos w)
    have he : packed w (x :: xs) = x % 2 ^ w + 2 ^ w * packed w xs := rfl
    rw [he, List.length_cons, Nat.mul_succ, Nat.pow_add, Nat.mul_comm (2 ^ (w * xs.length))]
    calc x % 2 ^ w + 2 ^ w * packed w xs < 2 ^ w + 2 ^ w * packed w xs := by omega
      _ = 2 ^ w * (packed w xs + 1) := by rw [Nat.mul_add, Nat.mul_one, Nat.add_comm]
      _ ≤ 2 ^ w * 2 ^ (w * xs.length) := Nat.mul_le_mul_left _ ih

theorem bitsOf_packed (w : Nat) (xs : List Nat) (e : Nat) : bitsOf (packed w xs) (w * e) w = xs.getD e 0 % 2 ^ w := by
  induction xs generalizing e with
  | nil => simp [packed, bitsOf]
  | cons x xs ih =>
    have he : packed w (x :: xs) = x % 2 ^ w + 2 ^ w * packed w xs := rfl
    have hx : x % 2 ^ w < 2 ^ w := Nat.mod_lt _ (Nat.two_pow_pos w)
    cases e with
    | zero => simp [bitsOf, he, Nat.add_mul_mod_self_left]
    | succ e =>
      have hd : (x % 2 ^ w + 2 ^ w * packed w xs) / 2 ^ w = packed w xs := by
        rw [Nat.add_mul_div_left _ _ (Nat.two_pow_pos w), Nat.div_eq_of_lt hx, Nat.zero_add]
      have := ih e
      unfold bitsOf at this ⊢
      rw [he, Nat.mul_succ, Nat.add_comm (w * e), Nat.pow_add, ← Nat.div_div_eq_div_mul, hd, this]
      rfl

/-- A sub-element of a value that sub-elements form. -/
theorem elemOf_ofSubs {w : Nat} {xs : List Nat} (h : w * xs.length ≤ 64) (e : Nat) :
    elemOf w (ofSubs w xs) e = xs.getD e 0 % 2 ^ w := by
  have hp : packed w xs < 2 ^ 64 := Nat.lt_of_lt_of_le (packed_lt w xs) (Nat.pow_le_pow_right (by decide) h)
  have hs : (ofSubs w xs).toNat = packed w xs := by
    unfold ofSubs
    rw [BitVec.toNat_ofNat]
    exact Nat.mod_eq_of_lt hp
  rw [elemOf, hs, bitsOf_packed]

/-- The sub-elements of a value. -/
theorem getD_subs {w : Nat} (x : Word) {e : Nat} (h : e < 64 / w) : (subs w x).getD e 0 = elemOf w x e := by
  simp [subs, List.getD_eq_getElem?_getD, h, elemOf]

theorem length_subs (w : Nat) (x : Word) : (subs w x).length = 64 / w := by simp [subs]

end Sys2Proof.Machine
end

