-- ==== Sys2Proof/Laws/Scalar.lean ====
section
/-!
SUPPORT. What the shared operations of the scalar stream do, each said once: a word that writes a register or a mask register, a word
that only goes on, a jump, taking a trap, and a new handle.
-/

namespace Sys2Proof.Machine

/-- A word whose result goes to s[d]. -/
theorem done_writes (s : State) (d : SReg) (x : Word) : WritesReg s (s.done d x) d x (s.cw.pc + 4) := by
  refine ⟨fun r => Wave.rs_ws s.cw d r x, ?_, fun u => ?_, rfl, fun a => rfl⟩
  · simp only [State.done, State.retire, State.ws, Wave.goto_eq, Wave.movedTo, Wave.ws]
    split <;> rfl
  · simp [State.done, State.retire, State.ws]

/-- The same, with the value written another way. -/
theorem done_writes' {s : State} {d : SReg} {x y : Word} (h : x = y) : WritesReg s (s.done d x) d y (s.cw.pc + 4) := h ▸ done_writes s d x

/-- A jump that writes a link. -/
theorem link_writes (s : State) (d : SReg) (x p : Word) : WritesReg s ((s.ws d x).jump p) d x p := by
  refine ⟨fun r => Wave.rs_ws s.cw d r x, ?_, fun u => ?_, rfl, fun a => rfl⟩
  · simp only [State.jump, State.ws, Wave.goto_eq, Wave.movedTo, Wave.ws]
    split <;> rfl
  · simp [State.jump, State.ws]

/-- A word that only goes on. -/
theorem retire_moves (s : State) : Moves s s.retire (s.cw.pc + 4) := ⟨by rw [State.retire, Wave.goto_eq], fun _ => rfl⟩

/-- A jump. -/
theorem jump_moves (s : State) (p : Word) : Moves s (s.jump p) p := ⟨by rw [State.jump, Wave.goto_eq], fun _ => rfl⟩

/-! ## Taking a trap -/

/-- A trap that is no page fault of REASON 0 is taken at its word, in an open region or not (R353, R387). -/
theorem takeTrap_at {s : State} {t : Trap} (h : t.missing = false) : s.takeTrap t = s.takeTrapAt t s.cw.pc := by
  unfold State.takeTrap
  split <;> simp [h]

/-- Writing pending results changes v, k and q registers and nothing else of a wave. -/
theorem flushPends_keeps (w : Wave) :
    w.flushPends = { w with v := w.flushPends.v, k := w.flushPends.k, q := w.flushPends.q, eng := w.flushPends.eng } := by
  have one : ∀ (w : Wave) (p : VarPend), w.writePend p = { w with v := (w.writePend p).v, k := (w.writePend p).k, q := (w.writePend p).q } := by
    intro w p
    unfold Wave.writePend
    cases p.reg with
    | v n => simp only; split <;> rfl
    | k n => rfl
    | q n => rfl
  have all : ∀ (l : List VarPend) (w : Wave), l.foldl Wave.writePend w =
      { w with v := (l.foldl Wave.writePend w).v, k := (l.foldl Wave.writePend w).k, q := (l.foldl Wave.writePend w).q } := by
    intro l
    induction l with
    | nil => intro w; rfl
    | cons p l ih =>
      intro w
      rw [List.foldl_cons, ih (w.writePend p)]
      have := one w p
      rw [this]
  unfold Wave.flushPends
  simp only
  have := all (w.eng.paths.flatMap (·.var)) w
  rw [this]

/-- Taking a trap with a handler to enter (R387, R390). -/
theorem takeTrapAt_enters {s : State} {t : Trap} {hpc : Word} {k : Kernel} {h : Nat} (H : HasHandler s k h) :
    EntersHandler s (s.takeTrapAt t hpc) t hpc k h := by
  have hp : s.parkPath = { s with cp := .blank } := by simp [State.parkPath, H.path]
  let v : State := { s with
    cp := .blank
    holds := if s.cw.region.isSome || bitAt t.info.toNat 48 then (s.dropHolds s.cw.uid).holds else s.holds }
  have key : s.takeTrapAt t hpc =
      let w := s.cw.enterHandler { t with pend := t.pend && s.cw.level == .ordinary
                                          word := if t.lane || t.xfer || t.boundary then t.word else s.word } hpc
        (.ofNat 64 (k.sbase + 4 * h))
      { v.dirtyPends s.cw with cw := { w with entered := s.time s.cw.dev + 1 } } := by
    unfold State.takeTrapAt
    rw [hp]
    have h2 : ({ s with cp := .blank } : State).kernelOf s.cw = some k := H.kernel
    simp only [h2, H.handler, H.level]
    have hv : (if s.cw.region.isSome || bitAt t.info.toNat 48 then ({ s with cp := .blank } : State).dropHolds s.cw.uid
        else { s with cp := .blank }) = v := by
      show _ = { s with cp := .blank, holds := _ }
      split <;> simp_all [State.dropHolds]
    rw [hv]
    have hcw : (v.dirtyPends s.cw).cw = s.cw := by rw [dirtyPends_disturbs v s.cw]
    rw [hcw]
    rfl
  have fl := flushPends_keeps s.cw
  obtain ⟨a, b, c, d, e, hd⟩ := (dirtyPends_disturbs v s.cw).fields
  have hn : s.jointOps = [] → s.latch = [] → s.products = [] → v.dirtyPends s.cw = v := fun h1 h2 h3 =>
    dirtyPends_none (s := v) ⟨h1, h2, h3⟩ s.cw
  rw [key]
  constructor
  case joint =>
    intro h1 h2 h3
    rw [hn h1 h2 h3]
  case rest => simp only [hd]; rfl
  case memory => intro x; simp only [hd]; rfl
  case holds =>
    intro x
    simp only [hd]
    show x ∈ (if s.cw.region.isSome || bitAt t.info.toNat 48 then (s.dropHolds s.cw.uid).holds else s.holds) ↔ _
    have hb : bitAt t.info.toNat 48 = t.info.getLsbD 48 := by
      simp [bitAt, BitVec.getLsbD, Nat.testBit_eq_decide_div_mod_eq, Bool.beq_eq_decide_eq]
    simp only [hb, Bool.or_eq_true]
    split <;> simp_all [State.dropHolds]
  all_goals simp only [Wave.enterHandler, Wave.writeHandlerRegs, Trap.hcause, H.level, BEq.rfl, Bool.and_true]
  all_goals first
    | rw [fl]; done
    | simp; done
    | rw [fl]; simp

end Sys2Proof.Machine
end

