-- ==== Sys2Proof/Tests/Slice0.lean ====
section
/-!
SUPPORT. The model's own tests: words of the manual's encodings that decode to their instructions, terms that WellFormed refuses, single
steps whose results the manual gives, and for the statements with hypotheses states and operands that meet them (`witness_<statement>`).
-/

namespace Sys2Proof.Tests

open Sys2Proof.Machine Sys2Proof.Claims

-- One proof after another: each that runs beside others would hold a thread and its stack.
set_option Elab.async false

/-! ## States to test on -/

/-- A placed wave whose scalar stream executes; its kernel has no handler. -/
def demo : State := (State.reset.place false 0).focus 4

/-- A placed wave of which a lane path executes. -/
def lane : State := ((State.reset.place true 0).focus 4).focusPath 0

/-- The kernels of every context changed. -/
def onKernel (s : State) (f : Kernel → Kernel) : State :=
  { s with ctxs := s.ctxs.map fun c => { c with kernels := c.kernels.map f } }

/-- The executing wave changed. -/
def onWave (s : State) (f : Wave → Wave) : State := { s with cw := f s.cw }

/-- The contexts changed. -/
def onCtx (s : State) (f : Ctx → Ctx) : State := { s with ctxs := s.ctxs.map f }

/-- Values in scalar registers of the executing wave. -/
def withRegs (s : State) (l : List (SReg × Word)) : State := onWave s fun w => l.foldl (fun w e => w.ws e.1 e.2) w

/-- The placed wave with a handler at word 4 of its kernel. -/
def handled : State := onKernel demo fun k => { k with handler := some 4 }

/-- The placed wave at handler level. -/
def atHandler : State := onWave handled fun w => { w with level := .handler, st := .handler }

/-- `n` blocks in the lane queue of the executing wave. -/
def queued (s : State) (n : Nat) : State :=
  onWave s fun w => { w with eng := { w.eng with queue := List.replicate n { start := 0, uniform := .replicate 16 0, chk := 0, gang := 0 } } }

/-- A handle of generation 1 at index `i` of the executing context's table. -/
def handleOf (kind i : Nat) : Word := .ofNat 64 (kind * 2 ^ 28 + 2 ^ 20 + i)

/-- An object of a kind, with its handle at index `i`. -/
def withObj (s : State) (kind obj i : Nat) : State :=
  { s with handles := s.handles ++ [{ ctx := 1, index := i, gen := 1, kind, obj := some obj }] }

/-- The context of the executing wave. -/
def ctxOf (s : State) : Ctx := (s.ctx? s.cw.ctx).getD bootCtx

/-- A call that comes to its own checks. -/
theorem calls {s : State} {rs : List SReg} (hr : s.cw.region = none) (hp : s.poison = []) (hc : (s.ctx? s.cw.ctx).isSome = true) :
    s.Calls rs (ctxOf s) :=
  ⟨hr, fun r _ => by simp [hp], by obtain ⟨c, h⟩ := Option.isSome_iff_exists.1 hc; rw [ctxOf, h]; rfl⟩

/-- A release that is done at once. -/
theorem settled {s : State} (hq : s.cw.eng.queue = []) (hw : s.wcb = []) : s.Settled := ⟨hq, fun e he => by simp [hw] at he⟩

/-! ## Words of the encodings (chapter 03) -/

/-- Words of the system, with every operand field set (R61 to R72). -/
theorem test_decode_system : ∀ e ∈ [((0x00000000 : Nat), Instr.snop),
    ((0x00000001 : Nat), Instr.halt),
    ((0x00000002 : Nat), Instr.bkpt),
    ((0x00028003 : Nat), Instr.trap 10),
    ((0x00000004 : Nat), Instr.tret),
    ((0x00000024 : Nat), Instr.tretSkip),
    ((0x01161F05 : Nat), Instr.sysrd 17 1567),
    ((0x026B7406 : Nat), Instr.syswr 38 2932),
    ((0x03B08907 : Nat), Instr.perfrd 59 137),
    ((0x01000008 : Nat), Instr.time 16)], decodeTableWord 32 e.1 = some e.2 := by
  decide +kernel

/-- Words of the two registers, with every operand field set (R61 to R72). -/
theorem test_decode_two_registers : ∀ e ∈ [((0x0577A500 : Nat), Instr.sadd 23 30 37),
    ((0x06CCFA01 : Nat), Instr.ssub 44 51 58),
    ((0x04120F02 : Nat), Instr.smul 1 8 15),
    ((0x05676403 : Nat), Instr.smulh 22 29 36),
    ((0x06BCB904 : Nat), Instr.smulhu 43 50 57),
    ((0x0401CE05 : Nat), Instr.sdiv 0 7 14),
    ((0x05572306 : Nat), Instr.sdivu 21 28 35),
    ((0x06AC7807 : Nat), Instr.srem 42 49 56),
    ((0x07F18D08 : Nat), Instr.sremu 63 6 13),
    ((0x0546E210 : Nat), Instr.sand 20 27 34),
    ((0x069C3711 : Nat), Instr.sor 41 48 55),
    ((0x07E14C12 : Nat), Instr.sxor 62 5 12),
    ((0x0536A113 : Nat), Instr.sandn 19 26 33),
    ((0x068BF614 : Nat), Instr.sorn 40 47 54),
    ((0x07D10B18 : Nat), Instr.sshl 61 4 11),
    ((0x05266019 : Nat), Instr.sshr 18 25 32),
    ((0x067BB51A : Nat), Instr.ssra 39 46 53),
    ((0x07C0CA1B : Nat), Instr.srol 60 3 10),
    ((0x05161F1C : Nat), Instr.sror 17 24 31),
    ((0x066B7420 : Nat), Instr.smin 38 45 52),
    ((0x07B08921 : Nat), Instr.smax 59 2 9),
    ((0x0505DE22 : Nat), Instr.sminu 16 23 30),
    ((0x065B3323 : Nat), Instr.smaxu 37 44 51),
    ((0x07A04028 : Nat), Instr.sclz 58 1),
    ((0x0483C029 : Nat), Instr.sctz 8 15),
    ((0x0567402A : Nat), Instr.spopc 22 29),
    ((0x064AC02B : Nat), Instr.sbrev 36 43),
    ((0x072E402C : Nat), Instr.sbswap 50 57),
    ((0x0401CE30 : Nat), Instr.saddw 0 7 14),
    ((0x05572331 : Nat), Instr.ssubw 21 28 35),
    ((0x0AAC7800 : Nat), Instr.sceq 42 49 56),
    ((0x0BF18D01 : Nat), Instr.scne 63 6 13),
    ((0x0946E202 : Nat), Instr.sclt 20 27 34),
    ((0x0A9C3703 : Nat), Instr.scltu 41 48 55),
    ((0x0BE14C04 : Nat), Instr.scle 62 5 12),
    ((0x0936A105 : Nat), Instr.scleu 19 26 33)], decodeTableWord 32 e.1 = some e.2 := by
  decide +kernel

/-- Words of the immediates, with every operand field set (R61 to R72). -/
theorem test_decode_immediates : ∀ e ∈ [((0x0E8BE50C : Nat), Instr.saddi 40 47 9484),
    ((0x13D1252D : Nat), Instr.sandi 61 4 9517),
    ((0x1526654E : Nat), Instr.sori 18 25 9550),
    ((0x1A7BA56F : Nat), Instr.sxori 39 46 9583),
    ((0x1FC0C00A : Nat), Instr.sshli 60 3 10),
    ((0x1D16101F : Nat), Instr.sshri 17 24 31),
    ((0x1E6B6034 : Nat), Instr.ssrai 38 45 52),
    ((0x1FB0B009 : Nat), Instr.sroli 59 2 9),
    ((0x2105E614 : Nat), Instr.sclti 16 23 9748),
    ((0x2658062A : Nat), Instr.slui 37 525866),
    ((0x2B380640 : Nat), Instr.sadrp 51 525888),
    ((0x2C180656 : Nat), Instr.slit 1 525910),
    ((0x30F58764 : Nat), Instr.sbfx 15 22 29 36),
    ((0x32BC9E40 : Nat), Instr.sbfxs 43 50 57 0),
    ((0x3073A55C : Nat), Instr.sbfi 7 14 21 28),
    ((0x363AB138 : Nat), Instr.ssel 35 42 49 56)], decodeTableWord 32 e.1 = some e.2 := by
  decide +kernel

/-- Words of the branches, with every operand field set (R61 to R72). -/
theorem test_decode_branches : ∀ e ∈ [((0x403F871C : Nat), Instr.beqz 63 34588),
    ((0x404D8732 : Nat), Instr.bnez 13 34610),
    ((0x409B8748 : Nat), Instr.bltz 27 34632),
    ((0x40E9875E : Nat), Instr.bgez 41 34654),
    ((0x41378774 : Nat), Instr.bgtz 55 34676),
    ((0x4145878A : Nat), Instr.blez 5 34698),
    ((0x418387A0 : Nat), Instr.bkany 3 34720),
    ((0x41C187B6 : Nat), Instr.bknone 1 34742),
    ((0x420787CC : Nat), Instr.bkall 7 34764),
    ((0x460007D7 : Nat), Instr.jmp 33556439),
    ((0x4A0007E2 : Nat), Instr.call 33556450),
    ((0x4C02C000 : Nat), Instr.jr 11),
    ((0x4D264001 : Nat), Instr.jalr 18 25)], decodeTableWord 32 e.1 = some e.2 := by
  decide +kernel

/-- Words of the memory, with every operand field set (R61 to R72). -/
theorem test_decode_memory : ∀ e ∈ [((0x6209F535 : Nat), Instr.sld 32 39 6 1333),
    ((0x67C0D551 : Nat), Instr.sst 60 3 2 1361),
    ((0x6987E6B3 : Nat), Instr.satom 24 31 38 5 true 0 3),
    ((0x6C008D90 : Nat), Instr.spref 2 1 1424),
    ((0x7000001E : Nat), Instr.fence true 3 2)], decodeTableWord 32 e.1 = some e.2 := by
  decide +kernel

/-- Words of the lane queue, with every operand field set (R61 to R72). -/
theorem test_decode_lane_queue : ∀ e ∈ [((0x820008DF : Nat), Instr.lrun 33556703),
    ((0x840B0000 : Nat), Instr.lwait 44),
    ((0x87308001 : Nat), Instr.sqrd 51 2),
    ((0x88100700 : Nat), Instr.kand 1 0 7),
    ((0x88614401 : Nat), Instr.kor 6 5 4),
    ((0x88308102 : Nat), Instr.kxor 3 2 1),
    ((0x8801C603 : Nat), Instr.kandn 0 7 6),
    ((0x88510004 : Nat), Instr.knot 5 4),
    ((0x883A8005 : Nat), Instr.kfroms 3 42),
    ((0x8B100006 : Nat), Instr.ktos 49 0),
    ((0x8BF18007 : Nat), Instr.kpop 63 6),
    ((0x88D10008 : Nat), Instr.kfirst 13 4),
    ((0x88300009 : Nat), Instr.kact 3)], decodeTableWord 32 e.1 = some e.2 := by
  decide +kernel

/-- Words of the waves and ports, with every operand field set (R61 to R72). -/
theorem test_decode_waves_and_ports : ∀ e ∈ [((0xA22A4004 : Nat), Instr.wspawn 34 41 true false false),
    ((0xA0000010 : Nat), Instr.wexit),
    ((0xA0000020 : Nat), Instr.wyield),
    ((0xA3000030 : Nat), Instr.wself 48),
    ((0xA37F8540 : Nat), Instr.wprio 55 62 5),
    ((0xA0030050 : Nat), Instr.wkill 12),
    ((0xA004C051 : Nat), Instr.wkillCtx 19),
    ((0xA1A84061 : Nat), Instr.wjoin 26 33 true),
    ((0xA68BC002 : Nat), Instr.pcreate 40 47 true false),
    ((0xA76F4011 : Nat), Instr.pclose 54 61 true),
    ((0xA442D224 : Nat), Instr.psend 4 11 18 true false false),
    ((0xA5982734 : Nat), Instr.psendg 25 32 39 true false false),
    ((0xA6ED7C40 : Nat), Instr.precv 46 53 60),
    ((0xA4329150 : Nat), Instr.ppeek 3 10 17),
    ((0xA587C060 : Nat), Instr.pinfo 24 31),
    ((0xAA6B7400 : Nat), Instr.nreg 38 45 52),
    ((0xABB08011 : Nat), Instr.nlookup 59 2 true),
    ((0xA8940020 : Nat), Instr.ndrop 9 16)], decodeTableWord 32 e.1 = some e.2 := by
  decide +kernel

/-- Words of the waits and copies, with every operand field set (R61 to R72). -/
theorem test_decode_waits_and_copies : ∀ e ∈ [((0xAD700001 : Nat), Instr.wsnew 23 true),
    ((0xADE96C11 : Nat), Instr.wsadd 30 37 44 true),
    ((0xAF3E8120 : Nat), Instr.wsdel 51 58 1),
    ((0xAC83C031 : Nat), Instr.wswait 8 15 true),
    ((0xAD674041 : Nat), Instr.watch 22 29 true),
    ((0xAE4AF252 : Nat), Instr.tarm 36 43 50 true false),
    ((0xAF900060 : Nat), Instr.tdisarm 57 0),
    ((0xAC738070 : Nat), Instr.oclose 7 14),
    ((0xB1570002 : Nat), Instr.xcopy 21 28 true false),
    ((0xB23A8012 : Nat), Instr.xstore 35 42 true false),
    ((0xB31E3F22 : Nat), Instr.xgather 49 56 63 true false),
    ((0xB0600030 : Nat), Instr.xbatch 6),
    ((0xB0D50041 : Nat), Instr.xwaitb 13 20 true),
    ((0xB1B8A951 : Nat), Instr.xwaitc 27 34 41 true),
    ((0xB30DC061 : Nat), Instr.xcancel 48 55 true),
    ((0xB3E14071 : Nat), Instr.xstat 62 5 true)], decodeTableWord 32 e.1 = some e.2 := by
  decide +kernel

/-- Words of the tensors and tiles, with every operand field set (R61 to R72). -/
theorem test_decode_tensors_and_tiles : ∀ e ∈ [((0xB4C4C001 : Nat), Instr.tdecl 12 19 true),
    ((0xB5A84003 : Nat), Instr.tdeclDrop 26 33 true),
    ((0xB68BC012 : Nat), Instr.tload 40 47 true false),
    ((0xB76F4022 : Nat), Instr.tstore 54 61 true false),
    ((0xB442C032 : Nat), Instr.tconv 4 11 true false),
    ((0xB5266040 : Nat), Instr.tseal 18 25 32),
    ((0xB67BB541 : Nat), Instr.tsealOpen 39 46 53),
    ((0xB7C0CA50 : Nat), Instr.tinfo 60 3 10),
    ((0xB5160060 : Nat), Instr.meshdef 17 24),
    ((0xB9F98001 : Nat), Instr.treg 31 38 true),
    ((0xBADD0010 : Nat), Instr.tdrop 45 52),
    ((0xBBB08921 : Nat), Instr.tmove 59 2 9 true),
    ((0xB905C031 : Nat), Instr.solicit 16 23 true),
    ((0xB8078040 : Nat), Instr.reply 30),
    ((0xBA5B0052 : Nat), Instr.cwait 37 44 true false)], decodeTableWord 32 e.1 = some e.2 := by
  decide +kernel

/-- Words of the barriers and pools, with every operand field set (R61 to R72). -/
theorem test_decode_barriers_and_pools : ∀ e ∈ [((0xBF300000 : Nat), Instr.barw 51),
    ((0xBFA00010 : Nat), Instr.barc 58),
    ((0xBC120F20 : Nat), Instr.barn 1 8 15),
    ((0xBC058030 : Nat), Instr.gangset 22),
    ((0xBDD00040 : Nat), Instr.irb 29),
    ((0xBC000050 : Nat), Instr.irc),
    ((0xBE4AF260 : Nat), Instr.barinit 36 43 50),
    ((0xFE000EE3 : Nat), Instr.spool 33558243)], decodeTableWord 32 e.1 = some e.2 := by
  decide +kernel

/-- The operands of the lane words below: every field of R73 set. -/
def laneFields : LaneOp := { stall := 5, d := 0x41, a := 0x12, b := 0x33, c := 0x64, k := 6, ty := 0xB, md := 0x1357, imm := 0x89ABCDEF }

/-- The lane word of an op9 with those fields (R73). -/
def laneWord (op9 : Nat) : Nat :=
  0x5 * 2 ^ 92 + op9 * 2 ^ 80 + 0x41 * 2 ^ 73 + 0x12 * 2 ^ 66 + 0x33 * 2 ^ 59 + 0x64 * 2 ^ 52 +
    0x6 * 2 ^ 49 + 0xB * 2 ^ 45 + 0x1357 * 2 ^ 32 + 0x89ABCDEF

/-- The op9 map of R79: the lane words of the arithmetic. -/
theorem test_decode_lane_arithmetic : ∀ e ∈ [((0x000 : Nat), Instr.vadd), ((0x001 : Nat), Instr.vsub), ((0x002 : Nat), Instr.vmul),
    ((0x003 : Nat), Instr.vmulh), ((0x004 : Nat), Instr.vmad), ((0x005 : Nat), Instr.vabs), ((0x006 : Nat), Instr.vneg),
    ((0x007 : Nat), Instr.vmin), ((0x008 : Nat), Instr.vmax), ((0x009 : Nat), Instr.vavg), ((0x00A : Nat), Instr.vsad),
    ((0x00B : Nat), Instr.vdot4), ((0x010 : Nat), Instr.vand), ((0x011 : Nat), Instr.vor), ((0x012 : Nat), Instr.vxor),
    ((0x013 : Nat), Instr.vandn), ((0x014 : Nat), Instr.vnot), ((0x018 : Nat), Instr.vshl), ((0x019 : Nat), Instr.vshr),
    ((0x01A : Nat), Instr.vsra), ((0x01B : Nat), Instr.vrol), ((0x020 : Nat), Instr.vclz), ((0x021 : Nat), Instr.vpopc),
    ((0x022 : Nat), Instr.vbfx), ((0x023 : Nat), Instr.vbfi), ((0x028 : Nat), Instr.vsel), ((0x029 : Nat), Instr.vmov),
    ((0x02A : Nat), Instr.vmovi), ((0x02B : Nat), Instr.vlaneid), ((0x030 : Nat), Instr.vcmp), ((0x031 : Nat), Instr.vcmpk),
    ((0x040 : Nat), Instr.vfadd), ((0x041 : Nat), Instr.vfsub)],
    decodeTableWord 96 (laneWord e.1) = some (e.2 laneFields) := by decide +kernel

/-- The op9 map of R79: the lane words of the floats. -/
theorem test_decode_lane_floats : ∀ e ∈ [((0x042 : Nat), Instr.vfmul), ((0x043 : Nat), Instr.vfma), ((0x044 : Nat), Instr.vfmin),
    ((0x045 : Nat), Instr.vfmax), ((0x046 : Nat), Instr.vfabs), ((0x047 : Nat), Instr.vfneg), ((0x048 : Nat), Instr.vfcmp),
    ((0x049 : Nat), Instr.vfcmpk), ((0x04A : Nat), Instr.vfclass), ((0x04B : Nat), Instr.vfdot2), ((0x04C : Nat), Instr.vfsumh),
    ((0x04E : Nat), Instr.vfcpsgn), ((0x080 : Nat), Instr.vfrcp), ((0x081 : Nat), Instr.vfrsq), ((0x082 : Nat), Instr.vfsqrt),
    ((0x083 : Nat), Instr.vfexp2), ((0x084 : Nat), Instr.vflog2), ((0x085 : Nat), Instr.vfsin), ((0x086 : Nat), Instr.vfcos),
    ((0x087 : Nat), Instr.vftanh), ((0x088 : Nat), Instr.vfdiv), ((0x0A0 : Nat), Instr.vcvt), ((0x0A1 : Nat), Instr.vpack),
    ((0x0A2 : Nat), Instr.vunpk), ((0x0A3 : Nat), Instr.vbscale), ((0x0A4 : Nat), Instr.vbquant), ((0x0A5 : Nat), Instr.vswz),
    ((0x0C0 : Nat), Instr.vperm), ((0x0C1 : Nat), Instr.vbcast)],
    decodeTableWord 96 (laneWord e.1) = some (e.2 laneFields) := by decide +kernel

/-- The op9 map of R79: the lane words of the exchanges memory control and matrix. -/
theorem test_decode_lane_exchanges_memory_control_and_matrix : ∀ e ∈ [((0x0C2 : Nat), Instr.vshfl), ((0x0C3 : Nat), Instr.vrfal),
    ((0x0C4 : Nat), Instr.vred), ((0x0C5 : Nat), Instr.vscan), ((0x0C6 : Nat), Instr.vballot), ((0x0E0 : Nat), Instr.vld),
    ((0x0E1 : Nat), Instr.vst), ((0x0E2 : Nat), Instr.vatom), ((0x0E3 : Nat), Instr.vpref), ((0x0F0 : Nat), Instr.lbr),
    ((0x0F1 : Nat), Instr.ljoin), ((0x0F2 : Nat), Instr.lend), ((0x0F3 : Nat), Instr.lnop), ((0x0F4 : Nat), Instr.lkill),
    ((0x0F5 : Nat), Instr.lelect), ((0x0F6 : Nat), Instr.ljmp), ((0x100 : Nat), Instr.mj), ((0x101 : Nat), Instr.mfence),
    ((0x102 : Nat), Instr.mwait), ((0x103 : Nat), Instr.amovr), ((0x104 : Nat), Instr.amovw), ((0x105 : Nat), Instr.azero),
    ((0x106 : Nat), Instr.astore), ((0x120 : Nat), Instr.vpass), ((0x121 : Nat), Instr.vtake)],
    decodeTableWord 96 (laneWord e.1) = some (e.2 laneFields) := by decide +kernel

/-! ## Witnesses: the scalar stream -/

theorem witness_BitFieldWords :
    ((63 : BitVec 6).toNat + ((0 : BitVec 6).toNat + 1) ≤ 64 ∧ (0 : BitVec 6).toNat + ((63 : BitVec 6).toNat + 1) ≤ 64) ∧
    64 < (1 : BitVec 6).toNat + ((63 : BitVec 6).toNat + 1) := by decide

/-- The state that fetches a word of major 0x0D with fn[7:6] = 1. -/
def badSelect : State := State.reset.place false (0x0D * 2 ^ 26 + 64)

theorem witness_SelectWord : ∃ s v u p page n k, State.Fetches s u k p page v n ∧ n / 2 ^ 26 = 0x0D ∧ n / 2 ^ 6 % 4 ≠ 0 :=
  ⟨badSelect, _, 4, _, _, _, _, ⟨rfl, rfl, rfl, rfl, rfl, rfl, rfl, ⟨_, rfl, rfl, rfl⟩, rfl⟩, by decide, by decide⟩

/-- A branch from the first word of the section: to the next word, to a word beyond the section, and from a misaligned pc. -/
theorem witness_ConditionalBranches :
    (((demo.rs 0 = 0 ∧ demo.cw.pc + (BitVec.signExtend 64 (1 : BitVec 16)) * 4 = 0x50004) ∧
        demo.inCode 0x50004 = true ∧ (0x50004 : Word).toNat % 4 = 0) ∧
      demo.inCode (demo.cw.pc + (BitVec.signExtend 64 (8 : BitVec 16)) * 4) = false ∧
      ((onWave demo fun w => { w with pc := 0x50002 }).cw.pc + (BitVec.signExtend 64 (8 : BitVec 16)) * 4).toNat % 4 ≠ 0) ∧
    demo.cw.eng.queue = [] ∧ demo.cw.rk 1 &&& demo.cw.live = 0 ∧
    (onWave demo fun w => w.wk 1 1).cw.rk 1 &&& (onWave demo fun w => w.wk 1 1).cw.live ≠ 0 := by decide

theorem witness_Jumps : demo.inCode (demo.cw.pc + (BitVec.signExtend 64 (7 : BitVec 26)) * 4) = true ∧
    demo.inCode (demo.cw.pc + (BitVec.signExtend 64 (8 : BitVec 26)) * 4) = false ∧
    (withRegs demo [(5, 0x5001C)]).inCode ((withRegs demo [(5, 0x5001C)]).rs 5) = true ∧
    ((withRegs demo [(5, 0x5001E)]).rs 5).toNat % 4 ≠ 0 := by decide

theorem witness_MaskWords : demo.cw.eng.queue = [] := by decide

/-- LRUN of the last word and of the one beyond it; a running engine, a full queue, and a handler's full queue. -/
theorem witness_LaneBlockEnqueue :
    (∃ k, demo.kernelOf demo.cw = some k ∧ (7 : BitVec 26).toNat < k.lwords ∧ k.lwords ≤ (8 : BitVec 26).toNat) ∧
    (demo.cw.eng.queue = [] ∧ demo.cw.eng.running = false) ∧
    (lane.cw.level = .ordinary ∧ lane.cw.eng.queue.length < 8 ∧ lane.cw.eng.queue ≠ [] ∧ lane.cw.eng.running = true) ∧
    8 ≤ (queued demo 8).cw.eng.queue.length ∧ (atHandler.cw.level = .handler ∧ 2 ≤ (queued atHandler 2).cw.eng.queue.length) := by
  refine ⟨⟨_, rfl, ?_⟩, ?_⟩ <;> decide

theorem witness_LaneQueueWaits :
    ((7 : BitVec 6).toNat ≤ 7 ∧ (queued demo 7).cw.eng.queue.length ≤ (7 : BitVec 6).toNat) ∧
    (7 : BitVec 6).toNat < (queued demo 8).cw.eng.queue.length ∧ 7 < (8 : BitVec 6).toNat ∧ 2 ≤ (queued demo 2).cw.eng.queue.length ∧
    demo.cw.eng.queue = [] ∧
    ((queued demo 1).cw.eng.queue.length = 1 ∧ ∀ p ∈ (queued demo 1).allPaths, p.ended = true ∧ p.var = []) := by
  decide +kernel

theorem witness_LaneQueueWaits_results : demo.resultsWritten = true ∧ lane.resultsWritten = false := by decide +kernel

/-- The path of `lane` stands at a word that writes a register. -/
theorem witness_LaneQueueWaits_writes : lane.cw.eng.queue ≠ [] ∧
    ∃ p ∈ lane.allPaths, p.ended = false ∧ ∃ k i, lane.kernelOf lane.cw = some k ∧ lane.peekLane k p.lpc = some i ∧ quietFlow p.lpc i = none := by
  refine ⟨by decide, lane.cp, ?_, by decide, (lane.kernelOf lane.cw).get (by decide), .vadd { stall := 0, d := 0, a := 0, b := 0, c := 0, k := 0, ty := 0, md := 0, imm := 0 }, ?_, ?_, ?_⟩ <;> decide +kernel

/-! ## Witnesses: traps, system registers -/

theorem has_handler : ∃ k, HasHandler handled k 4 := ⟨_, rfl, rfl, rfl, rfl⟩

theorem witness_TrapWords : ∃ s k h, HasHandler s k h := ⟨handled, has_handler.choose, 4, has_handler.choose_spec⟩

theorem witness_PoolReached : ∃ s k h, HasHandler s k h := witness_TrapWords

theorem witness_TakingATrap :
    (∃ k, handled.kernelOf handled.cw = some k ∧ handled.cp.live = false ∧ k.handler = some 4 ∧ handled.cw.level = .ordinary) ∧
    (∃ k c, atHandler.kernelOf atHandler.cw = some k ∧ atHandler.cp.live = false ∧ atHandler.cw.level = .handler ∧
      atHandler.ctx? atHandler.cw.ctx = some c ∧ { atHandler with clusters := [] }.clusters = [] ∧
      (atHandler.func? c.dev c.func).isSome = true) ∧
    ∃ k, demo.kernelOf demo.cw = some k ∧ k.handler = none ∧ demo.cp.live = false :=
  ⟨⟨_, rfl, rfl, rfl, rfl⟩, ⟨_, _, rfl, rfl, rfl, rfl, rfl, rfl⟩, ⟨_, rfl, rfl, rfl⟩⟩

/-- A wave at handler level whose trap was TRAP of the word at 0x50008. -/
def trapped : State := onWave atHandler fun w => { w with hcause := 0x41, hpc := 0x50008 }

theorem witness_ReturnFromWord : demo.cw.level = .ordinary ∧
    (trapped.cw.level = .handler ∧ trapped.cw.eng.queue = [] ∧ trapped.cw.causeLane = false ∧ trapped.cw.causeXfer = false ∧
      trapped.cw.trapIrb = none ∧ trapped.cw.trapBoundary = false ∧ trapped.cw.hcause.toNat % 256 ≠ 0x03 ∧
      trapped.cw.hcause.toNat % 256 ≠ 0x71 ∧ trapped.cw.causeRedir = false ∧
      trapped.inCode trapped.cw.hpc = true ∧ trapped.inCode (trapped.cw.hpc + 4) = true) ∧
    (onWave trapped fun w => { w with hcause := 0x841 }).cw.causeRedir = true := by decide

/-- A return whose trap was of a lane word: its path 7 is held at word 5. -/
def laneTrapped (code : Nat) : State :=
  let held := { Engine.empty with paths := [{ Path.blank with id := 7, lpc := 5, mask := 3, ended := false }, { Path.blank with id := 8 }] }
  onWave trapped fun w => { w with hcause := .ofNat 64 (0x100 + code), trapPath := 7, held }

theorem witness_ReturnFromLaneWord : ∀ n ∈ [0x06, 0x30, 0x71], ∃ s, s = laneTrapped n ∧ s.cw.level = .handler ∧ s.cw.eng.queue = [] ∧ s.cw.causeLane = true ∧
    s.cw.causeXfer = false ∧ s.cw.trapIrb = none ∧ s.cw.causeCode = n ∧ s.cw.hpc.toNat % 4 = 0 ∧ s.inCode s.cw.hpc = true ∧
    s.cw.held.paths.map (·.id) = [7, 8] ∧ s.cw.trapPath = 7 :=
  fun n hn => ⟨_, rfl, by revert n; decide⟩

/-- A return whose trap was of a stopped copy. -/
def copyTrapped : State :=
  { onWave trapped fun w => { w with hcause := 0x471, trapCopy := 20 } with
    copies := [{ uid := 20, dev := 0, hoop := 0, ctx := 1, wave := 4, team := 2, cluster := bootTeam.cluster, tpos := 0, banks := 1, left := none, core := 0, batch := 1,
                 job := .copy, words := [], tensor := 0, st := .stopped, engine := 0, cleared := false, chunks := [], written := [], counted := [], rimAddr := 0,
                 stopChunk := 0, trap := some { cause := 0x71, xfer := true }, order := 0, readGen := none, phase := 0, peerWait := none,
                 reported := false, restart := false }] }

theorem witness_ReturnFromCopy : ∃ c, copyTrapped.copy? copyTrapped.cw.trapCopy = some c ∧ c.st = .stopped ∧ copyTrapped.cw.level = .handler ∧
    copyTrapped.cw.eng.queue = [] ∧ copyTrapped.cw.causeLane = false ∧ copyTrapped.cw.causeXfer = true ∧ copyTrapped.cw.trapIrb = none ∧
    copyTrapped.cw.causeCode ≠ 0x03 ∧ copyTrapped.cw.hpc.toNat % 4 = 0 ∧ copyTrapped.inCode copyTrapped.cw.hpc = true :=
  ⟨_, rfl, rfl, by decide⟩

/-- The wait in progress that a trap abandoned. -/
def left : WaitRec := { kind := .barrier, obj := 0, d := 0, since := 0, ord := 0, blocking := true }

/-- A TCONV, and a transfer's FABRIC_POISON in a wait. -/
theorem witness_ReturnFromCopy_other :
    (∃ s : State, s = { copyTrapped with copies := copyTrapped.copies.map fun c => { c with job := .tconv } } ∧ s.copies.map (·.job) = [.tconv] ∧
      s.copies.map (·.st) = [.stopped] ∧ s.cw.causeXfer = true) ∧
    ∃ s, s = (onWave copyTrapped fun w => { w with hcause := 0x470, abandoned := some left }) ∧ s.cw.causeXfer = true ∧ s.cw.causeRedir = false ∧
      s.cw.causeCode = 0x70 ∧ s.cw.abandoned.isSome = true ∧ s.inCode (s.cw.hpc + 4) = true :=
  ⟨⟨_, rfl, rfl, rfl, rfl⟩, _, rfl, rfl, rfl, rfl, rfl, by decide⟩

/-- A return after other traps; the kernel of the wave has data lines from word `at'` on. -/
def otherTrapped (code : Nat) (pools : List (Nat × Nat)) (f : Wave → Wave) : State :=
  onCtx (onWave trapped fun w => f { w with hcause := .ofNat 64 code, haddr := 0x50000 })
    fun c => { c with kernels := c.kernels.map fun k => { k with swords := 24, pools } }

theorem witness_ReturnTargets : (∀ x ∈ [(0x17, [], fun (w : Wave) => { w with trapIrb := some 0x50004 }), (0x70, [], fun w => { w with trapBoundary := true }),
      (0x70, [], fun w => { w with trapBoundary := true, abandoned := some left }), (0x03, [], id), (0x03, [(0, 8), (8, 8)], id), (0x71, [], id)],
      ∃ s, s = otherTrapped x.1 x.2.1 x.2.2 ∧ s.cw.level = .handler ∧ s.cw.eng.queue = [] ∧ s.cw.causeLane = false ∧ s.cw.causeXfer = false ∧
        s.cw.causeRedir = false ∧ s.cw.causeCode = x.1 ∧ s.inCode s.cw.hpc = true ∧ s.inCode (s.cw.hpc + 4) = true ∧ s.inCode 0x50004 = true ∧
        s.cw.trapIrb = (if x.1 = 0x17 then some 0x50004 else none) ∧ s.cw.trapBoundary = (x.1 == 0x70) ∧
        ∃ k, s.kernelOf s.cw = some k ∧ k.dataLine s.cw.haddr.toNat = !x.2.1.isEmpty ∧ ∀ p ∈ k.pools, p.1 + p.2 ≤ k.swords) ∧
    ∃ s k, s = otherTrapped 0x03 [(0, 8), (8, 8)] id ∧ s.kernelOf s.cw = some k ∧ (0x50040 : Word).toNat % 32 = 0 ∧
      s.cw.haddr.toNat < (0x50040 : Word).toNat ∧ k.dataLine (0x50040 : Word).toNat = false ∧ s.inCode 0x50040 = true ∧
      ∀ b, s.cw.haddr.toNat ≤ b → b < (0x50040 : Word).toNat → k.dataLine b = true := by
  refine ⟨fun x hx => ⟨_, rfl, ?_⟩, _, _, rfl, rfl, by decide, by decide, by decide, by decide, ?_⟩
  · simp only [List.mem_cons, List.not_mem_nil, or_false] at hx
    rcases hx with rfl | rfl | rfl | rfl | rfl | rfl <;>
      exact ⟨rfl, rfl, by decide, by decide, by decide, by decide, by decide, by decide, by decide, rfl, rfl, _, rfl, by decide, by decide⟩
  · intro b h1 h2
    have h3 : 0x50000 ≤ b := h1
    have h4 : b < 0x50040 := h2
    obtain ⟨n, rfl⟩ := Nat.exists_eq_add_of_le h3
    have h5 : n < 64 := by omega
    clear h1 h2 h3 h4
    revert n
    decide

theorem witness_ReturnStops : (∃ s, s = (onWave trapped fun w => { w with eng := { w.eng with queue := [{ start := 0, uniform := [], chk := 0, gang := 0 }] } }) ∧
      s.cw.level = .handler ∧ s.cw.eng.queue ≠ []) ∧
    ∀ x ∈ [(0x50002 : Word), 0x40000], ∃ s, s = (onWave trapped fun w => { w with hcause := 0x841, hpc := x }) ∧ s.cw.level = .handler ∧
      s.cw.eng.queue = [] ∧ s.cw.causeRedir = true ∧ (s.cw.hpc.toNat % 4 ≠ 0 ∨ s.inCode s.cw.hpc = false) :=
  ⟨⟨_, rfl, rfl, by decide⟩, fun x hx => by
    simp only [List.mem_cons, List.not_mem_nil, or_false] at hx
    rcases hx with rfl | rfl
    · exact ⟨_, rfl, rfl, rfl, by decide, .inl (by decide)⟩
    · exact ⟨_, rfl, rfl, rfl, by decide, .inr (by decide)⟩⟩

theorem witness_SystemRegisterRead : (0x025 : BitVec 12) ∈ sysRegisters.map (·.1) ∧ atHandler.cw.level = .handler ∧
    demo.cw.eng.queue = [] ∧ (0x026 : BitVec 12) ∉ sysRegisters.map (·.1) ∧ demo.cw.level = .ordinary := by decide

theorem witness_SystemRegisterWrite :
    ((withRegs demo [(5, 0x1F05)]).cw.eng.queue = [] ∧ (withRegs demo [(5, 0x1F05)]).rs 5 &&& ~~~0x1F1F = 0 ∧
      ((withRegs demo [(5, 0x1F05)]).rs 5).toNat % 8 < 6) ∧
    6 ≤ ((withRegs demo [(5, 6)]).rs 5).toNat % 8 ∧ (withRegs demo [(5, 0x20)]).rs 5 &&& ~~~0x1F ≠ 0 ∧
    atHandler.cw.level = .handler ∧ (0x005 : BitVec 12) ∉ sysWritable.map (·.1) ∧ demo.cw.eng.queue = [] ∧ (0x006 : BitVec 12) ∉ sysWritable.map (·.1) ∧
    (0x025 : BitVec 12) ∉ sysWritable.map (·.1) ∧ demo.cw.level = .ordinary ∧ (queued demo 1).cw.eng.queue ≠ [] := by decide

theorem witness_CountersAndTime : demo.ctx? demo.cw.ctx = some (ctxOf demo) ∧ (ctxOf demo).svc = false ∧
    (ctxOf (onCtx demo fun c => { c with svc := true })).svc = true ∧ (0x804 : BitVec 12) ∉ [0x800, 0x801, 0x802, (0x803 : BitVec 12)] ∧
    (demo.dev? demo.cw.dev).isSome = true := by decide

theorem witness_HaltParks : (ctxOf demo).svc = false ∧ (ctxOf (onCtx demo fun c => { c with svc := true })).svc = true ∧
    { demo with clusters := [] }.clusters = [] ∧ demo.wcb = [] := by decide

/-! ## Witnesses: scalar memory -/

/-- s4 at the team's scratchpad, s5 at the first byte of the data section in local memory, s6 misaligned, s7 past the mapped GiB,
s8 at a peer's memory. -/
def reads : State := withRegs demo [(4, 0x0100000000000008), (5, 0x70000), (6, 0x70001), (7, 0x40000000), (8, 0x0200000000000000)]

theorem witness_ScalarLoad : reads.cw.region = none ∧ reads.poison = [] ∧
    (∃ team o u, reads.Reaches .load (reads.rs 4) 8 (.scratch team o) u) ∧
    (∃ p page u, reads.Reaches .load (reads.rs 5) 8 (.phys p page) u ∧ u.Local p 8 ∧ u.Uncounted page) ∧
    (reads.rs 6).toNat % 2 ≠ 0 ∧ ∃ t u, reads.locate reads.cw .load (reads.rs 7).toNat 8 = (.bad t, u) :=
  ⟨rfl, rfl, ⟨_, _, _, rfl⟩, ⟨_, _, _, rfl, ⟨rfl, rfl, rfl⟩, fun _ h => by cases h; exact ⟨rfl, rfl⟩⟩, by decide, ⟨_, _, rfl⟩⟩

/-- `reads` in an open region that holds the byte at 0x70001. -/
def regionReads : State := onWave reads fun w => { w with region := some { irb := 0x50000, buf := [(0x70001, 5)] } }

theorem witness_ScalarLoad_region : regionReads.cw.region.isSome = true ∧ regionReads.poison = [] ∧
    (∃ team o u, regionReads.Reaches .load (regionReads.rs 4) 8 (.scratch team o) u) ∧
    ∃ p page u, regionReads.Reaches .load (regionReads.rs 5) 8 (.phys p page) u ∧ u.Local p 8 ∧ u.Uncounted page :=
  ⟨rfl, rfl, ⟨_, _, _, rfl⟩, _, _, _, rfl, ⟨rfl, rfl, rfl⟩, fun _ h => by cases h; exact ⟨rfl, rfl⟩⟩

/-- Stores: s9 is stored; the addresses are those of `reads`. -/
theorem witness_ScalarStore : reads.cw.region = none ∧ reads.poison = [] ∧ reads.MemWf ∧
    (∃ team x o u, reads.Reaches .store (reads.rs 4) 8 (.scratch team o) u ∧ reads.team? team = some x ∧ Memory.wf x.scratch = true) ∧
    (∃ p page u, reads.Reaches .store (reads.rs 5) 8 (.phys p page) u ∧ u.Local p 8 ∧ u.Uncounted page) ∧
    (reads.rs 6).toNat % 2 ≠ 0 ∧ ∃ t u, reads.locate reads.cw .store (reads.rs 7).toNat 8 = (.bad t, u) :=
  ⟨rfl, rfl, rfl, ⟨_, _, _, _, rfl, rfl, rfl⟩, ⟨_, _, _, rfl, ⟨rfl, rfl, rfl⟩, fun _ h => by cases h; exact ⟨rfl, rfl⟩⟩, by decide,
    ⟨_, _, rfl⟩⟩

/-- The 1 GiB stage-1 leaf of the placed context at a level-0 table for its page 0x70000, whose physical address is `p`. -/
def pageAt (s : State) (p : Nat) : State :=
  let m := Memory.writeBytes s.mem 0x40000 (leBytes 0x48001 8)
  let m := Memory.writeBytes m 0x48000 (leBytes 0x4A001 8)
  { s with mem := Memory.writeBytes m 0x4A380 (leBytes (p + 0x6F) 8) }

/-- The page 0x70000 in the memory of device 1, of a partition of the same domain. -/
def peerEntry : TlbEntry :=
  { dev := 0, core := 0, ctx := 1, va := 0x70000, size := 4096, base := 0x80000000000, r := true, w := true, x := true, g := false,
    wb := false, leaf1 := 0, leaf2 := 0, ia := 0, ct1 := false, ct2 := false, dirty := true, count := 0, size1 := 4096, size2 := 4096, tables := [] }
def peerPage : State :=
  { reads with
    tlb := [peerEntry], owners := reads.owners ++ [{ dev := 1, first := 0, count := 16384, code := 1 }],
    parts := reads.parts.flatMap fun p => [{ p with domain := 1 }, { p with dev := 1, domain := 1 }] }

theorem witness_ScalarStore_peer : ∃ p page u, peerPage.Reaches .store (peerPage.rs 5) 8 (.phys p page) u ∧ u.wcb = [] ∧
    isPeer (u.whoOf u.cw).dev p = true ∧ u.Uncounted page :=
  ⟨0x80000000000, 0x70000, (peerPage.locate peerPage.cw .store (peerPage.rs 5).toNat 8).2, Prod.ext (by decide) rfl, by decide, by decide,
    fun e h => by
      have : some peerEntry = some e := h
      cases this
      exact ⟨rfl, rfl⟩⟩

theorem witness_ScalarAtomic : reads.cw.region = none ∧ reads.poison = [] ∧ reads.cw.eng.queue = [] ∧ reads.wcb = [] ∧ reads.MemWf ∧
    (∃ p page u, reads.Reaches .rmw (reads.rs 5) 8 (.phys p page) u ∧ u.Local p 8 ∧ u.Uncounted page) ∧ (reads.rs 6).toNat % 4 ≠ 0 ∧
    (onWave reads fun w => { w with region := some { irb := 0, buf := [] } }).cw.region.isSome = true :=
  ⟨rfl, rfl, rfl, rfl, rfl, ⟨_, _, _, rfl, ⟨rfl, rfl, rfl⟩, fun _ h => by cases h; exact ⟨rfl, rfl⟩⟩, by decide, rfl⟩

/-- The kernel's section of 32 words has its lines 0 in data lines: the pool of 14 words after the SPOOL word and one more. -/
def pooled : State := onKernel demo fun k => { k with swords := 32, pools := [(0, 15)] }

theorem witness_PoolLoad : ∃ u k p page, pooled.kernelOf pooled.cw = some k ∧ pooled.cw.region = none ∧ 8 * 0 + 8 ≤ 4 * k.swords ∧
    k.dataLine k.sbase = true ∧ k.dataLine (k.sbase + 7) = true ∧ k.sbase < 2 ^ 64 ∧
    pooled.Reaches .load (.ofNat 64 k.sbase) 8 (.phys p page) u ∧ u.Local p 8 ∧ u.Uncounted page ∧
    4 * k.swords < 8 * (16 : BitVec 20).toNat + 8 ∧ k.dataLine (k.sbase + 8 * (15 : BitVec 20).toNat) = false :=
  ⟨_, _, _, _, rfl, rfl, by decide, by decide, by decide, by decide, rfl, ⟨rfl, rfl, rfl⟩, fun _ h => by cases h; exact ⟨rfl, rfl⟩,
    by decide, by decide⟩

theorem witness_HintsAndFences : (6 : BitVec 3) ≠ 7 ∧ (2 : BitVec 2) ≠ 3 ∧ demo.cw.region = none ∧ demo.cw.eng.queue = [] ∧ demo.wcb = [] ∧
    demo.copies = [] ∧ lane.cw.region = none ∧ lane.cw.eng.queue ≠ [] := by decide

theorem witness_TranslationSetsOnlyAD : demo.MemWf ∧ ∃ r u, demo.locate demo.cw .store 0x70000 8 = (r, u) := ⟨rfl, _, _, rfl⟩

/-- The first address past the windows of a context, the one past the FIFO window, and the first past the team's one bank. -/
theorem witness_AddressesOutsideEveryWindow :
    (2 ^ 56 ≤ 2 ^ 56 + 0x0D000000 ∧ ¬ (2 ^ 56 + 0x0D000000 < 2 ^ 56) ∧ 2 ^ 56 + 0x0D000000 < fifoWindow) ∧ 2 ^ 56 ≤ fifoWindow + 0x200 ∧
    ∃ t, demo.team? demo.cw.team = some t ∧ 2 ^ 56 + 131072 < 2 ^ 56 + 2 ^ 24 ∧ t.banks * 131072 ≤ (2 ^ 56 + 131072) % 2 ^ 24 :=
  ⟨by decide, by decide, _, rfl, by decide, by decide⟩

/-! ## Witnesses: waves and handles -/

theorem demo_uids : demo.UidsGiven := by constructor <;> decide

/-- Fifteen more waves in the team. -/
def crowded : State :=
  { demo with nextUid := 200, waves := demo.waves ++ (List.range 15).map fun i =>
      { Wave.blank 0 with uid := 100 + i, ctx := 1, team := 2, kernel := 1, index := i + 1, st := .resident } }

/-- Every slot of the spill area in use. -/
def slotless : State := onCtx demo fun c => { c with slotsUsed := List.range 8 }

theorem crowded_uids : crowded.UidsGiven := by constructor <;> decide

theorem witness_SpawnWord :
    (∃ k, demo.Calls (runOf 20 3) (ctxOf demo) ∧ demo.kernelOf demo.cw = some k ∧ demo.Settled ∧ demo.UidsGiven ∧ demo.cw.uid ≠ 0 ∧
      (demo.rs 20).toNat < 2 ^ 11 ∧ (demo.rs 20).toNat % 256 < k.entries.length ∧ demo.roomForWaves (ctxOf demo) 1 = true ∧
      demo.teamFull k = false) ∧
    (∃ k, crowded.kernelOf crowded.cw = some k ∧ crowded.UidsGiven ∧ crowded.teamFull k = true ∧
      k.entries.length ≤ ((withRegs demo [(20, 1)]).rs 20).toNat % 256) ∧
    slotless.roomForWaves (ctxOf slotless) 1 = false :=
  ⟨⟨_, calls rfl rfl rfl, rfl, settled rfl rfl, demo_uids, by decide, by decide, by decide, by decide, by decide⟩, ⟨_, rfl, crowded_uids, by decide, by decide⟩,
    by decide⟩

/-- Another wave of the team, under the handle at index 1, named by s4. -/
def wave6 : Wave :=
  { Wave.blank 0 with uid := 6, ctx := 1, team := 2, kernel := 1, index := 1, handle := 0x10100001, st := .resident, joinable := true }
def twoWaves : State :=
  withRegs { withObj demo kWAVE 6 1 with waves := demo.waves ++ [wave6] } [(4, handleOf kWAVE 1)]

/-- That wave has ended. -/
def endedWave : State := { twoWaves with waves := twoWaves.waves.map fun w => { w with st := .exited } }

theorem witness_WavesEnd : twoWaves.Calls [4] (ctxOf twoWaves) ∧ twoWaves.cw.uid ≠ 0 ∧ twoWaves.cw.st.onCore = true ∧ twoWaves.Settled ∧
    twoWaves.copies = [] ∧ lane.cw.eng.queue ≠ [] ∧ (demo.rs 4).setWidth 32 = (0 : BitVec 32) ∧
    ∃ w, w.st ≠ .exited ∧ w.uid ≠ twoWaves.cw.uid ∧ (twoWaves.rs 4).setWidth 32 ≠ (0 : BitVec 32) ∧ twoWaves.Names 4 [kWAVE] kWAVE w.uid ∧
      twoWaves.wave? w.uid = some w :=
  ⟨calls rfl rfl rfl, by decide, rfl, settled rfl rfl, rfl, by decide, by decide, wave6, by decide, by decide, by decide,
    rfl, rfl⟩

theorem witness_WaveCalls : twoWaves.Calls [4, 5] (ctxOf twoWaves) ∧ twoWaves.cw.uid ≠ 0 ∧ twoWaves.cw.st.onCore = true ∧
    (∃ w : Wave, (twoWaves.rs 4).setWidth 32 ≠ (0 : BitVec 32) ∧ w.uid ≠ twoWaves.cw.uid ∧ twoWaves.Names 4 [kWAVE] kWAVE w.uid ∧
      twoWaves.wave? w.uid = some w ∧ w.st ≠ .exited ∧ w.joinable = true ∧ twoWaves.cw.joining = none) ∧
    ∃ w, endedWave.Names 4 [kWAVE] kWAVE w.uid ∧ endedWave.wave? w.uid = some w ∧ w.st = .exited ∧ w.joinable = true :=
  ⟨calls rfl rfl rfl, by decide, rfl,
    ⟨wave6, by decide, by decide, rfl, rfl, by decide, rfl, rfl⟩,
    ⟨{ wave6 with st := .exited }, rfl, rfl, rfl, rfl⟩⟩

theorem handler_uids : atHandler.UidsGiven := by constructor <;> decide

theorem witness_ContextKill : demo.cw.level = .ordinary ∧ atHandler.cw.level = .handler ∧ atHandler.UidsGiven ∧ atHandler.cw.uid ≠ 0 ∧
    atHandler.ctx? atHandler.cw.ctx = some (ctxOf atHandler) ∧ (ctxOf atHandler).st ≠ .terminating ∧ (ctxOf atHandler).st ≠ .dead :=
  ⟨rfl, rfl, handler_uids, by decide, rfl, by decide, by decide⟩

theorem witness_HandleLife : demo.ctx? (ctxOf demo).uid = some (ctxOf demo) ∧ demo.sliceFull (ctxOf demo) = false ∧
    (ctxOf demo).slice ≤ 2 ^ 20 ∧ 15 < 16 := by decide

/-! ## Witnesses: ports, messages, names -/

/-- An open port of depth 4. -/
def port0 : Port :=
  { uid := 20, dev := 0, ctx := 1, launch := false, prio := 0, depth := 4, resv := 0, allow := 0, drops := 0, st := .opened, queue := [],
    winBase := 0, winSize := 0, window := [], name := none, vector := none }

/-- A queued message of the words 0. -/
def msg0 : Msg := { words := .replicate 8 0, grants := [], reply := none, via := none, seq := 0, completion := false, stamp := 0 }

/-- A port, with its handle at index 1 in s9, and a second one of uid 21, with its handle at index 2 in s5. -/
def withPort (p : Port) : State :=
  withRegs (withObj (withObj { demo with ports := [p, { port0 with uid := 21 }] } kPORT 20 1) kPORT 21 2) [(9, handleOf kPORT 1), (5, handleOf kPORT 2)]

/-- The port full. -/
def fullPort : State := withPort { port0 with queue := .replicate 4 msg0 }

theorem witness_PortLife :
    ((withRegs demo [(20, 4096)]).Calls (runOf 20 3) (ctxOf demo) ∧ PortArgs (ctxOf demo) false 4096 0 0 0 ∧
      (ctxOf demo).quotaUsed + 128 * 4096 ≤ (ctxOf demo).quota ∧ demo.sliceFull (ctxOf demo) = false) ∧
    ¬ PortArgs (ctxOf demo) false 4097 0 0 0 ∧ ¬ PortArgs (ctxOf demo) false 0 0 0 0 ∧
    (ctxOf demo).quota - 128 * 4096 + 1 + 128 * 4096 > (ctxOf demo).quota ∧
    ((withPort port0).Calls [9] (ctxOf demo) ∧ (withPort port0).Names 9 [kPORT, kREMOTE] kPORT 20 ∧ (withPort port0).Names 9 [kPORT] kPORT 20 ∧
      (withPort port0).port? 20 = some port0 ∧ port0.st ≠ .draining ∧ port0.resv = 0 ∧ port0.queue = []) ∧
    (fullPort.port? 20).any (fun p => p.queue ≠ []) = true ∧ ((withPort { port0 with st := .draining }).port? 20).any (·.st == .draining) = true :=
  ⟨⟨calls rfl rfl rfl, by unfold PortArgs; decide, by decide, by decide⟩, by unfold PortArgs; decide, by unfold PortArgs; decide, by decide,
    ⟨calls rfl rfl rfl, rfl, rfl, rfl, by decide, rfl, rfl⟩, by decide, by decide⟩

theorem witness_SendWord : (withPort port0).Calls (9 :: runOf 16 8) (ctxOf demo) ∧ (withPort port0).Settled ∧
    (withPort port0).cw.sending = none ∧ (withPort port0).Names 9 [kPORT, kREMOTE] kPORT 20 ∧
    (withPort port0).port? 20 = some port0 ∧ (withPort port0).shut port0 = false ∧ 1 ≤ port0.freeSlots ∧
    (withPort port0).Names 5 [kPORT] kPORT 21 ∧ (withPort port0).port? 21 = some { port0 with uid := 21 } ∧
    (fullPort.port? 20).any (fun p => p.freeSlots == 0 && !fullPort.shut p) = true ∧
    ((withPort { port0 with st := .draining }).port? 20).any (fun p => (withPort { port0 with st := .draining }).shut p) = true :=
  ⟨calls rfl rfl rfl, settled rfl rfl, rfl, rfl, rfl, by decide, by decide, rfl, rfl, by decide, by decide⟩

/-- A sender of its page 0x70000 to a port with a grant window. -/
def winPort : Port := { port0 with winBase := 2 ^ 30, winSize := 2 ^ 21 }
def granting : State := withRegs (pageAt (withPort winPort) 0x70000) [(24, 0x70003)]

theorem witness_GrantSend : ∃ p loc g, granting.Calls (9 :: runOf 16 10) (ctxOf demo) ∧ granting.Settled ∧ granting.cw.sending = none ∧
    granting.Names 9 [kPORT, kREMOTE] kPORT p.uid ∧ granting.port? p.uid = some p ∧ granting.ctx? p.ctx = some (ctxOf demo) ∧
    granting.shut p = false ∧ p.launch = false ∧ p.winSize ≠ 0 ∧ 1 ≤ p.freeSlots ∧ granting.MemWf ∧ granting.rs (SReg.plus 16 8) = 0x70003 ∧
    granting.rs (SReg.plus 16 9) = 0 ∧ p.dev = granting.cw.dev ∧ (ctxOf demo).part = (granting.whoOf granting.cw).part ∧
    g.dev = granting.cw.dev ∧ granting.lent = [] ∧
    granting.grantable (0x70003 / 4096 * 4096) (grantSize 0x70003) (bitAt 0x70003 1) = .ok (some (.leaf loc, g)) ∧
    g.size = grantSize 0x70003 ∧ granting.tlb = [] ∧ granting.wcb = [] :=
  ⟨winPort, 0x4A380, { dev := 0, addr := 0x70000, size := 4096, w := true }, calls rfl rfl rfl, settled rfl rfl, rfl, rfl, rfl, rfl, by decide, rfl, by decide,
    by decide, rfl, rfl, rfl, rfl, rfl, rfl, rfl, rfl, rfl, rfl, rfl⟩

/-- A port with a message queued, and one whose message may be replied to. -/
def inbox : State := withPort { port0 with queue := [msg0] }
def askedBox : State := withPort { port0 with queue := [{ msg0 with reply := some 21 }] }

theorem witness_ReceiveWords : inbox.Calls [9] (ctxOf demo) ∧ inbox.Names 9 [kPORT] kPORT 20 ∧
    (∃ p, inbox.port? 20 = some p ∧ p.launch = false ∧ p.queue = msg0 :: [] ∧ msg0.grants = [] ∧ msg0.words.length = 8 ∧ msg0.reply = none ∧
      msg0.via = none ∧ p.st ≠ .draining) ∧
    (∃ p m, askedBox.port? 20 = some p ∧ p.queue = m :: [] ∧ m.reply = some 21 ∧ m.completion = false ∧ m.via = none ∧ p.st ≠ .draining ∧
      askedBox.sliceFull (ctxOf demo) = false) ∧
    (withPort port0).port? 20 = some port0 ∧ port0.queue = [] :=
  ⟨calls rfl rfl rfl, rfl, ⟨_, rfl, rfl, rfl, rfl, rfl, rfl, rfl, by decide⟩, ⟨_, _, rfl, rfl, rfl, rfl, rfl, by decide, by decide⟩, rfl, rfl⟩

/-- A port bound to the name 77, in s4, with an allowance of 4. -/
def named : State := withRegs (withPort { port0 with st := .bound, name := some (77, 4) }) [(4, 77)]

theorem witness_NameWords : (withPort port0).domainMoving (ctxOf demo) = false ∧ (withPort port0).Calls (9 :: runOf 16 2) (ctxOf demo) ∧
    ((withPort port0).Names 9 [kPORT] kPORT 20 ∧ (withPort port0).port? 20 = some port0 ∧ port0.name = none ∧
      ((withPort port0).rs (SReg.plus 16 1)).toNat ≤ 64 ∧ (withPort port0).boundPort (ctxOf demo) ((withPort port0).rs 16) = none) ∧
    (∃ p, named.port? 20 = some p ∧ p.st = .bound ∧ p.name.isSome = true ∧ named.domainMoving (ctxOf named) = false ∧
      named.boundPort (ctxOf named) (named.rs 4) = some p ∧ p.name = some (77, 4) ∧ 4 ≤ p.freeSlots ∧ named.sliceFull (ctxOf named) = false) :=
  ⟨by decide, calls rfl rfl rfl, ⟨rfl, rfl, rfl, by decide, rfl⟩, ⟨_, rfl, rfl, rfl, by decide, rfl, rfl, by decide, by decide⟩⟩

/-! ## Witnesses: further clauses of these -/

/-- A wave with a trap due, and settled. -/
def trapDue : State := onWave demo fun w => { w with pending := [{ cause := PROTECTION, boundary := true }] }

theorem witness_WavesEnd_due : trapDue.Settled ∧ trapDue.cw.dueTrap.isSome = true ∧ trapDue.copies = [] := ⟨settled rfl rfl, rfl, rfl⟩

/-- A page that a message grants, in a port with a window for it, and in one without. -/
def page0 : Grant := { dev := 0, addr := 0x70000, size := 4096, w := true }
def gifts (p : Port) : State := withPort { p with queue := [{ msg0 with grants := [page0] }] }

theorem witness_ReceiveWords_grants :
    (∃ p m pages w, (gifts winPort).port? 20 = some p ∧ p.queue = m :: [] ∧ mapGrants p m.grants p.window = some (pages, w) ∧
      pages = [2 ^ 30] ∧ m.words.length = 8) ∧
    ∃ p m, (gifts port0).port? 20 = some p ∧ p.queue = m :: [] ∧ mapGrants p m.grants p.window = none :=
  ⟨⟨_, _, _, _, rfl, rfl, rfl, by decide, rfl⟩, _, _, rfl, rfl, rfl⟩

/-- The bound port with two slots left of four. -/
def tight : State := withRegs (withPort { port0 with st := .bound, name := some (77, 4), resv := 2 }) [(4, 77)]

theorem witness_NameWords_full : ∃ q, tight.boundPort (ctxOf tight) (tight.rs 4) = some q ∧ q.name = some (77, 4) ∧ q.freeSlots < 4 :=
  ⟨_, rfl, rfl, by decide⟩

/-- The port belongs to another device, and the page goes there on loan. -/
def lending : State := { granting with ports := [{ winPort with dev := 1 }] }

theorem witness_GrantSend_away : ∃ p loc g, lending.Names 9 [kPORT, kREMOTE] kPORT p.uid ∧ lending.port? p.uid = some p ∧
    lending.shut p = false ∧ p.winSize ≠ 0 ∧ 1 ≤ p.freeSlots ∧ lending.wcb = [] ∧ p.dev ≠ g.dev ∧ g.dev = lending.cw.dev ∧
    lending.grantable (0x70003 / 4096 * 4096) (grantSize 0x70003) (bitAt 0x70003 1) = .ok (some (.leaf loc, g)) :=
  ⟨{ winPort with dev := 1 }, 0x4A380, { dev := 0, addr := 0x70000, size := 4096, w := true }, rfl, rfl, by decide, by decide, by decide,
    rfl, by decide, rfl, rfl⟩

/-! ## Witnesses: lane words -/

/-- A lane operation on v1, v2, v3 and v4, of a type, with an X field and flags of its modifier. -/
def op (ty : Nat) (x : Nat := 0) (md : Nat := 0) : LaneOp :=
  { stall := 15, d := 4, a := 1, b := 2, c := 3, k := 0, ty := .ofNat 4 ty, md := .ofNat 13 (32 * x + md), imm := 0 }

/-- The same with one operand: b and c 0. -/
def op1 (ty : Nat) (x : Nat := 0) (md : Nat := 0) : LaneOp := { op ty x md with b := 0, c := 0 }

/-- The same with two operands: c 0. -/
def op2 (ty : Nat) (x : Nat := 0) (md : Nat := 0) : LaneOp := { op ty x md with c := 0 }

/-- Ready, computed. -/
def readyB (c : LaneCode) (s : State) (o : LaneOp) : Bool :=
  laneLegal c o s.cw.vregs (((s.team? s.cw.team).map (·.acc)).getD 0) &&
    ((laneReads c o ++ laneWrites c o).all fun r => !s.pendingAt r) && ((laneReads c o).all fun r => s.shortLanes r == 0) &&
    (laneReads c o).all fun r => s.poisonLanes (s.cleanLanes c o r) r == 0

theorem ready {c : LaneCode} {o : LaneOp} {s : State} (h : readyB c s o = true) : LaneReady c o s := by
  simp only [readyB, Bool.and_eq_true, List.all_eq_true, beq_iff_eq, Bool.not_eq_true'] at h
  exact ⟨h.1.1.1, h.1.1.2, h.1.2, h.2⟩

/-- For every operation of a list an operand form of some type that is ready. -/
theorem some_ready {α : Type} (ops : List (α × LaneCode)) (os : List LaneOp) (s : State)
    (h : (ops.all fun e => os.any (readyB e.2 s)) = true) : ∀ e ∈ ops, ∃ o ∈ os, LaneReady e.2 o s := by
  intro e he
  obtain ⟨o, ho, hr⟩ := List.any_eq_true.1 (List.all_eq_true.1 h e he)
  exact ⟨o, ho, ready hr⟩

/-- Operand forms of every type. -/
def forms : List LaneOp := (List.range 16).flatMap fun ty => [op ty, op2 ty, op1 ty]

theorem witness_IntegerLanes : ∀ e ∈ integerOps.map (fun e => (e.1, e.2.1)), ∃ o ∈ forms, LaneReady e.2 o lane :=
  some_ready _ _ _ (by decide)

theorem witness_IntegerSums : LaneReady .vsad (op 0x3) lane ∧ LaneReady .vdot4 (op 0x3) lane := ⟨ready (by decide), ready (by decide)⟩

theorem witness_BitLanes : (∀ e ∈ bitwiseOps.map (fun e => (e.1, e.2.1)), ∃ o ∈ forms, LaneReady e.2 o lane) ∧
    (∀ e ∈ shiftOps.map (fun e => (e.1, e.2.1)), ∃ o ∈ forms, LaneReady e.2 o lane) ∧
    LaneReady .vbfx { op1 1 with imm := 0x1F } lane ∧ LaneReady .vbfi { op1 1 with imm := 0x1F00 } lane ∧
    LaneReady .vlaneid { op1 2 with a := 0 } lane ∧ LaneReady .vmovi { op1 1 with a := 0, imm := 7 } lane :=
  ⟨some_ready _ _ _ (by decide), some_ready _ _ _ (by decide), ready (by decide), ready (by decide), ready (by decide), ready (by decide)⟩

theorem witness_IntegerComparisons : LaneReady .vcmp (op2 1 5) lane ∧ LaneReady .vcmpk (op2 1 13) lane :=
  ⟨ready (by decide), ready (by decide)⟩

theorem quiet_lane (flags : Nat) : lane.Quiet flags := .inr (by
  have : bitsOf lane.cw.fmode.toNat 8 5 = 0 := by decide
  rw [this, Nat.and_zero])

theorem witness_FloatArithmetic : (∀ e ∈ floatOps.map (fun e => (e.1, e.2.1)), ∃ o ∈ forms, LaneReady e.2 o lane) ∧ ∀ f, lane.Quiet f :=
  ⟨some_ready _ _ _ (by decide), quiet_lane⟩

theorem witness_FloatSelection : (∀ e ∈ codeOps.map (fun e => (e.1, e.2.1)), ∃ o ∈ forms, LaneReady e.2 o lane) ∧
    LaneReady .vfcmp (op2 7 5) lane ∧ LaneReady .vfcmpk (op2 7 13) lane :=
  ⟨some_ready _ _ _ (by decide), ready (by decide), ready (by decide)⟩

theorem witness_FloatSums : LaneReady .vfdot2 (op 0x9) lane ∧ LaneReady .vfsumh (op1 0x8) lane ∧ LaneReady .vfsumh (op1 0x7) lane :=
  ⟨ready (by decide), ready (by decide), ready (by decide)⟩

theorem witness_SlowFloats : ∀ e ∈ slowOps.map (fun e => (e.1, e.2.1)), ∃ o ∈ forms, LaneReady e.2 o lane := some_ready _ _ _ (by decide)

/-- The exact sum 2^24 + 1 in FP32, half way between two numbers, and an exact one, in every mode. -/
theorem witness_RoundingModes : fp32 ∈ [fp64, fp32, fp16, bf16, e5m2, e4m3, e2m1, e3m5] ∧ 0 < 2 ^ 24 + 1 ∧ (-149 : Int) ≤ 1 - (fp32.bias : Int) - fp32.fb ∧
    (∀ mode < 4, (roundMag fp32 { mode, sat := false, ftz := false, entry := 0 } false (2 ^ 24 + 1) 0 false).flags &&& OF = 0) ∧
    (roundMag fp32 { mode := 0, sat := false, ftz := false, entry := 0 } false 3 0 false).flags = 0 := by decide

theorem witness_FloatSpecials : fp16 ∈ [fp64, fp32, fp16, bf16, e5m2] ∧ Env.rn.sat = false ∧ 0 < 1 := by decide

theorem witness_ConversionLanes : (∃ st dt, subTy 0x7 = some st ∧ subTy 0x8 = some dt ∧ LaneReady .vcvt { op1 0x8 with c := 0x7 } lane ∧
      LaneReady .vpack { op2 0x8 with c := 0x7 } lane) ∧
    (∃ st dt, subTy 0x8 = some st ∧ subTy 0x7 = some dt ∧ LaneReady .vcvt { op1 0x7 with c := 0x8 } lane) ∧
    (∃ t, subTy (unpackTy 0x9 false) = some t ∧ LaneReady .vunpk (op1 0x9) lane) ∧ LaneReady .vswz (op2 0x8) lane :=
  ⟨⟨_, _, rfl, rfl, ready (by decide), ready (by decide)⟩, ⟨_, _, rfl, rfl, ready (by decide)⟩, ⟨_, rfl, ready (by decide)⟩, ready (by decide)⟩

theorem witness_BlockLanes : LaneReady .vbscale (op2 0x8 7) lane ∧ LaneReady .vbquant (op 0x9 15) lane := ⟨ready (by decide), ready (by decide)⟩

theorem witness_ExchangeLanes : LaneReady .vperm (op2 0x8) lane ∧ LaneReady .vbcast { op2 0 with b := 31 } lane ∧
    LaneReady .vshfl { op2 0 2 with b := 31 } lane ∧ LaneReady .vrfal { op1 0 with d := 7 } lane ∧
    LaneReady .vballot { op1 0 with d := 7 } lane ∧ laneKnown lane (op2 0x8) false 31 :=
  ⟨ready (by decide), ready (by decide), ready (by decide), ready (by decide), ready (by decide), .inr (.inl (by decide))⟩

theorem witness_IntegerReductions : LaneReady .vred { op1 1 with d := 7 } lane ∧ LaneReady .vscan (op1 1 8) lane ∧ LaneSat (op1 1 8) = false :=
  ⟨ready (by decide), ready (by decide), rfl⟩

theorem witness_FloatReductions : bitsOf lane.cw.fmode.toNat 8 5 = 0 ∧ LaneReady .vred { op1 7 with d := 7 } lane ∧
    LaneReady .vscan (op1 7 8) lane := ⟨by decide, ready (by decide), ready (by decide)⟩

/-! ## Witnesses: lane memory -/

/-- The path on lanes 0 and 1, with v1 at two doublewords of the data section, or of the team's scratchpad. -/
def lanes2 (a : Word) : State :=
  let s := { lane with cp := { lane.cp with mask := 3 } }
  onWave s fun w => { w with v := w.v.set 1 ((Vector.replicate 32 0).set 0 a |>.set 1 (a + 8)) }

/-- A lane memory operation of 8 bytes: ty 0, position 0. -/
def mop : LaneOp := { op1 0 with a := 1 }

/-- Both lanes of `lanes2` reach the data section. -/
theorem data_reach (acc : Acc) (h : acc = .load ∨ acc = .store ∨ acc = .rmw) :
    ∃ u, LanesReach (lanes2 0x70000) acc mop [(0, .phys 0x70000 0), (1, .phys 0x70008 0)] u := by
  rcases h with rfl | rfl | rfl <;>
    exact ⟨_,
      ⟨rfl, rfl, rfl, fun x hx => by
        rcases List.mem_cons.1 hx with rfl | hx
        · exact ⟨⟨rfl, rfl, rfl⟩, fun _ h => by cases h; exact ⟨rfl, rfl⟩⟩
        · rcases List.mem_singleton.1 hx with rfl
          exact ⟨⟨rfl, rfl, rfl⟩, fun _ h => by cases h; exact ⟨rfl, rfl⟩⟩, rfl⟩⟩

/-- The places of the two lanes in the data section. -/
def places2 : List (Nat × Loc) := [(0, .phys 0x70000 0), (1, .phys 0x70008 0)]

theorem witness_LaneLoadsAndStores : LaneReady .vld mop (lanes2 0x70000) ∧ LaneReady .vst mop (lanes2 0x70000) ∧
    LaneReady .vpref { mop with d := 0 } (lanes2 0x70000) ∧ (∃ u, LanesReach (lanes2 0x70000) .load mop places2 u) ∧
    (∃ u, LanesReach (lanes2 0x70000) .store mop places2 u) ∧ (lanes2 0x70000).wcb = [] ∧ lanesApart (vmBytes mop) places2 :=
  ⟨ready (by decide), ready (by decide), ready (by decide), data_reach _ (.inl rfl), data_reach _ (.inr (.inl rfl)), rfl,
    by unfold lanesApart; decide⟩

theorem witness_LaneAtomics : LaneReady .vatom mop (lanes2 0x70000) ∧ (∃ u, LanesReach (lanes2 0x70000) .rmw mop places2 u) ∧
    (lanes2 0x70000).wcb = [] ∧ lanesApart (vmBytes mop) places2 :=
  ⟨ready (by decide), data_reach _ (.inr (.inr rfl)), rfl, by unfold lanesApart; decide⟩

/-- Both lanes misaligned; both beyond the mapped GiB. -/
theorem witness_LaneAddressTraps : LaneReady .vst mop (lanes2 0x70001) ∧ LaneReady .vst mop (lanes2 0x40000000) ∧ (lanes2 0x70001).cw.region = none ∧
    ((List.range 32).filter fun l => ((lanes2 0x70001).opMask mop).getLsbD l).filter
      (fun l => (laneAddress (lanes2 0x70001) mop l).toNat % vmBytes mop ≠ 0) = 0 :: [1] ∧
    ((List.range 32).filter fun l => ((lanes2 0x40000000).opMask mop).getLsbD l).filter
      (fun l => (laneAddress (lanes2 0x40000000) mop l).toNat % vmBytes mop ≠ 0) = [] ∧
    ((((lanes2 0x40000000).locateAll .store (laneAddress (lanes2 0x40000000) mop) (vmBytes mop) [0, 1]).1.findSome? fun r => match r.2 with
      | .bad t => some t
      | _ => none).map (·.cause)) = some 0x10 :=
  ⟨ready (by decide), ready (by decide), by decide⟩

/-- A result held for v1, an operand not old enough, a poisoned element of v1. -/
def heldLane : State := { lane with cp := { lane.cp with var := [outV 1 1 []] } }
def shortLane : State :=
  let short := { lane with cp := { lane.cp with fixed := [{ reg := .v 1, lanes := 1, left := 2 }] } }
  onWave short fun w => { w with eng := { w.eng with queue := w.eng.queue.map fun b => { b with chk := 1 } } }
def poisonLane : State := { lane with poison := [.vReg 4 1 0] }

theorem witness_LaneWordChecks :
    laneLegal .vadd { op2 1 with c := 1 } lane.cw.vregs 96 = false ∧
    (laneLegal .vadd (op2 1) heldLane.cw.vregs 96 = true ∧ ∃ r ∈ laneReads .vadd (op2 1), heldLane.pendingAt r = true) ∧
    ((∀ r ∈ laneReads .vadd (op2 1) ++ laneWrites .vadd (op2 1), shortLane.pendingAt r = false) ∧ shortLane.blockChk.getLsbD 0 = true ∧
      ∃ r ∈ laneReads .vadd (op2 1), shortLane.shortLanes r ≠ 0) ∧
    ((∀ r ∈ laneReads .vadd (op2 1), poisonLane.shortLanes r = 0) ∧
      ((laneReads .vadd (op2 1)).filter fun r => poisonLane.poisonLanes (poisonLane.opMask (op2 1)) r ≠ 0) = .v 1 :: []) := by decide

/-- Bank 3 of the wave's hoop as a FIFO bank of its context, s4 at it, with one entry, none, or full. -/
def fifo (xs : List Word) (s : State) : State :=
  { s with banks := [{ dev := 0, hoop := 0, bank := 3, mode := .fifo, owner := some 1, fifo := xs, pending := none, pendingOwner := none }] }

theorem witness_FifoAccess :
    (∃ s, s = fifo [9] (withRegs demo [(4, .ofNat 64 (fifoWindow + 24))]) ∧ s.cw.region = none ∧ s.poison = [] ∧
      s.fifoTurn (fifoKey 3 false) = true ∧ s.fifoTurn (fifoKey 3 true) = true ∧ (s.bank 0 0 3).fifo = [9] ∧ (s.rs 4).toNat % 8 = 0 ∧ s.Reaches .load (s.rs 4) 8 (.fifo 3) s ∧
      s.Reaches .store (s.rs 4) 8 (.fifo 3) s) ∧
    ((fifo [] demo).bank 0 0 3).fifo = [] ∧
    ∃ s, s = fifo [7, 8] (onWave (lanes2 0) fun w => { w with v := w.v.set 1 (.replicate 32 (.ofNat 64 (fifoWindow + 24))) }) ∧
      vmBytes mop = 8 ∧ mop.c.toNat % 8 = 0 ∧ LaneReady .vld mop s ∧ LaneReady .vst mop s ∧ s.fifoTurn (fifoKey 3 false) = true ∧ s.fifoTurn (fifoKey 3 true) = true ∧ s.wcb = [] ∧
      (laneLocate .load (laneAddress s mop) 8 (s.opMask mop)).run s = .ok [(0, .fifo 3), (1, .fifo 3)] s ∧
      (laneLocate .store (laneAddress s mop) 8 (s.opMask mop)).run s = .ok [(0, .fifo 3), (1, .fifo 3)] s :=
  ⟨⟨_, rfl, rfl, rfl, by decide, by decide, rfl, by decide, rfl, rfl⟩, rfl, _, rfl, by decide, by decide, ready (by decide),
    ready (by decide), by decide, by decide, rfl, rfl, rfl⟩

/-! ## Witnesses: lane control, pairs, matrix -/

/-- LBR and LJMP by n words: k1, join number 5. -/
def branch (n : Nat) : LaneOp := { op1 0 with d := 0, a := 1, b := 5, imm := .ofNat 32 n }
def jump (n : Nat) : LaneOp := { op1 0 with d := 0, a := 0, imm := .ofNat 32 n }

/-- k1 holds a mask. -/
def withK1 (m : BitVec 32) : State := onWave lane fun w => w.wk 1 m

theorem witness_LaneBranches : (∃ k, lane.kernelOf lane.cw = some k ∧ (lane.cp.lpc : Int) + (jump 7).imm.toInt < k.lwords ∧
      ¬ ((lane.cp.lpc : Int) + (jump 8).imm.toInt < k.lwords)) ∧
    LaneReady .ljmp (jump 7) lane ∧ LaneReady .ljmp (jump 8) lane ∧ LaneReady .lbr (branch 7) (withK1 0) ∧
    (withK1 0).cp.mask &&& (withK1 0).cw.rk 1 = 0 ∧ (withK1 0xFFFFFFFF).cp.mask &&& (withK1 0xFFFFFFFF).cw.rk 1 = (withK1 0xFFFFFFFF).cp.mask ∧
    (withK1 0xF).cp.mask &&& (withK1 0xF).cw.rk 1 ≠ 0 ∧ (withK1 0xF).cp.mask &&& (withK1 0xF).cw.rk 1 ≠ (withK1 0xF).cp.mask ∧
    LaneReady .lbr (branch 7) (withK1 0xF) ∧ (withK1 0xF).otherSlot.isSome = true ∧ (withK1 0xF).splitUsed 0 0 < 64 :=
  ⟨⟨_, rfl, by decide, by decide⟩, ready (by decide), ready (by decide), ready (by decide), by decide, by decide, by decide, by decide,
    ready (by decide), by decide, by decide⟩

/-- A path divided from the executing one waits for it at LJOIN #5, where it stands. -/
def joinLane : State :=
  let c : Path := { lane.cp with id := 1, parent := 0, join := 5, mask := 0xF, place := .slotB, wait := .join 5 0 }
  { onWave lane (fun w => { w with eng := { w.eng with paths := [c] } }) with cp := { lane.cp with mask := 0xFFFFFFF0 } }

def ljoin5 : LaneOp := { op1 0 with d := 0, a := 0, b := 5 }
def lop0 : LaneOp := { op1 0 with d := 0, a := 0 }

theorem witness_LaneControl : LaneReady .lnop lop0 lane ∧ LaneReady .ljoin ljoin5 lane ∧ LaneReady .lend lop0 lane ∧
    lane.cp.place ≠ .spilled ∧ lane.cp.place ≠ .reloading ∧
    (∃ c, LaneReady .ljoin ljoin5 joinLane ∧ joinLane.cp.live = true ∧ joinLane.cp.ended = false ∧ joinLane.cw.eng.paths = [c] ∧
      c.joinAt = some 5 ∧ c.join = 5 ∧ c.parent = joinLane.cp.id ∧ c.lpc = joinLane.cp.lpc ∧ c.id ≠ joinLane.cp.id ∧
      joinLane.cp.parent ≠ c.id ∧ c.place ≠ .spilled ∧ c.place ≠ .reloading) ∧
    (LaneReady .lkill { lop0 with k := 1 } (withK1 0xF) ∧
      (withK1 0xF).cp.mask &&& ~~~(withK1 0xF).opMask { lop0 with k := 1 } ≠ 0) ∧
    (lane.opMask lop0 = lane.cp.mask ∧ lane.cw.eng.paths = [] ∧ lane.cp.live = true) ∧ LaneReady .lelect { lop0 with d := 1 } lane :=
  ⟨ready (by decide), ready (by decide), ready (by decide), by decide, by decide,
    ⟨_, ready (by decide), rfl, rfl, rfl, rfl, rfl, rfl, rfl, by decide, by decide, by decide, by decide⟩,
    ⟨ready (by decide), by decide⟩, ⟨rfl, rfl, rfl⟩, ready (by decide)⟩

/-- A full slot 7 of the team. -/
def fullSlot : State :=
  { lane with teams := lane.teams.map fun t => { t with slots := t.slots.set 7 { full := true, mask := 3, vals := .replicate 32 1 } } }

theorem witness_RendezvousSlots : ∃ team x y, lane.team? lane.cw.team = some team ∧ team.slots[7]? = some x ∧ x.full = false ∧
    LaneReady .vpass { lop0 with a := 1, b := 7 } lane ∧ lane.slotTurn 7 = true ∧ LaneReady .vtake { lop0 with d := 1, b := 7 } fullSlot ∧
    ((fullSlot.team? fullSlot.cw.team).bind fun t => t.slots[7]?) = some y ∧ y.full = true ∧ fullSlot.slotTurn 15 = true :=
  ⟨_, _, _, rfl, rfl, rfl, ready (by decide), rfl, ready (by decide), rfl, rfl, rfl⟩

/-- The two halves of VADD v1, v2, v3 beside VLANEID v6, and one of an op9 that is not listed. -/
def half (op9 : BitVec 9) (d a b : BitVec 7) : ShortOp := { op9, d, a, b, k := 0, ty := 1, md := 0 }

theorem witness_Pairs : LaneCode.ofOp9 0x1FF = none ∧
    ∃ c d, LaneCode.ofOp9 LaneCode.vadd.op9 = some c ∧ LaneCode.ofOp9 LaneCode.vlaneid.op9 = some d ∧
      pairLegal c ((half 0x000 1 2 3).long 2) d ((half 0x016 6 0 0).long 2) = true ∧
      LaneReady c ((half 0x000 1 2 3).long 2) lane ∧ LaneReady d ((half 0x016 6 0 0).long 2) lane ∧
      pairLegal c ((half 0x000 1 2 3).long 2) d ((half 0x016 1 0 0).long 2) = false ∧
      (∃ u, (laneInputs c ((half 0x000 1 2 3).long 2)).run lane = .ok u lane ∧
        ∃ out s1, (laneFx c ((half 0x000 1 2 3).long 2) u).run lane = .ok out s1) :=
  ⟨by decide, _, _, rfl, rfl, by decide, ready (by decide), ready (by decide), by decide, _, rfl, _, _, rfl⟩

/-- Members 0 and 1 in slices 0 and 1. -/
theorem witness_GangWord : demo.cw.region = none ∧ demo.cw.eng.queue = [] ∧ demo.poison = [] ∧
    (2 ≤ 0x1002 % 8 ∧ 0x1002 % 8 ≤ 6 ∧ 0x1002 / 16 % 8 + 0x1002 % 8 ≤ 6 ∧ 0x1002 / 8 % 2 = 0 ∧ 0x1002 / 128 % 2 = 0 ∧ 0x1002 < 2 ^ (8 + 4 * (0x1002 % 8)) ∧
      (∀ i < 2, ∀ j < 2, gangMember 0x1002 i = gangMember 0x1002 j → i = j) ∧ gangMember 0x1002 0 = demo.cw.index) ∧
    ¬ 2 ≤ 0x1001 % 8 := by decide

/-- Snapshots of 2^56 + x. -/
def atScratch (x : Word) (s : State) : State :=
  onWave s fun w => { w with eng := { w.eng with queue := [{ start := 0, uniform := .replicate 16 (0x0100000000000000 + x), chk := 0, gang := w.gang }] } }

theorem witness_TileMoves : ∃ team x, TileReady lane team 95 x ∧ LaneReady .amovr { op1 7 with a := 95, imm := 31 } lane ∧
    LaneReady .amovr { op1 8 with a := 95, imm := 15 } lane ∧ LaneReady .amovw { op1 7 with d := 95, imm := 31 } lane ∧
    LaneReady .azero { lop0 with d := 95 } lane :=
  ⟨_, _, ⟨rfl, rfl, (by intro j h; cases h), (by intro e h; cases h)⟩, ready (by decide), ready (by decide), ready (by decide), ready (by decide)⟩

/-- ASTORE of tile 0 with a stride of 64 bytes. -/
def astore : LaneOp := { op1 7 0 0x1000 with d := 0, a := 0, imm := 64 }

theorem witness_TileStore : LaneReady .astore astore (atScratch 0 lane) ∧ (atScratch 0 lane).cw.region = none ∧
    ((atScratch 8 lane).snapshot 0).toNat % 16 ≠ 0 ∧ (∃ team x, TileReady (atScratch 0 lane) team 0 x) ∧
    ((atScratch 0 lane).snapshot 0).toNat % 16 = 0 ∧ astore.imm.toNat % 16 = 0 ∧ (16 * 4 : Int) ≤ astore.imm.toInt ∧
    ((atScratch 0 lane).snapshot 0).toNat + 127 * astore.imm.toNat + 16 * 4 ≤ 2 ^ 64 ∧
    (∃ u team x, (atScratch 0 lane).locateAll .store (fun k => 0x0100000000000000 + .ofNat 64 (16 * k)) 16 [0, 511] =
      ([(0, .ok (.scratch 2 0)), (511, .ok (.scratch 2 8176))], u) ∧ u.MemWf ∧ u.team? 2 = some x ∧ Memory.wf x.scratch = true ∧ team = x) ∧
    ((lowestTrap ((atScratch 131072 lane).locateAll .store (fun k => 0x0100000000020000 + .ofNat 64 (16 * k)) 16 [0, 511]).1).map (·.cause)) =
      some 0x11 :=
  ⟨ready (by decide), rfl, by decide, ⟨_, _, rfl, rfl, (by intro j h; cases h), (by intro e h; cases h)⟩, by decide, by decide, by decide, by decide,
    ⟨_, _, _, rfl, rfl, rfl, rfl, rfl⟩, by decide⟩

theorem witness_IntegerProduct : 127 < 128 ∧ 15 < 16 := by decide

/-- A joint operation of waves 0 and 1 of the team on the panel at the first byte of its scratchpad. -/
def gangLane (g : Word) : State :=
  { atScratch 0 (onWave lane fun w => { w with gang := g }) with waves := lane.waves ++ [{ wave6 with gang := g }] }

def mjOp : LaneOp := { op1 3 0 0x1000 with d := 8, a := 16, imm := 3 }

/-- The other wave has come to the latch with its tile 9 and tile 8. -/
def latched (tile : Nat) : State :=
  let a : MjArrival := { wave := 6, path := 0, hand := false, tile, tag := 3, breg := 16, band := 0, since := 0, word := 0, loose := false }
  { gangLane 0x1002 with latch := [{ uid := 5, team := 2, gang := 0x1002, ty := 3, amix := false, pa := 0, arrivals := [a], dirty := false }] }

theorem witness_JointOperation : LaneReady .mj mjOp (gangLane 0x1002) ∧ ((gangLane 0x1002).team? (gangLane 0x1002).cw.team).isSome = true ∧
    (lane.blockGang.toNat % 8 = 0 ∧ ((atScratch 32 lane).snapshot 0).toNat % 64 ≠ 0) ∧
    ((gangLane 0x1002).blockGang = 0x1002 ∧ ((gangLane 0x1002).snapshot 0).toNat % 64 = 0 ∧ 2 ^ 56 ≤ ((gangLane 0x1002).snapshot 0).toNat ∧
      (((gangLane 0x1002).snapshot 0).toNat - 2 ^ 56) / 2 ^ 24 = 0 ∧ 8192 ≤ 1 * 131072 ∧ (gangLane 0x1002).poison = [] ∧
      (gangLane 0x1002).latch = [] ∧ (gangLane 0x1002).gangAlive 2 0x1002 = true) ∧
    (∃ e, LaneReady .mj mjOp (latched 9) ∧ (latched 9).latch = [e] ∧ e.uid < (latched 9).nextUid ∧ e.gang = 0x1002 ∧ e.ty = mjOp.ty.toNat ∧
      e.amix = decide (LaneX mjOp % 2 = 1) ∧ e.pa = 0 ∧ (∀ b ∈ e.arrivals, b.wave ≠ (latched 9).cw.uid ∧ b.tile ≠ 8) ∧
      e.arrivals.length + 1 = (0x1002 : Word).toNat % 8 ∧ ∀ b ∈ e.arrivals ++ [arrivalOf (latched 9) mjOp], (latched 9).blockOthers b = 0) ∧
    ∃ e, (latched 8).latch = [e] ∧ ¬ ∀ b ∈ e.arrivals, b.tile ≠ 8 :=
  ⟨ready (by decide), rfl, by decide, by decide, ⟨_, ready (by decide), rfl, by decide, rfl, rfl, by decide, rfl, by decide, by decide, by decide⟩,
    _, rfl, by decide⟩

/-- A joint operation of the executing wave under tag 3. -/
def running : State :=
  let a : MjArrival := { wave := 4, path := 0, hand := false, tile := 8, tag := 3, breg := 16, band := 0, since := 0, word := 0, loose := false }
  { lane with jointOps := [{ uid := 9, dev := 0, core := 0, team := 2, ctx := 1, slice := 0, ty := 3, pa := 0, members := [a], dirty := false,
                             dirtyTiles := [] }] }

theorem witness_MatrixWaits : LaneReady .mfence lop0 lane ∧ lane.cp.var = [] ∧ LaneReady .mfence lop0 heldLane ∧ heldLane.cp.var ≠ [] ∧
    LaneReady .mwait { lop0 with imm := 3 } running ∧ (∃ j ∈ running.jointOps, ∃ a ∈ j.members, a.wave = running.cw.uid ∧ a.tag = 3) ∧
    lane.jointOps = [] ∧ ∃ j, { running with turn := .event (.jointOperationComplete 9) }.jointOps.head? = some j ∧ j.uid = 9 ∧
      j.dirty = false ∧ j.dirtyTiles = [] ∧ (running.ctx? j.ctx).isSome = true :=
  ⟨ready (by decide), rfl, ready (by decide), by decide, ready (by decide), by decide, rfl, _, rfl, rfl, rfl, rfl, rfl⟩

/-! ## Witnesses: wait sets, timers, watches, OCLOSE -/

/-- A timer that has fired twice, under the handle at index 2 in s5; a wait set with it at index 3, under the handle at index 1 in s9. -/
def timer0 : Timer := { uid := 21, dev := 0, ctx := 1, armed := true, deadline := 100, period := 0, firings := 2 }
def waitSet0 : WaitSet := { uid := 20, ctx := 1, sources := [{ index := 3, kind := kTIMER, obj := 21, batch := 0 }] }
def waiting (w : WaitSet) (m : Timer) : State :=
  withRegs (withObj (withObj { demo with waitSets := [w], timers := [m] } kWSET 20 1) kTIMER 21 2)
    [(9, handleOf kWSET 1), (5, handleOf kTIMER 2), (6, 63), (16, handleOf kTIMER 2), (17, 63), (20, 5000), (21, 1000)]

theorem witness_WaitSetWords : (demo.Calls [] (ctxOf demo) ∧ demo.sliceFull (ctxOf demo) = false) ∧
    ∃ w s, s = waiting w timer0 ∧ s.Calls (9 :: runOf 16 2) (ctxOf s) ∧ s.Names 9 [kWSET] kWSET w.uid ∧ s.waitSet? w.uid = some w ∧
      (s.rs (SReg.plus 16 1)).toNat = 63 ∧ s.Names 16 [kPORT, kTIMER, kWATCH, kWAVE, kCENSUS] kTIMER 21 ∧
      (s.waitSets.filter fun v => v.sources.any fun y => y.kind == kTIMER && y.obj == 21 && y.batch == 0).length < 8 ∧
      (∀ y ∈ w.sources, y.index ≠ 63) ∧ (∃ y ∈ w.sources, y.index = 3) ∧ (demo.rs 16).toNat ≤ demo.cw.closed ∧ ¬ 64 ≤ 63 :=
  ⟨⟨calls rfl rfl rfl, by decide⟩, waitSet0, _, rfl, calls rfl rfl rfl, rfl, rfl, by decide, rfl, by decide, by decide, by decide, by decide,
    by decide⟩

theorem witness_WaitSetWait : ∃ s, s = waiting waitSet0 timer0 ∧ s.Calls [9] (ctxOf s) ∧ s.Names 9 [kWSET] kWSET 20 ∧ s.waitSet? 20 = some waitSet0 ∧
    (waitSet0.sources.map (·.index)).Nodup ∧ s.cw.wait = none ∧ (∃ x ∈ waitSet0.sources, s.sourceReady x = true ∧ x.kind = kTIMER ∧
      s.timer? x.obj = some timer0 ∧ ∀ y ∈ waitSet0.sources, x.index ≤ y.index) ∧
    (∀ x ∈ waitSet0.sources, (waiting waitSet0 { timer0 with firings := 0 }).sourceReady x = false) ∧
    (waiting { waitSet0 with sources := [] } timer0).waitSet? 20 = some { waitSet0 with sources := [] } :=
  ⟨_, rfl, calls rfl rfl rfl, rfl, rfl, by decide, rfl, ⟨_, List.mem_cons_self, by decide, rfl, rfl, by decide⟩, by decide, rfl⟩

theorem witness_TimerWords : ∃ s, s = waiting waitSet0 timer0 ∧ s.Calls (5 :: runOf 20 2) (ctxOf s) ∧ 1000 ≤ (s.rs (SReg.plus 20 1)).toNat ∧
    (s.rs 0).setWidth 32 = (0 : BitVec 32) ∧ s.sliceFull (ctxOf s) = false ∧ (s.rs 5).setWidth 32 ≠ (0 : BitVec 32) ∧
    s.Names 5 [kTIMER] kTIMER 21 ∧ s.timer? 21 = some timer0 ∧ (withRegs s [(21, 999)]).rs (SReg.plus 20 1) = 999 :=
  ⟨_, rfl, calls rfl rfl rfl, by decide, by decide, by decide, by decide, rfl, rfl, rfl⟩

theorem witness_TimerDisarm : ∃ s : State, s.Calls [5] (ctxOf s) ∧ s.Names 5 [kTIMER] kTIMER 21 ∧ s.timer? 21 = some timer0 :=
  ⟨waiting waitSet0 timer0, calls rfl rfl rfl, rfl, rfl⟩

/-- A watch's run at s20: address, mask, value, comparison and width. -/
def watching (a x : Word) : State := withRegs demo [(20, a), (21, 0xFF), (22, 0), (23, x)]

theorem witness_WatchWord : (watching 0x70000 13).Calls (runOf 20 4) (ctxOf demo) ∧
    (((watching 0x70000 13).rs (SReg.plus 20 3)).toNat = 13 ∧ demo.sliceFull (ctxOf demo) = false ∧
      ∃ p page u, (watching 0x70000 13).Reaches .load ((watching 0x70000 13).rs 20) 8 (.phys p page) u) ∧
    6 ≤ ((watching 0 6).rs (SReg.plus 20 3)).toNat % 8 ∧ 16 ≤ ((watching 0 16).rs (SReg.plus 20 3)).toNat ∧
    ((watching 0x70004 13).rs 20).toNat % 8 ≠ 0 ∧ 2 ^ 56 ≤ ((watching 0x0100000000000000 13).rs 20).toNat ∧
    ∃ t u, (watching 0x40000000 13).locate (watching 0x40000000 13).cw .load ((watching 0x40000000 13).rs 20).toNat 8 = (.bad t, u) :=
  ⟨calls rfl rfl rfl, ⟨by decide, by decide, _, _, _, rfl⟩, by decide, by decide, by decide, by decide, _, _, rfl⟩

/-- An object of each kind under the handle at index 1 in s9. -/
def named1 (kind : Nat) (s : State) : State := withRegs (withObj s kind 20 1) [(9, handleOf kind 1)]
def census0 : Census :=
  { uid := 20, dev := 0, ctx := 1, owner := true, key := 0, mask := 0, comb := 0, resp := 0, result := 0x70000, mesh := none, targets := [0],
    reached := [], matched := 0, replies := 0, values := [], st := .collecting, abort := false, writeFault := false, part := none }

theorem witness_CloseWord :
    (∀ k ∈ [kWSET, kTIMER, kWATCH, kCOPY, kREMOTE], (named1 k demo).Calls [9] (ctxOf (named1 k demo)) ∧
      (named1 k demo).Names 9 [kWAVE, kREMOTE, kWSET, kTIMER, kWATCH, kCENSUS, kCOPY] k 20) ∧
    (∃ r p s, s = named1 kREMOTE { demo with remotes := [r], ports := [port0] } ∧ s.remote? 20 = some r ∧ r.reply = none ∧ r.inFlight = 0 ∧
      s.port? r.port = some p) ∧
    (twoWaves.Names 4 [kWAVE, kREMOTE, kWSET, kTIMER, kWATCH, kCENSUS, kCOPY] kWAVE 6 ∧ twoWaves.wave? 6 = some wave6 ∧ wave6.joinable = true) ∧
    (∃ s, s = onWave demo (fun w => { w with joinable := true }) ∧ s.wave? 4 = some s.cw ∧ s.cw.joinable = true ∧ s.cw.st ≠ .exited) ∧
    (named1 kCENSUS { demo with censuses := [census0] }).census? 20 = some census0 ∧ demo.responders = [] := by
  refine ⟨?_, ⟨{ uid := 20, ctx := 1, port := 20, sends := 1, inFlight := 0, reply := none, seq := 0, closed := false }, port0, _, rfl, rfl, rfl,
    rfl, rfl⟩, ⟨rfl, rfl, rfl⟩, ⟨_, rfl, rfl, rfl, by decide⟩, rfl, rfl⟩
  intro k hk
  refine ⟨calls rfl rfl rfl, ?_⟩
  have : ∀ k ∈ [kWSET, kTIMER, kWATCH, kCOPY, kREMOTE], (named1 k demo).resolve (named1 k demo).cw.ctx (((named1 k demo).rs 9).setWidth 32)
      [kWAVE, kREMOTE, kWSET, kTIMER, kWATCH, kCENSUS, kCOPY] = some (k, 20) := by decide
  exact this k hk

/-! ## Witnesses: copies -/

/-- Descriptors of one row of 65,536 bytes of INT8, of a 64-byte panel, of a transpose, a gather and a blocked-FP4 panel. -/
def rowDesc : CopyDesc := copyDesc [0x70000, 0x71000, 0xFFFF, 0x0000000000000600] none

theorem witness_CopyFormats : (rowDesc.fmt = 0 ∧ rowDesc.panel = false ∧ 65535 < rowDesc.rbytes) ∧
    ((copyDesc [0, 0, 0x7F003F, 0x40600] none).fmt = 0 ∧ (copyDesc [0, 0, 0x7F003F, 0x40600] none).panel = true ∧ 3 < 4 ∧ 15 < 16) ∧
    ((copyDesc [0, 0, 0x1F00FF, 0x0803] none).fmt = 3 ∧ (copyDesc [0, 0, 0x1F00FF, 0x0803] none).panel = false ∧
      31 < (copyDesc [0, 0, 0x1F00FF, 0x0803] none).rows) ∧
    ((copyDesc [0, 0, 0x1F00FF, 0x0604] (some 0)).fmt = 4 ∧ (copyDesc [0, 0, 0x1F00FF, 0x0604] (some 0)).panel = false) ∧
    (copyDesc [0, 0, 0x7F005F, 0x0C02] none).fmt = 2 ∧ 10244 ≤ 10244 := by decide

/-- A copy's run at s20: 16 bytes from the data section to the scratchpad. -/
def copying (src dst c x : Word) : State := withRegs demo [(20, src), (21, dst), (22, c), (23, x), (24, 0x70800)]

/-- The run's words. -/
def words (s : State) (a : SReg) (n : Nat) : List Word := (runOf a n).map s.rs

theorem witness_CopyIssue :
    (∃ s c, s = copying 0x70000 0x0100000000000000 0xF 0x600 ∧ c = copyDesc (words s 20 4) none ∧ s.Calls (24 :: runOf 20 4) (ctxOf s) ∧ s.Settled ∧
      c.legal .xcopy = true ∧ c.legal .xstore = true ∧ c.misaligned = none ∧ s.copyBadAddr s.cw c = none ∧ s.copiesOn s.cw.dev s.cw.core < 128) ∧
    (∃ s c, s = copying 0x70000 0x0100000000000000 0xF 0x604 ∧ c = copyDesc (words s 20 4) (some 0x70800) ∧ c.legal .xgather = true ∧
      c.misaligned = none ∧ s.copyBadAddr s.cw c = none ∧ ∀ x ∈ listBytes 0x70800 c.rows, listBad s x = false) ∧
    (∃ x ∈ listBytes 0x01000000FFFFFFFC 1, listBad demo x = true) ∧
    (copyDesc [0x70000, 0, 0xF, 0xF00] none).legal .xcopy = false ∧
    ((copyDesc [0x70001, 0, 0xF, 0x100] none).legal .xcopy = true ∧ (copyDesc [0x70001, 0, 0xF, 0x100] none).misaligned = some 0x70001) ∧
    demo.copyBadAddr demo.cw (copyDesc [0x70000, 0x0100000000020000, 0xF, 0x600] none) = some 0x0100000000020000 :=
  ⟨⟨_, _, rfl, rfl, calls rfl rfl rfl, settled rfl rfl, by decide, by decide, by decide, by decide, by decide⟩,
    ⟨_, _, rfl, rfl, by decide, by decide, by decide, by decide⟩, by decide, by decide, by decide, by decide⟩

/-- A copy of the executing wave, under the handle at index 1 in s9, in batch 1, which is closed. -/
def copy0 (st : CopyState) : Copy :=
  { uid := 20, dev := 0, hoop := 0, ctx := 1, wave := 4, team := 2, cluster := bootTeam.cluster, tpos := bootTeam.tpos, banks := 1, left := none, core := 0, batch := 1, job := .copy,
    words := [0x70000, 0x0100000000000000, 0xF, 0x600], tensor := 0, st, engine := 0, cleared := false, chunks := [], written := [], counted := [], rimAddr := 0, stopChunk := 0,
    trap := none, order := 0, readGen := none, phase := 0, peerWait := none, reported := false, restart := false }
def oneCopy (st : CopyState) : State :=
  withRegs (onWave (named1 kCOPY { demo with copies := [copy0 st] }) fun w => { w with batch := 2, closed := 1 }) [(5, 1)]

theorem witness_BatchWords : demo.Calls [5] (ctxOf demo) ∧ demo.cw.closed < ((oneCopy .queued).rs 5).toNat ∧
    (((oneCopy .failed).rs 5).toNat ≤ (oneCopy .failed).cw.closed ∧ ∀ x ∈ (oneCopy .failed).copies, x.st.ended = true) ∧
    ((oneCopy .queued).rs 5).toNat ≤ (oneCopy .queued).cw.closed ∧
    ∃ x ∈ (oneCopy .queued).copies, x.wave = (oneCopy .queued).cw.uid ∧ x.batch ≤ 1 ∧ x.st.ended = false :=
  ⟨calls rfl rfl rfl, by decide, by decide, by decide, by decide⟩

/-- XWAITC's registers: the word at 0x100 of the scratchpad, and one bit; a queued copy that sets it, and none. -/
def bitmap (cs : List Copy) : State := withRegs { demo with copies := cs } [(4, 0x0100000000000100), (5, 1)]

theorem witness_CopyCalls : (∃ t off s, s = bitmap [] ∧ s.Calls [4, 5] (ctxOf s) ∧ s.scratchAt s.cw (s.rs 4).toNat = some (t, off) ∧ t.uid = s.cw.team ∧
      s.team? t.uid = some t ∧ (s.rs 4).toNat % 8 = 0 ∧ 2 ^ 56 ≤ (s.rs 4).toNat ∧ (s.rs 4).toNat < 2 ^ 56 + 0x0D000000 ∧ s.poison = [] ∧
      BitVec.ofNat 64 (Memory.readLE t.scratch off 8) &&& s.rs 5 ≠ s.rs 5 ∧ (s.copies.any fun c => c.team == t.uid && s.setsWord c off) = false ∧
      BitVec.ofNat 64 (Memory.readLE t.scratch off 8) &&& s.rs 0 = s.rs 0) ∧
    (∃ c, c = { copy0 .queued with words := [0x70000, 0x0100000000000000, 0xF, 0x2010600] } ∧ (bitmap [c]).setsWord c 0x100 = true) ∧
    ((withRegs demo [(4, 0x0100000000000104)]).rs 4).toNat % 8 ≠ 0 ∧
    ((oneCopy .queued).Names 9 [kCOPY] kCOPY 20 ∧ (oneCopy .queued).copy? 20 = some (copy0 .queued)) ∧
    (oneCopy .started).copy? 20 = some (copy0 .started) ∧
    (((oneCopy .done).rs 5).toNat ≤ (oneCopy .done).cw.closed ∧ ∀ c ∈ (oneCopy .done).copies, c.st.ended = true) ∧
    (∃ c ∈ (oneCopy .started).copies, c.wave = (oneCopy .started).cw.uid ∧ c.batch ≤ 1 ∧ c.st.ended = false) ∧
    demo.cw.closed < ((oneCopy .done).rs 5).toNat :=
  ⟨⟨bootTeam, 0x100, _, rfl, calls rfl rfl rfl, by decide, rfl, rfl, by decide, by decide, by decide, rfl, by decide, by decide, by decide⟩, ⟨_, rfl, by decide⟩, by decide,
    ⟨rfl, rfl⟩, rfl, by decide, by decide, by decide⟩

/-! ## Witnesses: meshes and tensors -/

/-- A mesh of one device, in a partition of domain 1. -/
def mesh0 : Mesh := { num := 0, rank := 1, sizes := [1, 1, 1], table := [0], name := 9 }
def inDomain (s : State) : State := { s with parts := s.parts.map fun p => { p with domain := 1 } }

/-- MESHDEF's run at s20: rank 1, one device listed at the first byte of the scratchpad, a name. -/
def meshRun : State := withRegs (inDomain demo) [(20, 0x10), (21, 0x0100000000000000), (22, 5)]

/-- What an operation answers. -/
def okOf {α : Type} (r : EStateM.Result Stop State α) : Option (α × State) :=
  match r with
  | .ok a s => some (a, s)
  | .error _ _ => none

theorem ok_of {α : Type} {r : EStateM.Result Stop State α} {p : α × State → Bool} (h : (okOf r).any p = true) :
    ∃ a s, r = .ok a s ∧ p (a, s) = true := by
  cases r with
  | ok a s => exact ⟨a, s, rfl, h⟩
  | error e s => cases h

theorem witness_MeshWord : ∃ ids u, meshRun.Calls (runOf 20 3) (ctxOf demo) ∧ (meshRun.rs 20).toNat < 2 ^ 32 ∧ (meshRun.rs 20).toNat / 64 % 4 = 0 ∧
    meshRun.rs (SReg.plus 20 2) ≠ 0 ∧ (readTable (meshRun.rs (SReg.plus 20 1)).toNat 1).run meshRun = .ok ids u ∧
    u.ctx? u.cw.ctx = some (ctxOf demo) ∧ u.meshTableOk (ctxOf demo) ids = true ∧
    (ctxOf demo).meshes = [] ∧ u.meshTableOk (ctxOf demo) [1] = false ∧ (∃ m ∈ [mesh0], m.num = 0) ∧
    2 ^ 32 ≤ ((withRegs demo [(20, 0x100000010)]).rs 20).toNat ∧ (0x50 / 64 : Nat) % 4 ≠ 0 :=
  ⟨[0], meshRun, calls rfl rfl rfl, by decide, by decide, by decide, rfl, rfl, by decide, rfl, by decide, by decide, by decide, by decide⟩

/-- A tensor of 64 INT32 elements at 0x70000, under the handle at index 1 in s9, and in s20 to s27 for TDECL and the transfers. -/
def tensorWords : List Word := [0x1000000005, 0, 0, 0x100000040, 0x100000001, 0x70000, 0, 0]
def tensor0 (sealed : Bool) : Tensor :=
  { uid := 20, dev := 0, ctx := 1, words := tensorWords, gen := 3, sealed, locked := if sealed then [(0x70000, 0x70100)] else [], issued := none }
def withMesh (s : State) : State := onCtx s fun c => { c with meshes := [mesh0] }
def tensors (ts : List Tensor) : State := withMesh (named1 kTENSOR { demo with tensors := ts })
def declaring (ws : List Word) (ts : List Tensor) : State := withRegs (tensors ts) (ws.zipIdx.map fun x => (.ofNat 6 (20 + x.2), x.1))

theorem witness_TensorWords : (∃ s m, s = declaring tensorWords [] ∧ s.Calls (runOf 20 8) (ctxOf s) ∧ declReserved (words s 20 8) = false ∧
      s.meshOf 1 (words s 20 8) = some m ∧ declBad m (words s 20 8) = false ∧ s.tensorOf 1 ((s.rs 20).toNat % 2 ^ 32) = none ∧
      s.sliceFull (ctxOf s) = false) ∧
    ((declaring tensorWords [tensor0 false]).tensorOf 1 5).isSome = true ∧ declReserved (0x800001000000005 :: tensorWords.drop 1) = true ∧
    (demo.meshOf 1 tensorWords = none ∧ declBad mesh0 (tensorWords.set 5 0x70008) = true) ∧
    ((tensors [tensor0 false]).Names 9 [kTENSOR] kTENSOR 20 ∧ (tensors [tensor0 false]).tensor? 20 = some (tensor0 false) ∧
      (tensors [tensor0 false]).converting (tensor0 false) = false ∧ (tensors [tensor0 false]).copies = []) ∧
    (tensors [tensor0 true]).tensor? 20 = some (tensor0 true) ∧ (tensor0 true).sealed = true :=
  ⟨⟨_, _, rfl, calls rfl rfl rfl, by decide, rfl, by decide, by decide, by decide⟩, by decide, by decide, by decide, ⟨rfl, rfl, by decide, rfl⟩,
    rfl, rfl⟩

/-- TLOAD's and TSTORE's run at s20: one element at the first byte of the scratchpad, generation 3. -/
def tileRun : List Word := [handleOf kTENSOR 1, 0, 0, 0, 0x300000000, 0x0100000000000000, 0]
def convRun : List Word := [handleOf kTENSOR 1, 0, 0x72000, 0, 0]

theorem witness_TransferIssue : (∃ s m, s = declaring tileRun [tensor0 false] ∧ s.Settled ∧ s.copiesOn s.cw.dev s.cw.core < 128 ∧
      s.Names 20 [kTENSOR] kTENSOR 20 ∧ s.tensor? 20 = some (tensor0 false) ∧ s.meshOf 1 tensorWords = some m ∧ s.Calls (runOf 20 7) (ctxOf s) ∧
      tileReserved (words s 20 7) false = false ∧ TileTraps s (tensor0 false) m (words s 20 7) false 0 ∧
      boxFits (words s 20 7) 1 (localDims m 0 (tensorDims tensorWords)) = true ∧ demandClash m 0 0 = false ∧
      wordField (words s 20 7) 4 32 32 = (tensor0 false).gen) ∧
    (∃ s m, s = declaring (tileRun.set 4 0) [tensor0 false] ∧ s.meshOf 1 tensorWords = some m ∧ tileReserved (words s 20 7) true = false ∧
      TileTraps s (tensor0 false) m (words s 20 7) true 0 ∧ badStates m 0 1 (tensorDims tensorWords) = false) ∧
    boxFits (tileRun.set 3 64) 1 (localDims mesh0 0 (tensorDims tensorWords)) = false ∧ tileReserved (tileRun.set 6 0x400000) true = true ∧
    (∃ s, s = declaring convRun [tensor0 true] ∧ s.Calls (runOf 20 5) (ctxOf s) ∧ convReserved (words s 20 5) = false ∧
      s.converting (tensor0 true) = false ∧ badStates mesh0 (wordField (convWords tensorWords (words s 20 5)) 1 0 24) 1
        (tensorDims (convWords tensorWords (words s 20 5))) = false ∧ wordField (convWords tensorWords (words s 20 5)) 5 0 4 = 0 ∧
      (shardRange mesh0 tensorWords).2 ≤ (shardRange mesh0 (convWords tensorWords (words s 20 5))).1) ∧
    convReserved (convRun.set 1 0x1000000) = true ∧ (tensor0 false).sealed = false := by
  refine ⟨⟨_, _, rfl, settled rfl rfl, by decide, rfl, rfl, rfl, calls rfl rfl rfl, by decide, ⟨by decide, by decide, by decide, by decide⟩, by decide,
      by decide, by decide⟩,
    ⟨_, _, rfl, rfl, by decide, ⟨?_, by decide, by decide, by decide⟩, by decide⟩, by decide, by decide,
    ⟨_, rfl, calls rfl rfl rfl, by decide, by decide, by decide, by decide, by decide⟩, by decide, rfl⟩
  intro _ i hi
  have : ∀ i < 3, stLegal (stateByte 0 i) = true ∧ stBadOp (stateByte 0 i) = false ∧ (1 ≤ i → stateByte 0 i = 0) := by decide
  exact this i hi

theorem witness_SealWords : (∃ s m, s = withRegs (tensors [tensor0 false]) [(5, 3)] ∧ s.Calls [9, 5] (ctxOf s) ∧ s.Names 9 [kTENSOR] kTENSOR 20 ∧
      s.tensor? 20 = some (tensor0 false) ∧ s.meshOf 1 tensorWords = some m ∧ (s.rs 5).toNat = (tensor0 false).gen ∧ s.Settled ∧ s.copies = [] ∧
      (tensor0 false).issued ≠ some (tensor0 false).gen) ∧ ((tensors []).rs 5).toNat ≠ (tensor0 false).gen ∧ (tensor0 true).sealed = true ∧
    { tensor0 true with issued := some 3 }.issued = some (tensor0 true).gen :=
  ⟨⟨_, _, rfl, calls rfl rfl rfl, rfl, rfl, rfl, by decide, settled rfl rfl, rfl, by decide⟩, by decide, rfl, rfl⟩

/-! ## Witnesses: barriers, regions, tiles, censuses -/

/-- Barrier registers: number 15 and the mask of wave 0; two waves of the team. -/
def barring (s : State) : State := withRegs s [(5, 15), (6, 1)]

/-- The team's named barrier 15 changed. -/
def bar15 (b : Bar) (s : State) : State := { s with teams := s.teams.map fun t => { t with named := t.named.set 15 b } }

theorem witness_BarrierArrival : (∃ team s, s = barring demo ∧ s.Calls [5, 6] (ctxOf s) ∧ s.team? s.cw.team = some team ∧ team.named.length = 16 ∧
      s.cw.eng.queue = [] ∧ s.cw.uid ≠ 0 ∧ s.cw.st.onCore = true ∧ (s.rs 5).toNat ≤ 15 ∧ (s.rs 6).toNat < 2 ^ 16 ∧
      (s.rs 6).getLsbD s.cw.index = true ∧ (s.barAt 17).collecting = false ∧ (s.barAt 17).pinned = false ∧ s.cw.arrivalAt 17 = none ∧
      (s.barAt 17).next = [] ∧ ∀ m ∈ s.barMembers 17 1, m = s.cw.uid ∨ s.ended m = true) ∧
    (∃ m ∈ twoWaves.barMembers 0 0, m ≠ twoWaves.cw.uid ∧ twoWaves.ended m = false) ∧
    (∃ s, s = bar15 { Bar.idle with collecting := true, mask := 1, members := [4, 6], arrived := [6] } twoWaves ∧
      (s.barAt 17).collecting = true ∧ s.cw.uid ∈ (s.barAt 17).members ∧ ∀ m ∈ (s.barAt 17).members, m = s.cw.uid ∨ m ∈ (s.barAt 17).arrived) ∧
    (∃ s x, s = onWave demo (fun w => { w with arrivals := [{ bar := 0, phase := 0 }] }) ∧ s.cw.arrivalAt 0 = some x ∧ (s.barAt 0).past x.phase = false) ∧
    (bar15 { Bar.idle with phase := 1 } demo).barAt 17 = { Bar.idle with phase := 1 } ∧ { Bar.idle with phase := 1 }.past 0 = true :=
  ⟨⟨_, _, rfl, calls rfl rfl rfl, rfl, rfl, rfl, by decide, rfl, by decide, by decide, by decide, rfl, rfl, rfl, rfl, by decide⟩, by decide,
    ⟨_, rfl, by decide, by decide, by decide⟩, ⟨_, _, rfl, rfl, by decide⟩, by decide, by decide⟩

theorem witness_NamedBarriers : (∃ team, (barring demo).Calls [5, 6] (ctxOf demo) ∧ (barring demo).team? (barring demo).cw.team = some team ∧
      team.named.length = 16) ∧ 15 < ((withRegs demo [(5, 16)]).rs 5).toNat ∧ 2 ^ 16 ≤ ((withRegs demo [(6, 0x10001)]).rs 6).toNat ∧
    ((withRegs demo [(6, 2)]).rs 6).getLsbD demo.cw.index = false ∧
    (∃ s, s = bar15 { Bar.idle with pinned := true, mask := 3 } (barring demo) ∧ (s.rs 5).toNat = 15 ∧ (s.rs 6).getLsbD s.cw.index = true ∧
      s.cw.eng.queue = [] ∧ s.cw.arrivalAt 17 = none ∧ (s.barAt 17).pinned = true ∧ (s.barAt 17).mask ≠ (s.rs 6).setWidth 16 ∧
      (s.barAt 17).collecting = false) ∧ (bar15 { Bar.idle with collecting := true } demo).barAt 17 = { Bar.idle with collecting := true } :=
  ⟨⟨_, calls rfl rfl rfl, rfl, rfl⟩, by decide, by decide, by decide, ⟨_, rfl, by decide, by decide, rfl, rfl, rfl, by decide, rfl⟩, rfl⟩

/-- An open region with two bytes buffered for the data section. -/
def inRegion : State := onWave demo fun w => { w with region := some { irb := 0x50000, buf := [(0x70000, 1), (0x70001, 2)] } }

theorem witness_Regions : (demo.cw.eng.queue = [] ∧ demo.cw.level = .ordinary ∧ demo.cw.region = none ∧ atHandler.cw.level = .handler) ∧
    (∃ r first p page u, inRegion.cw.region = some r ∧ regionLines r.buf = [3584] ∧
      (checkLine 3584).run inRegion = .ok (first, .ok (.phys p page)) u ∧ isPeer (u.whoOf u.cw).dev p = false ∧
      u.MemWf ∧ (r.buf.map (·.1)).Nodup) ∧
    ∃ r checked u, inRegion.cw.region = some r ∧ ((regionLines r.buf).mapM checkLine).run inRegion = .ok checked u ∧ ∀ x ∈ checked, x.2 ≠ .blocked := by
  let r : Region := { irb := 0x50000, buf := [(0x70000, 1), (0x70001, 2)] }
  have ⟨x, u, h, p⟩ := ok_of (r := (checkLine 3584).run inRegion) (p := fun x => x.1 == (0x70000, .ok (.phys 0x70000 0)) &&
    x.2.whoOf x.2.cw == inRegion.whoOf inRegion.cw && Memory.wf x.2.mem) (by decide +kernel)
  have ⟨xs, v, hs, q⟩ := ok_of (r := ((regionLines r.buf).mapM checkLine).run inRegion)
    (p := fun x => x.1 == [(0x70000, .ok (.phys 0x70000 0))]) (by decide +kernel)
  simp only [Bool.and_eq_true, beq_iff_eq] at p q
  refine ⟨by decide, ⟨r, 0x70000, 0x70000, 0, u, rfl, by decide, p.1.1 ▸ h, ?_, p.2, by decide⟩, r, xs, v, rfl, hs, by subst q; decide⟩
  rw [p.1.2]
  decide

/-- A store of s9 to 0x70000 in a region whose buffer holds `buf`. -/
def regionStoring (buf : List Host.Cell) : State :=
  withRegs (onWave demo fun w => { w with region := some { irb := 0x50000, buf } }) [(5, 0x70000), (9, 0x1234)]

theorem witness_RegionStore : ∃ u p page, (regionStoring []).Reaches .store ((regionStoring []).rs 5) 8 (.phys p page) u ∧ u.Uncounted page ∧
    (regionStoring []).poison = [] ∧ (regionLines (bufferBytes [] 0x70000 (leBytes ((regionStoring []).rs 9).toNat 8))).length ≤ 64 ∧
    64 < (regionLines (bufferBytes ((List.range 64).map fun i => (128 * i, (1 : Byte))) 0x70000 (leBytes 0x1234 8))).length :=
  ⟨_, _, _, rfl, fun _ h => by cases h; exact ⟨rfl, rfl⟩, rfl, by decide +kernel, by decide +kernel⟩

/-- A tile, under the handle at index 1 in s9, of the placed core; a partition of every core. -/
def tile0 (st : TileState) : TileEnt :=
  { uid := 20, dev := 0, core := 0, ctx := 1, key := 7, addr := 0x70000, size := 64, kernel := 1, st, list := [], dest := none }
def tiles (st : TileState) : State :=
  withRegs (named1 kTILE { demo with tiles := [tile0 st] }) [(20, 7), (21, 0x70000), (22, 64), (16, 511)]

theorem witness_TileWords : ((tiles .active).Calls (runOf 20 3) (ctxOf demo) ∧ 0 < ((tiles .active).rs (SReg.plus 20 2)).toNat ∧
      ((tiles .active).rs (SReg.plus 20 1)).toNat < 2 ^ 56 ∧ (tiles .active).dirUsed 0 0 < 256 ∧ (tiles .active).sliceFull (ctxOf demo) = false) ∧
    256 ≤ { demo with tiles := .replicate 256 (tile0 .active) }.dirUsed 0 0 ∧
    ((tiles .active).Names 9 [kTILE] kTILE 20 ∧ (tiles .active).tile? 20 = some (tile0 .active) ∧ (tiles .active).cw.wait = none ∧
      (tiles .active).entryBusy 20 = false) ∧
    (∃ m, { tiles .active with responders := [m] }.entryBusy 20 = true) ∧
    ((tiles .active).rs 16).toNat < 512 ∧ maskHas ((tiles .active).partMask 0 1) 511 = true ∧ 511 ≠ (tile0 .active).core ∧
    (tiles .active).dirUsed 0 511 < 256 ∧ (demo.rs 16).toNat = (tile0 .active).core ∧ maskHas ((tiles .active).partMask 0 1) 512 = false :=
  ⟨⟨calls rfl rfl rfl, by decide, by decide, by decide, by decide⟩, by decide +kernel, ⟨rfl, rfl, rfl, by decide⟩,
    ⟨{ uid := 30, handle := 0, census := 31, tile := 20, addr := 0x70000, dev := 0, core := 0, spawned := false, ended := false }, by decide⟩,
    by decide +kernel, by decide +kernel, by decide, by decide +kernel, by decide, by decide +kernel⟩

/-- SOLICIT's run at s20: key, mask, combine and responder, result address. -/
def soliciting (x res : Word) : State := withRegs (withMesh demo) [(20, 7), (21, 0xFF), (22, x), (23, res)]

theorem witness_SolicitWord : (soliciting 10 0x70000).Calls (runOf 20 4) (ctxOf (withMesh demo)) ∧
    (((soliciting 10 0x70000).rs (SReg.plus 20 2)).toNat = 10 ∧ ((soliciting 10 0x70000).rs (SReg.plus 20 3)).toNat % 16 = 0 ∧
      (soliciting 10 0x70000).sliceFull (ctxOf (withMesh demo)) = false ∧ (soliciting 10 0x70000).Settled ∧ (soliciting 10 0x70000).censuses = []) ∧
    (∃ m, (ctxOf (withMesh demo)).meshes.find? (fun y => y.num == 0x30000 / 2 ^ 20 % 16) = some m ∧ 0x30000 / 2 ^ 16 % 2 = 1 ∧ 0x30000 / 2 ^ 17 % 8 ≠ 0 ∧
      0x30000 / 2 ^ 17 % 8 / 2 ^ m.rank = 0 ∧ 0x50000 / 2 ^ 17 % 8 / 2 ^ m.rank ≠ 0) ∧ ¬ 11 % 16 ≤ 10 ∧ 0x70008 % 16 ≠ 0 :=
  ⟨calls rfl rfl rfl, ⟨by decide, by decide, by decide, settled rfl rfl, rfl⟩, ⟨_, rfl, by decide, by decide, by decide, by decide⟩, by decide, by decide⟩

/-- The executing wave as a responder of a census. -/
def responding : State :=
  let m : Match := { uid := 30, handle := 0, census := 20, tile := 31, addr := 0x70000, dev := 0, core := 0, spawned := true, ended := false }
  onWave { demo with responders := [m], censuses := [census0] } fun w => { w with responder := some 30 }
def solicited (st : CensusState) : State := named1 kCENSUS { demo with censuses := [{ census0 with st }] }

theorem witness_ReplyAndWait : demo.cw.responder = none ∧
    (∃ m y, responding.cw.responder = some m.uid ∧ responding.responders.find? (fun z => z.uid == m.uid) = some m ∧
      responding.census? m.census = some y ∧ responding.Settled ∧ responding.cw.dueTrap = none ∧ responding.copies = [] ∧ responding.cw.uid ≠ 0 ∧ responding.cw.st.onCore = true) ∧
    ∀ st ∈ [CensusState.collecting, .complete, .aborted], (solicited st).Calls [9] (ctxOf (solicited st)) ∧ (solicited st).cw.wait = none ∧
      (solicited st).Names 9 [kCENSUS] kCENSUS 20 ∧ (solicited st).census? 20 = some { census0 with st } :=
  ⟨rfl, ⟨{ uid := 30, handle := 0, census := 20, tile := 31, addr := 0x70000, dev := 0, core := 0, spawned := true, ended := false }, census0, rfl, rfl, rfl, settled rfl rfl,
    rfl, rfl, by decide, rfl⟩, fun st _ => ⟨calls rfl rfl rfl, rfl, by cases st <;> rfl, rfl⟩⟩

/-! ## Witnesses: events of waves -/

/-- The placed machine at an event. -/
def placed : State := State.reset.place false 0
def at' (s : State) (e : Event) : State := { s.unfocus with turn := .event e }

theorem due {s : State} {e : Event} : (at' s e).Due e := by
  have h : s.unfocus.cw.uid = 0 ∧ s.unfocus.cp.live = false := by
    by_cases h : s.cw.uid = 0 <;> simp [State.unfocus, h] <;> trivial
  exact ⟨rfl, h⟩

/-- The device's time, in ns. -/
def atTime (n : Nat) (s : State) : State := { s with devs := s.devs.map fun d => { d with time := n } }

/-- The placed wave changed. -/
def waveWith (f : Wave → Wave) (s : State := placed) : State := { s with waves := s.waves.map f }

/-- A path of the placed wave that waits for tile 8's operation, or at slot 7, since time 0. -/
def waitingPath (w : PathWait) : State :=
  waveWith (s := (State.reset.place true 0)) fun v => { v with eng := { v.eng with paths := v.eng.paths.map fun p => { p with wait := w } } }
def latchState : State :=
  let a : MjArrival := { wave := 4, path := 0, hand := false, tile := 8, tag := 3, breg := 16, band := 0, since := 0, word := 0, loose := false }
  { waitingPath .latch with latch := [{ uid := 5, team := 2, gang := 0x1002, ty := 3, amix := false, pa := 0, arrivals := [a], dirty := false }] }

theorem witness_LaneTimeouts :
    (∃ s w a, s = at' (atTime 1747627 latchState) (.mjLatchTimeout 4) ∧ s.wave? 4 = some w ∧
      (s.latch.flatMap (·.arrivals)).find? (fun a => a.wave == 4) = some a ∧ (s.pathOf 4 a.path a.hand).isSome = true ∧
      2 ^ 20 * 1000 ≤ (s.time w.dev - a.since) * 600) ∧ ¬ 2 ^ 20 * 1000 ≤ (1747626 - 0) * 600 ∧
    ∃ s since word, s = at' (waitingPath (.slot 7 0 0 0)) (.rendezvousTimeout 4 0) ∧ s.slotWaiter 4 0 = some (false, 7, since, word) ∧ since = 0 :=
  ⟨⟨_, _, _, rfl, rfl, rfl, rfl, by decide⟩, by decide, ⟨_, _, _, rfl, rfl, rfl⟩⟩

/-- A trap of the placed wave's lanes, an older one of its scalar side, and one of a copy. -/
def pendingTraps : List Trap := [{ cause := 0x30, lane := true, seq := 1 }, { cause := 0x61, xfer := true, seq := 0 }, { cause := 0x21, seq := 2 }]

theorem witness_TrapEntries : ∃ w : Wave, w.level = .ordinary ∧ w.pending ≠ [] ∧
    ∃ s k, s = at' (waveWith (fun w => { w with pending := pendingTraps }) { onKernel placed (fun k => { k with handler := some 4 }) with cp := placed.cp })
        (.trapEntry 4) ∧ s.Due (.trapEntry 4) ∧ s.waves.find? (·.uid == 4) = some w ∧ (s.focus 4).atBoundary w = true ∧
      (w.dueTrap.map (·.cause)) = some 0x21 ∧ HasHandler (s.focus 4) k 4 :=
  ⟨{ bootWave false with pending := pendingTraps }, rfl, by decide, _, _, rfl, due, rfl, by decide, by decide, rfl, rfl, rfl, rfl⟩

theorem witness_HandlerShares : ∃ s w, s = at' placed (.handlerShareExpire 4) ∧ s.Due (.handlerShareExpire 4) ∧ s.wave? 4 = some w ∧ w.uid = 4 :=
  ⟨_, _, rfl, due, rfl, rfl⟩

/-- The running block's one path has ended; a second block follows. -/
def endedBlock : State :=
  waveWith (s := State.reset.place true 0) fun w => { w with eng := { w.eng with
    paths := w.eng.paths.map fun p => { p with ended := true }, queue := w.eng.queue ++ w.eng.queue } }

theorem witness_LaneBlockEnds : (∃ s w, s = at' endedBlock (.laneBlockEnd 4) ∧ s.Due (.laneBlockEnd 4) ∧ s.wave? 4 = some w ∧ w.uid = 4 ∧
      w.st.onCore = true ∧ w.eng.running = true ∧ ∀ p ∈ w.eng.paths, p.ended = true ∧ p.var = []) ∧
    ∃ w, (State.reset.place true 0).waves = [w] ∧ ∃ p ∈ w.eng.paths, p.ended = false :=
  ⟨⟨_, _, rfl, due, rfl, rfl, rfl, rfl, by decide⟩, _, rfl, by decide⟩

theorem witness_LaneResultWrites : ∃ s w p r rest,
    s = at' (waveWith (s := State.reset.place true 0) fun w => { w with eng := { w.eng with
      paths := w.eng.paths.map fun p => { p with var := [outV 127 1 [5]] } } }) (.laneResultWrite 4 0) ∧ s.Due (.laneResultWrite 4 0) ∧
    s.wave? 4 = some w ∧ w.eng.paths.find? (·.id == 0) = some p ∧ p.var = r :: rest ∧ r.reg = .v 127 :=
  ⟨_, _, _, _, _, rfl, due, rfl, rfl, rfl, rfl⟩

/-- A fragment in a place. -/
def fragment (pl : Place) : State :=
  waveWith (s := State.reset.place true 0) fun w => { w with eng := { w.eng with
    paths := w.eng.paths.map fun p => { p with place := pl, spill := 0 } } }

theorem witness_FragmentReloads : ∀ pl ∈ [Place.reloading, .spilled], ∃ s w p, s = at' (fragment pl) (.fragmentReload 0 0) ∧
    s.Due (.fragmentReload 0 0) ∧ s.wave? 4 = some w ∧ w.eng.paths.find? (·.id == 0) = some p ∧ p.place = pl ∧
    s.fragmentsOn 0 0 (fun p => p.active && (p.place == .reloading || p.place == .spilled)) = [(4, false, p)] ∧ s.splitUsed 0 0 < 64 := by
  intro pl h
  rcases List.mem_cons.1 h with rfl | h
  · exact ⟨_, _, _, rfl, due, rfl, rfl, rfl, rfl, by decide⟩
  · cases List.mem_singleton.1 h
    exact ⟨_, _, _, rfl, due, rfl, rfl, rfl, rfl, by decide⟩

/-! ## Witnesses: events of copies, tensors and objects -/

theorem witness_CopyStarts : (∃ s w, s = at' { placed with copies := [copy0 .queued] } (.copyStart 20) ∧ s.Due (.copyStart 20) ∧
      s.copies = [copy0 .queued] ∧ (copy0 .queued).job ≠ .tconv ∧ s.wave? 4 = some w ∧ w.st.onCore = true ∧ s.ctxRuns w.ctx = true ∧
      (copy0 .queued).bitmap.clr = false) ∧ (onCtx placed fun c => { c with st := .parked }).ctxRuns 1 = false :=
  ⟨⟨_, _, rfl, due, rfl, by decide, rfl, rfl, by decide, by decide⟩, by decide⟩

theorem witness_CopyEngines : ∃ s, s = at' { placed with copies := [copy0 .queued] } (.copyStart 20) ∧ s.Due (.copyStart 20) ∧
    (s.copies.map (·.uid)).Nodup ∧ (s.copies.filter fun c => c.dev == 0 && c.hoop == 0 && c.onEngine).length ≤ 2 :=
  ⟨_, rfl, due, by decide, by decide⟩

/-- One byte from 0x100 to 0 of the team's scratchpad, begun. -/
def inScratch : Copy := { copy0 .started with words := [0x0100000000000100, 0x0100000000000000, 0, 0x600], engine := 1 }

theorem witness_CopyChunks : ∃ s team w x, s = at' { placed with copies := [inScratch] } (.chunkComplete 20 0) ∧ s.Due (.chunkComplete 20 0) ∧
    s.copy? 20 = some inScratch ∧ inScratch.bitmap.en = false ∧ inScratch.written = [] ∧ s.poison = [] ∧ s.team? 2 = some team ∧ Memory.wf team.scratch = true ∧
    s.wave? 4 = some w ∧ s.team? w.team = some team ∧ s.ctx? 1 = some x ∧ x.st ≠ .terminating ∧
    (copyDesc inScratch.words none).total = 1 ∧ (copyDesc inScratch.words none).red = 0 ∧ (copyDesc inScratch.words none).overlapping = false ∧
    (∀ n < 1, ∃ a, (copyDesc inScratch.words none).srcAt (fun _ => 0) n = some a ∧
      s.locate (s.engineWave inScratch) .load a 1 = (.ok (.scratch 2 256), s)) ∧
    ∀ n < 1, s.locate (s.engineWave inScratch) .store ((copyDesc inScratch.words none).dstAt n) 1 = (.ok (.scratch 2 0), s) := by
  refine ⟨_, _, _, _, rfl, due, rfl, by decide, rfl, rfl, rfl, rfl, rfl, rfl, rfl, by decide, by decide, by decide, by decide, ?_, ?_⟩ <;>
    intro n hn <;> cases Nat.lt_one_iff.1 hn
  · exact ⟨_, rfl, rfl⟩
  · rfl

theorem witness_ChunkCounts : ∃ s, s = at' { placed with copies := [inScratch] } (.chunkComplete 20 0) ∧ s.Due (.chunkComplete 20 0) ∧
    s.copy? 20 = some inScratch ∧ s.chunkDue inScratch 0 = true ∧ ∃ n u, (engChunk inScratch 0 none).run s = .ok n u := by
  refine ⟨_, rfl, due, rfl, by decide, ?_⟩
  have : (match (engChunk inScratch 0 none).run (at' { placed with copies := [inScratch] } (.chunkComplete 20 0)) with
    | .ok .. => true
    | .error .. => false) = true := by decide +kernel
  revert this
  cases (engChunk inScratch 0 none).run (at' { placed with copies := [inScratch] } (.chunkComplete 20 0)) with
  | ok n u => exact fun _ => ⟨n, u, rfl⟩
  | error e u => exact fun h => by cases h

/-- A copy whose source is not mapped. -/
def unmapped : Copy := { inScratch with words := [0x40000000, 0x0100000000000000, 0, 0x600] }

theorem witness_CopyStops : ∃ s w, s = at' { placed with copies := [unmapped] } (.copyStop 20 0) ∧ s.Due (.copyStop 20 0) ∧
    s.copy? 20 = some unmapped ∧ s.chunkDue unmapped 0 = true ∧ s.wave? 4 = some w ∧ s.ended 4 = false ∧
    ∃ trap u, (engChunk unmapped 0 none).run s = .error (.bad trap) u := by
  refine ⟨_, _, rfl, due, rfl, by decide, rfl, by decide, ?_⟩
  have : (match (engChunk unmapped 0 none).run (at' { placed with copies := [unmapped] } (.copyStop 20 0)) with
    | .error (.bad _) _ => true
    | _ => false) = true := by decide +kernel
  revert this
  cases (engChunk unmapped 0 none).run (at' { placed with copies := [unmapped] } (.copyStop 20 0)) with
  | ok n u => exact fun h => by cases h
  | error e u => cases e <;> first | exact fun _ => ⟨_, _, rfl⟩ | exact fun h => by cases h

/-- A TLOAD of generation 3 queued; a conversion of the sealed tensor on a mesh of one device. -/
def tload0 : Copy := { copy0 .queued with job := .tload, tensor := 20, words := tileRun }
def tconv0 (st : CopyState) (phase : Nat) : Copy := { copy0 st with job := .tconv, tensor := 20, words := convRun, phase }
def objects (cs : List Copy) (ts : List Tensor) (e : Event) : State := at' { withMesh placed with copies := cs, tensors := ts } e

theorem witness_ConversionEvents :
    (∃ s, s = objects [tload0] [tensor0 true] (.tloadReadPoint 20) ∧ s.copy? 20 = some tload0 ∧ s.tensor? 20 = some (tensor0 true) ∧
      (s.copies.map (·.uid)).Nodup ∧ s.Due (.tloadReadPoint 20) ∧ tload0.readGen = none ∧ (tload0.words.getD 4 0).toNat / 2 ^ 32 ≤ (tensor0 true).gen) ∧
    (∃ s, s = objects [tconv0 .queued 0] [tensor0 true] (.tconvCheck 20) ∧ s.meshTensors (tensor0 true) = [some (tensor0 true)] ∧
      s.convOf (tensor0 true) = some (tconv0 .queued 0) ∧ s.Due (.tconvCheck 20) ∧ s.waveThere (tconv0 .queued 0) = true) ∧
    (∃ s c, s = objects [c] [tensor0 true] (.tconvCommit 20) ∧ c = { tconv0 .started 1 with chunks := [0] } ∧ s.Due (.tconvCommit 20) ∧
      s.convOf (tensor0 true) = some c ∧ c.chunks.length = (s.copyTotal c + 511) / 512) ∧
    ∃ s c k, s = objects [c] [tensor0 true] (.tconvRetire 20) ∧ c = { tconv0 .started 2 with readGen := some 2 } ∧ s.Due (.tconvRetire 20) ∧
      s.convOf (tensor0 true) = some c ∧ c.inFlight = true ∧ some (tensor0 true).gen ≠ c.readGen ∧ s.ctx? c.ctx = some k ∧ k.st ≠ .terminating :=
  ⟨⟨_, rfl, rfl, rfl, by decide, due, rfl, by decide⟩, ⟨_, rfl, rfl, rfl, due, by decide⟩, ⟨_, _, rfl, rfl, due, rfl, by decide⟩,
    ⟨_, _, _, rfl, rfl, due, rfl, by decide, by decide, rfl, by decide⟩⟩

theorem witness_TimersAndWatches :
    (∃ s, s = at' (atTime 100 { placed with timers := [timer0] }) (.timerFire 21) ∧ s.Due (.timerFire 21) ∧ s.timer? 21 = some timer0 ∧
      s.recordsEvents 1 = true ∧ timer0.armed = true ∧ timer0.deadline.toNat ≤ s.time 0 ∧ timer0.period = 0) ∧
    ∃ s x, s = at' { placed with watches := [x] } (.watchMatch 22) ∧ s.Due (.watchMatch 22) ∧ s.watch? 22 = some x ∧ x.holds s.mem = true ∧
      x = { uid := 22, ctx := 1, addr := 0x70000, mask := 0xFF, value := 0, wide := true, cmp := 0, matched := false, polled := false, polledAt := 0 } :=
  ⟨⟨_, rfl, due, rfl, by decide, rfl, by decide, rfl⟩, _, _, rfl, due, rfl, by decide, rfl⟩

theorem witness_NamesRehomed : ∃ s, s = at' { placed with parts := placed.parts.map fun p => { p with nextDomain := some 7 } } (.nameRehome 7) ∧
    s.Due (.nameRehome 7) ∧ ∃ p ∈ s.parts, p.nextDomain = some 7 := ⟨_, rfl, due, by decide⟩

/-- A census that still collects, and one tile of its key; the kernel has a responder. -/
def censusAt (ts : List TileEnt) (c : Census) (e : Event) : State :=
  at' (onKernel { placed with tiles := ts, censuses := [c] } fun k => { k with responders := [0] }) e

theorem witness_CensusBroadcasts :
    (∃ s, s = censusAt [] census0 (.censusBroadcastArrive 20 0 511) ∧ s.Due (.censusBroadcastArrive 20 0 511) ∧ s.census? 20 = some census0 ∧
      census0.mesh = none ∧ census0.st = .collecting ∧ (0 * 512 + 511) ∉ census0.reached ∧ s.memberDrains census0 0 = false ∧ s.tiles = []) ∧
    (∃ s e x k, s = censusAt [e] census0 (.censusBroadcastArrive 20 0 0) ∧ s.Due (.censusBroadcastArrive 20 0 0) ∧ e = tile0 .active ∧ e.core = 0 ∧
      e.key &&& census0.mask = census0.key &&& census0.mask ∧ e.list.length < 8 ∧ e.dest = none ∧ s.responders = [] ∧ s.ctx? e.ctx = some x ∧
      x.kernel? e.kernel = some k ∧ census0.resp < k.responders.length) ∧ 8 ≤ { tile0 .active with list := List.range 8 }.list.length :=
  ⟨⟨_, rfl, due, rfl, rfl, rfl, by decide, by decide, rfl⟩, ⟨_, _, _, _, rfl, due, rfl, rfl, by decide, by decide, rfl, rfl, rfl, rfl, by decide⟩,
    by decide⟩

/-- A census with every core reached and no match. -/
def census1 : Census := { census0 with reached := List.range 512 }

theorem witness_CensusEnds : (∃ s p page u, s = censusAt [] census1 (.censusComplete 20) ∧ s.Due (.censusComplete 20) ∧ s.census? 20 = some census1 ∧
      census1.st = .collecting ∧ census1.abort = false ∧ s.tiles = [] ∧ census1.owner = true ∧ s.MemWf ∧ census1.replies = census1.matched ∧
      (s.draw.2.translate (s.engineOf census1.ctx) .store census1.result.toNat false) = (.at p page, u)) ∧
    (∀ d ∈ census1.targets, ∀ k < 512, (d * 512 + k) ∈ census1.reached) ∧ (0 * 512 + 511) ∉ census0.reached := by
  refine ⟨⟨_, _, _, _, rfl, due, rfl, rfl, rfl, rfl, rfl, rfl, rfl, rfl⟩, ?_, by decide⟩
  intro d hd k hk
  have hd : d ∈ [0] := hd
  cases List.mem_singleton.1 hd
  have : census1.reached = List.range 512 := by simp only [census1]
  rw [this]
  exact List.mem_range.2 (by omega)

theorem witness_TileMovesCommit : ∃ s e, s = at' { placed with tiles := [e] } (.tmoveCommit 20) ∧ s.Due (.tmoveCommit 20) ∧ s.tile? 20 = some e ∧
    e.st = .moving ∧ e.dest = some (511, 0x71000, [], []) ∧ e.list.length ≤ 8 ∧ e = { tile0 .moving with dest := some (511, 0x71000, [], []) } :=
  ⟨_, _, rfl, due, rfl, rfl, rfl, by decide, rfl⟩

/-! ## Witnesses: the dispatcher -/

/-- A record of one team of kernel 1, its message, and a launch port that holds it. -/
def record (w0 : Word) : List Word := [w0, 0x100010001, 0, 0x10100000, 7, 0, 0, 0, 0, 0, 0, 0, 0, 0, 0, 0]
def launchMsg (w0 : Word) : Msg := { msg0 with words := record w0 }
def launchPort (w0 : Word) : Port := { port0 with launch := true, queue := [launchMsg w0] }
def launching (w0 : Word) : State := at' { placed with ports := [launchPort w0] } (.launchRecordHead 20)

theorem witness_RecordStatuses : (record 1).length = 16 ∧
    (recordField (record 1) 0 8 8 = 0 ∧ recordField (record 1) 1 0 16 * recordField (record 1) 1 16 16 * recordField (record 1) 1 32 16 = 1) ∧
    (bootCtx.kernel? (recordField (record 1) 0 0 8)).isSome = true ∧ bootCtx.kernel? (recordField (record 2) 0 0 8) = none ∧
    recordField (record 0x10001) 0 16 8 = 1 ∧ recordField (record 0x101) 0 8 8 ≠ 0 := by decide

/-- A launch of the record, not complete. -/
def launch0 : Launch :=
  { uid := 40, dev := 0, ctx := 1, port := 20, record := record 1, prio := 0, mask := 1, removed := [], order := 0, next := 1, since := 0, created := 1,
    ended := 0, killed := 0, started := 3, status := 0, teams := 1, complete := false, sent := false, done := 5 }

theorem witness_LaunchHeads : (∃ s p m c, s = launching 0x1000002 ∧ s.Due (.launchRecordHead 20) ∧ s.port? 20 = some p ∧ p.launch = true ∧
      p.st = .opened ∧ p.queue = m :: [] ∧ m.via = none ∧ s.ctx? p.ctx = some c ∧ s.placeable c.uid = true ∧ s.launches = [] ∧
      recordField m.words 0 24 1 = 1 ∧ s.recordStatus c m.words = 2) ∧ launch0.port = 20 ∧ launch0.complete = false :=
  ⟨⟨_, _, _, _, rfl, due, rfl, rfl, rfl, rfl, rfl, rfl, by decide, rfl, by decide, by decide⟩, rfl, rfl⟩

/-- The placed machine with nothing of a cluster in it. -/
def empty' (s : State) : State := { s with clusters := [], teams := [], waves := [], banks := [], handles := [] }

theorem witness_LaunchStarts : ∃ s p m c k, s = empty' (launching 1) ∧ s.Due (.launchRecordHead 20) ∧ s.port? 20 = some p ∧ p.launch = true ∧
    p.queue = m :: [] ∧ m.via = none ∧ s.ctx? p.ctx = some c ∧ s.placeable c.uid = true ∧ s.launches = [] ∧ s.UidsGiven ∧ s.clusters = [] ∧
    s.recordStatus c m.words = 0 ∧ c.kernel? (recordField m.words 0 0 8) = some k ∧ k.rows = 1 ∧ k.cols = 1 ∧ k.waves = 1 ∧
    s.roomForWaves c 1 = true :=
  ⟨_, _, _, _, _, rfl, ⟨rfl, rfl, rfl⟩, rfl, rfl, rfl, rfl, rfl, by decide, rfl, by constructor <;> decide, rfl, by decide +kernel, rfl, rfl, rfl, rfl,
    by decide⟩

/-- The placed cluster in another state. -/
def clusterAt (st : ClusterState) : Cluster := { bootCluster with st }
def clustered (st : ClusterState) (e : Event) : State :=
  at' (waveWith (fun w => { w with st := .created }) { placed with clusters := [clusterAt st], banks := [] }) e

/-- The waiting cluster's launch has cores 8 to 15 for its mask, and the list entry stands at hoop 0. -/
def launchOn (mask : Nat) : Launch := { launch0 with uid := 40, mask, prio := 5, started := 0 }
def elsewhere : State :=
  { clustered .inRunList (.runListAdmit 3) with
    clusters := [{ clusterAt .inRunList with launch := some 40 }], launches := [launchOn 0xFF00] }

theorem witness_RunLists : (∃ s, s = clustered .inTable (.runListAdmit 3) ∧ s.Due (.runListAdmit 3) ∧ s.cluster? 3 = some (clusterAt .inTable) ∧
      s.placeable 1 = true ∧ (s.clusters.filter fun x => x.dev == 0 && x.home == 0 && x.st == .inRunList).length < 2048) ∧
    (∃ x ∈ [{ clusterAt .inTable with uid := 9 }], x.uid ≠ 3 ∧ x.st = .inTable ∧ x.arrival < 1) ∧
    ((clustered .parked (.runListAdmit 3)).clusterSaving (clusterAt .parked) = false ∧
      (hoopsFor ((clustered .parked (.runListAdmit 3)).clusterMask (clusterAt .parked)) 1 1 false).contains 0 = true) ∧
    { clustered .parked (.runListAdmit 3) with copies := [copy0 .started] }.clusterSaving (clusterAt .parked) = true ∧
    (∃ y ∈ (clustered .inRunList (.runListAdmit 3)).cornersFor (clusterAt .inRunList)
      ((clustered .inRunList (.runListAdmit 3)).clusterMask (clusterAt .inRunList)), y / 8 = 0) ∧
    (∃ c, elsewhere.cluster? 3 = some c ∧ c.hold = none ∧ elsewhere.cornersFor c (elsewhere.clusterMask c) ≠ [] ∧
      ∀ y ∈ elsewhere.cornersFor c (elsewhere.clusterMask c), y / 8 ≠ c.home) ∧ (clusterAt .placed).st = .placed :=
  ⟨⟨_, rfl, due, rfl, by decide, by decide⟩, by decide, by decide +kernel, by decide, by decide +kernel,
    ⟨_, rfl, rfl, by decide +kernel, by decide +kernel⟩, rfl⟩

/-- Its team needs no bank. -/
def bankless : State := { clustered .inRunList (.clusterPlace 3 7) with teams := [{ bootTeam with banks := 0 }] }

theorem witness_Placements : (∃ c cores, bankless.Due (.clusterPlace 3 7) ∧ bankless.cluster? 3 = some c ∧ c.st = .inRunList ∧
      rectangle 7 1 1 false = some cores ∧ c.launch = none ∧ c.teams.length = cores.length ∧ c.teams.Nodup ∧ bankless.creditRounds 0 1 = bankless ∧
      bankless.teams.length = 1 ∧ bankless.placeable c.ctx = true ∧ bankless.launchTurn c = true ∧ 7 / 8 = c.home ∧ c.hold = none ∧
      bankless.fits 0 3 (bankless.clusterMask c) (bankless.needOf c) cores = true ∧ bankless.isBest c = true ∧
      bankless.banksFit 0 cores (bankless.needOf c) false = true) ∧ (clusterAt .placed).st ≠ .inRunList := by
  refine ⟨⟨_, _, ⟨rfl, rfl, rfl⟩, rfl, rfl, rfl, rfl, rfl, by decide, ?_, rfl, by decide, by decide, by decide, rfl, by decide +kernel,
    by decide +kernel, by decide +kernel⟩, by decide⟩
  have h : bankless.readyCtxs 0 1 = [] := by decide
  simp [State.creditRounds, h]

theorem witness_Rectangles : (7 < 512 ∧ (rectangle 63 1 1 false).isSome = true ∧ rectangle 63 2 1 false = none ∧ rectangle 63 1 2 false = none ∧
    (rectangle 63 1 2 true).isSome = true) ∧ 63 / 8 % 8 + 2 > 8 := by decide

/-- A launch of sixteen waves placed on core 0, and a cluster of another, of a higher level, that may use that core alone. -/
def preempting : State :=
  let own : Launch := { launch0 with uid := 41, prio := 5, started := 0 }
  let team : Team := { bootTeam with uid := 12, cluster := 13, banks := 0 }
  let x : Cluster := { bootCluster with uid := 13, launch := some 41, teams := [12], st := .inRunList, prio := 5 }
  let more := (List.range 15).map fun i => { bootWave false with uid := 100 + i, index := i + 1 }
  let waiting := { bootWave false with uid := 200, team := 12, st := .ready }
  at' { placed with
    clusters := [{ bootCluster with launch := some 40 }, x], teams := [bootTeam, team], launches := [launch0, own],
    waves := placed.waves ++ more ++ [waiting] } (.preemption 40 13 0)

theorem witness_Preemptions : ∃ v own c cores, preempting.Due (.preemption 40 13 0) ∧ preempting.launch? 40 = some v ∧ preempting.cluster? 13 = some c ∧
    c.launch = some 41 ∧ preempting.launch? 41 = some own ∧ own.complete = false ∧ rectangle 0 c.rows c.cols c.lc1 = some cores ∧ c.st = .inRunList ∧
    preempting.placeable c.ctx = true ∧ c.hold = none ∧ preempting.cornersFor c (preempting.clusterMask c) = [] ∧ preempting.isVictim v c = true ∧
    preferred 0 (preempting.preemptCorners v c) = true :=
  ⟨_, _, _, _, due, rfl, rfl, rfl, rfl, rfl, rfl, rfl, by decide, rfl, by decide +kernel, by decide +kernel, by decide +kernel⟩

/-- The wave has waited 100 µs, and a cluster at its hoop's list may use another hoop alone. -/
def idle : State :=
  let y : Cluster := { bootCluster with uid := 13, launch := some 41, teams := [12], st := .inRunList, prio := 5 }
  at' (atTime 100000 (waveWith (fun w => { w with st := .waiting, wait := some { kind := .plain, obj := 0, d := 0, since := 0, ord := 0, blocking := true } })
    { placed with clusters := placed.clusters ++ [y], launches := [{ launchOn 0xFF00 with uid := 41 }] })) (.idleTeamEvict 2)

theorem witness_IdleEvictions : ∃ x c y, idle.Due (.idleTeamEvict 2) ∧ idle.team? 2 = some x ∧ idle.cluster? x.cluster = some c ∧ c.uid = x.cluster ∧
    c.st = .placed ∧ (∀ w ∈ idle.waves, w.st = .waiting ∧ (w.wait.any fun r => r.since + 100000 ≤ idle.time x.dev) = true) ∧
    idle.protectedCluster c = false ∧ idle.jointOps = [] ∧ idle.latch = [] ∧ idle.products = [] ∧ idle.cluster? 13 = some y ∧
    y.home = x.core / 8 ∧ c.prio.toNat ≤ idle.effOf y ∧ idle.placeable y.ctx = true ∧
    ∀ z ∈ idle.cornersFor y (idle.clusterMask y), z / 8 ≠ y.home :=
  ⟨_, _, _, due, rfl, rfl, rfl, rfl, by decide, by decide, rfl, rfl, rfl, rfl, rfl, by decide, by decide, by decide +kernel⟩

theorem witness_SavedWaves : demo.cw.region = none ∧ inRegion.cw.region.isSome = true := by decide

/-- The launch complete, with its completion port under the handle of its record. -/
def completing (l : Launch) (p : Port) : State :=
  at' { placed with launches := [l], ports := [p], handles := [{ ctx := 1, index := 0, gen := 1, kind := kPORT, obj := some 20 }] } (.completionMessage 40)
def complLaunch : Launch := { launch0 with complete := true, record := (record 1).set 3 (handleOf kPORT 0) }

theorem witness_CompletionMessages : (∃ s, s = completing complLaunch port0 ∧ s.Due (.completionMessage 40) ∧ s.launch? 40 = some complLaunch ∧
      s.launchOver complLaunch = true ∧ complLaunch.sent = false ∧ recordField complLaunch.record 3 0 32 ≠ 0 ∧ s.complPort complLaunch = some port0 ∧
      s.port? 20 = some port0 ∧ port0.freeSlots ≠ 0) ∧ { port0 with queue := .replicate 4 msg0 }.freeSlots = 0 ∧ launch0.complete = false ∧
    (completing complLaunch { port0 with launch := true }).complPort complLaunch = none :=
  ⟨⟨_, rfl, due, rfl, by decide, rfl, by decide, rfl, rfl, by decide⟩, by decide, rfl, by decide⟩

/-- Two functions of the partition, the slice of the first over. -/
def slices : State :=
  at' (atTime 4000000 { placed with clusters := [], funcs := placed.funcs.flatMap fun f => [f, { f with num := 2 }] }) (.timeSliceSwitch 0 1)

theorem witness_TimeSlices : ∃ p, slices.Due (.timeSliceSwitch 0 1) ∧ slices.part? 0 1 = some p ∧ p.dev = 0 ∧ p.num = 1 ∧
    (∃ f ∈ slices.funcs, f.dev = 0 ∧ f.part = 1 ∧ f.tornDown = false ∧ f.num ≠ p.running) ∧ p.sliceFrom + p.sliceNs ≤ slices.time 0 ∧
    (∃ f ∈ slices.funcs, f.dev = 0 ∧ f.part = 1 ∧ f.tornDown = false ∧ f.num = p.running) ∧
    ((slices.funcs.filter fun f => f.dev == 0 && f.part == 1).map (·.num)).Nodup ∧ slices.clusters = [] ∧ slices.wcb = [] ∧ slices.copies = [] ∧ slices.inputs = [] ∧
    slices.devParked 0 = false ∧ ¬ p.sliceFrom + p.sliceNs ≤ placed.time 0 :=
  ⟨_, due, rfl, rfl, rfl, by decide, by decide, by decide, by decide, rfl, rfl, rfl, rfl, rfl, by decide⟩


/-! ## Witnesses: requests about memory, banks, buffers and ports -/

/-- A held page of the context. -/
def heldPage : Hold := { ctx := 1, wave := 4, page := 0x3000, size := 4096, ia := 0x3000, size2 := 65536 }

/-- A request over the stage-1 addresses from 0x4000. -/
def inval0 : Invalidation := { uid := 20, dev := 0, func := 1, code := 0x20, ctx := some 1, first := 0x4000, len := 64, word0 := 0x20 }

/-- A translation of the placed core, of a leaf at 0x40000 that counts. -/
def tlb0 (count : Nat) : TlbEntry :=
  { dev := 0, core := 0, ctx := 1, va := 0, size := 2 ^ 30, base := 0, r := true, w := true, x := true, g := false, wb := true,
    leaf1 := 0x40000, leaf2 := 0x10000, ia := 0, ct1 := true, ct2 := false, dirty := true, count, size1 := 2 ^ 30, size2 := 2 ^ 30, tables := [] }

theorem witness_Invalidations :
    (∃ s, s = at' placed (.invalidateStage1 0 1 7 1 0x3FC1 64) ∧ s.Due (.invalidateStage1 0 1 7 1 0x3FC1 64) ∧ s.numbered 0 1 1 = some 1 ∧
      (∀ r ∈ s.invals, r.uid < s.nextUid) ∧ s.invals = [] ∧ s.holds = [] ∧ s.ports = []) ∧
    (∃ s, s = at' { placed with holds := [heldPage] } (.invalidateStage1 0 1 7 1 0x3FFF 1) ∧ s.Due (.invalidateStage1 0 1 7 1 0x3FFF 1) ∧
      s.numbered 0 1 1 = some 1 ∧ s.invals = [] ∧ ∃ h ∈ s.holds, h.ctx = 1 ∧ h.page.toNat < 0x3FFF + 1 ∧ 0x3FFF < h.page.toNat + h.size) ∧
    (∃ s, s = at' { placed with holds := [heldPage] } (.invalidateStage2 0 1 7 0xF000 1) ∧ s.Due (.invalidateStage2 0 1 7 0xF000 1) ∧ s.invals = [] ∧
      ∃ h ∈ s.holds, ∃ c, s.ctx? h.ctx = some c ∧ c.dev = 0 ∧ c.func = 1 ∧ h.size2 ≠ 0 ∧ 0xF000 < h.ia + h.size2 ∧ ∀ r ∈ s.invals, r.uid < s.nextUid) ∧
    (∃ s p, s = at' { placed with ports := [p] } (.invalidateStage1 0 1 7 1 0x80000 1) ∧ s.Due (.invalidateStage1 0 1 7 1 0x80000 1) ∧ p.ctx = 1 ∧
      p ∈ s.ports ∧ p.st = .closed ∧ p.winSize ≠ 0 ∧ p.window = []) ∧
    (∃ s, s = at' { placed with invals := [inval0] } (.invalidateStage2 0 1 7 0 0) ∧ s.Due (.invalidateStage2 0 1 7 0 0) ∧ s.holds = [] ∧
      ∃ x ∈ s.invals, x.dev = 0 ∧ x.func = 1 ∧ x.code ≠ 0x21) ∧
    ∃ s, s = at' { placed with invals := [inval0], tlb := [tlb0 0] } (.invalidationComplete 20) ∧ s.Due (.invalidationComplete inval0.uid) ∧
      inval0 ∈ s.invals ∧ (∀ x ∈ s.invals, x.uid = inval0.uid → x = inval0) ∧ s.holds = [] ∧ s.ports = [] ∧ s.wcb = [] ∧
      ((s.ctx? (tlb0 0).ctx).map (·.func)) = some 1 :=
  ⟨⟨_, rfl, due, by decide, by decide, rfl, rfl, rfl⟩, ⟨_, rfl, due, by decide, rfl, by decide⟩,
    ⟨_, rfl, due, rfl, by decide⟩,
    ⟨_, { port0 with st := .closed, winBase := 0x80000, winSize := 65536 }, rfl, due, rfl, List.mem_singleton.2 rfl, rfl, by decide, rfl⟩,
    ⟨_, rfl, due, rfl, by decide⟩,
    _, rfl, due, by decide, by decide, rfl, rfl, rfl, by decide⟩

/-- The placed wave, the leaf at 0x40000 of whose tables counts. -/
def counting : State := { placed with mem := Memory.write placed.mem 0x40001 (Memory.read placed.mem 0x40001 ||| 2) }

theorem witness_AccessCounts : ∀ x ∈ [(16, false), (1, true), (15, false)], ∀ p ∈ [placed, counting], ∃ s e,
    s = at' { p with tlb := [e] } (.accessCountAdd 0 0 0 x.2) ∧ e = tlb0 x.1 ∧ s.Due (.accessCountAdd e.dev e.core e.va x.2) ∧ s.tlb = [e] ∧
    e.ct1 = true ∧ e.ct2 = false ∧ e.size1 ≠ 65536 ∧ s.ctx? e.ctx = some bootCtx ∧ bootCtx.migPort = none ∧ s.MemWf ∧ s.mem = p.mem := by
  intro x _ p hp
  simp only [List.mem_cons, List.not_mem_nil, or_false] at hp
  rcases hp with rfl | rfl
  · exact ⟨_, _, rfl, rfl, due, rfl, rfl, rfl, (by decide : (2 : Nat) ^ 30 ≠ 65536), rfl, rfl, rfl, rfl⟩
  · exact ⟨_, _, rfl, rfl, due, rfl, rfl, rfl, (by decide : (2 : Nat) ^ 30 ≠ 65536), rfl, rfl, (by decide +kernel : Memory.wf counting.mem = true), rfl⟩

theorem AccessCounts_leaf : (∀ p ∈ [placed.mem, counting.mem], Memory.readLE p 0x40000 8 / 2 ^ 51 % 2 = 0) ∧
    counting.counts (tlb0 16) false = true ∧ placed.counts (tlb0 16) false = false ∧
    counting.counts { tlb0 16 with leaf1 := 0x40008 } false = false := by decide +kernel

theorem witness_FrameRequests :
    (∀ x ∈ [(0x20000, 1), (0x20001, 1), (0, 1), (0x3FFF0000, 2)], ∃ s p f, s = at' { placed with parts := placed.parts.map fun p => { p with running := 1 } }
      (.freeFrames 0 1 x.1 x.2) ∧ s.Due (.freeFrames 0 1 x.1 x.2) ∧ s.part? 0 1 = some p ∧ s.func? 0 p.running = some f ∧ 1 ≤ 1 ∧ 1 ≤ 20) ∧
    (0x20000 % 65536 = 0 ∧ placed.frameCode 0 2 = .ofNat 8 1 ∧ placed.frameCode 0 0 ≠ .ofNat 8 1 ∧ placed.frameCode 0 16384 ≠ .ofNat 8 1) ∧
    (∀ c ∈ [(1 : BitVec 8), 20, 21, 0xFE, 0xFF], ∃ s, s = at' placed (.assignFrames 0 20000 2 c) ∧ s.Due (.assignFrames 0 20000 2 c) ∧ 20000 + 2 ≤ 23437500 ∧
      ∀ i < 2, s.frameCode 0 (20000 + i) = 0) ∧
    (∃ s, s = at' placed (.assignFrames 0 0 2 0xFE) ∧ s.Due (.assignFrames 0 0 2 0xFE) ∧ ∀ i < 2, s.frameCode 0 (0 + i) = 0xFF) ∧
    (∃ s, s = at' { placed with owners := [{ dev := 0, first := 5, count := 1, code := 0xFE }] } (.frameScrubComplete 0 5) ∧
      s.Due (.frameScrubComplete 0 5) ∧ s.frameCode 0 5 = 0xFE) ∧ placed.frameCode 0 5 ≠ 0xFE := by
  refine ⟨?_, by decide, ?_, ⟨_, rfl, due, by decide⟩, ⟨_, rfl, due, by decide⟩, by decide⟩
  · intro x _; exact ⟨_, _, _, rfl, due, rfl, rfl, by decide⟩
  · intro x _; exact ⟨_, rfl, due, by decide, (by decide : ∀ i < 2, placed.frameCode 0 (20000 + i) = 0)⟩

/-- A page of the device lent to device 1. -/
def lent0 (released lost : Bool) : Lent := { dev := 0, part := 1, addr := 0x20000, size := 65536, holder := 1, port := 20, released, lost }

theorem witness_LentPages : ∀ b ∈ [true, false],
    (∃ s, s = at' { placed with lent := [lent0 b false] } (.lentFrameRelease 0 0x20000) ∧
      s.Due (.lentFrameRelease (lent0 b false).dev (lent0 b false).addr) ∧ lent0 b false ∈ s.lent ∧
      (∀ x ∈ s.lent, x.dev = (lent0 b false).dev → x.addr = (lent0 b false).addr → x = lent0 b false) ∧ 65536 ≤ (lent0 b false).size ∧
      s.frameCode 0 2 = .ofNat 8 (lent0 b false).part) ∧
    ∃ s, s = at' { placed with lent := [lent0 false b] } (.lentFrameReclaim 0 1) ∧ s.Due (.lentFrameReclaim 0 1) ∧ (∀ l ∈ s.lent, 65536 ≤ l.size) ∧
      ∃ l ∈ s.lent, l.dev = 0 ∧ l.holder = 1 ∧ l.lost = b := by
  intro b _
  refine ⟨⟨_, rfl, due, List.mem_singleton.2 rfl, fun x hx _ _ => List.mem_singleton.1 hx, ?_⟩, _, rfl, due, ?_, _, List.mem_singleton.2 rfl, rfl, rfl, rfl⟩
  · exact ⟨Nat.le_refl _, (by decide +kernel : placed.frameCode 0 2 = .ofNat 8 1)⟩
  · intro l hl; cases List.mem_singleton.1 hl; exact Nat.le_refl _

/-- Bank 0 of hoop 0 as a FIFO of a context, with the change that waits. -/
def fifoBank (owner : Option Nat) (fifo : List Word) (pending : Option BankMode) : Bank :=
  { dev := 0, hoop := 0, bank := 0, mode := .fifo, owner, fifo, pending, pendingOwner := none }

theorem witness_HoopBanks :
    (∀ m ∈ [BankMode.cacheWay, .scratchpad, .fifo], ∃ s, s = at' placed (.hoopBankControl 0 0 63 m none) ∧ s.Due (.hoopBankControl 0 0 63 m none) ∧
      63 < 64 ∧ ∃ p ∈ s.parts, p.dev = 0 ∧ 0 ∈ p.hoops) ∧
    (∀ m ∈ [BankMode.fifo, .scratchpad], ∃ s, s = at' { placed with banks := [fifoBank (some 1) [] (some .cacheWay)] } (.hoopBankControl 0 0 0 m none) ∧
      s.Due (.hoopBankControl 0 0 0 m none) ∧ (s.bank 0 0 0).mode = .fifo ∧ (s.bank 0 0 0).owner ≠ none ∧ (s.bank 0 0 0).pending = some .cacheWay ∧
      ∃ p ∈ s.parts, p.dev = 0 ∧ 0 ∈ p.hoops) ∧
    (∃ s, s = at' { placed with parts := [] } (.hoopBankControl 0 0 0 .fifo none) ∧ s.Due (.hoopBankControl 0 0 0 .fifo none) ∧ s.parts = []) ∧
    (∃ s, s = at' { placed with banks := [fifoBank none [] (some .cacheWay)] } (.bankDrainComplete 0 0 0) ∧ s.Due (.bankDrainComplete 0 0 0) ∧
      (s.bank 0 0 0).pending = some .cacheWay ∧ (s.bank 0 0 0).owner = none ∧ (s.bank 0 0 0).fifo = []) ∧
    (∃ s, s = at' { placed with banks := [fifoBank none [1] (some .cacheWay)] } (.bankDrainComplete 0 0 0) ∧ s.Due (.bankDrainComplete 0 0 0) ∧
      (s.bank 0 0 0).mode ≠ .cacheWay ∧ (s.bank 0 0 0).fifo ≠ []) ∧
    ∃ s, s = at' placed (.bankDrainComplete 0 0 0) ∧ s.Due (.bankDrainComplete 0 0 0) ∧ (s.bank 0 0 0).pending = none :=
  ⟨fun m _ => ⟨_, rfl, due, by decide, (by decide : ∃ p ∈ placed.parts, p.dev = 0 ∧ 0 ∈ p.hoops)⟩, 
    fun m _ => ⟨_, rfl, due, rfl, Option.some_ne_none _, rfl, (by decide : ∃ p ∈ placed.parts, p.dev = 0 ∧ 0 ∈ p.hoops)⟩, ⟨_, rfl, due, rfl⟩,
    ⟨_, rfl, due, by decide, by decide, by decide⟩,
    ⟨_, rfl, due, by decide, by decide⟩, _, rfl, due, by decide⟩

/-- An entry of core 0 with byte 3 of a line, of the placed wave. -/
def wcb0 (line : Nat) (hand : Bool := false) : WcbEntry :=
  { dev := 0, core := 0, part := 1, line, bytes := [{ off := 3, val := 7, wave := 4, hand }], born := 0 }
def part1 : Part :=
  { dev := 0, num := 1, hoops := List.range 64, domain := 0, nextDomain := none, ageing := 2000, sliceNs := 4000000, running := 1,
    sliceFrom := 0, hbmBytes := 0, lentBytes := 0, attest := 0 }
def buffered (t line : Nat) (e : Event) : State := at' (atTime t { placed with wcb := [wcb0 line], parts := [part1] }) e

theorem witness_WriteCombining :
    (∀ n ∈ [249, 250, 64000, 64001], ∃ s, s = at' placed (.setAgeingTimer 0 1 n) ∧ s.Due (.setAgeingTimer 0 1 n)) ∧
    (∀ n ∈ [1999, 2000], ∃ s, s = buffered n 0x20000 (.wcbAgeingExpire 0 0 0x20000) ∧ s.Due (.wcbAgeingExpire 0 0 0x20000) ∧ s.wcb = [wcb0 0x20000] ∧
      s.parts = [part1] ∧ part1.dev = (wcb0 0x20000).dev ∧ (wcb0 0x20000).core / 8 ∈ part1.hoops ∧ s.drainRefusal (wcb0 0x20000) = none ∧
      ((wcb0 0x20000).bytes.map (·.off)).Nodup ∧ s.MemWf ∧ s.time 0 = n) ∧
    (∀ x ∈ [(0, false), (0x20000, false), (0x20000, true)], ∃ s w, s = buffered 0 x.1 (.wcbDrainRefused 0 0 x.1 x.2) ∧ s.Due (.wcbDrainRefused 0 0 x.1 x.2) ∧
      s.wcb = [wcb0 x.1] ∧ s.waves = [w] ∧ w.uid = 4 ∧ w.st = .resident ∧ (wcb0 x.1).bytes ≠ [] ∧ (∀ b ∈ (wcb0 x.1).bytes, b.wave = w.uid) ∧
      s.reachable 0 (x.1 / 2 ^ 43) = true) ∧
    (buffered 0 0 (.wcbDrainRefused 0 0 0 false)).frameOk 0 1 0 false = false ∧
    (buffered 0 0 (.wcbDrainRefused 0 0 0x20000 false)).frameOk 0 1 0x20000 false = true ∧
    (buffered 0 0 (.wcbDrainRefused 0 0 0x20000 true)).lineTornDown 0x20000 = false ∧
    ({ placed with funcs := placed.funcs.map fun (f : Func) => { f with draining := true } } : State).lineTornDown 0x20000 = true := by
  refine ⟨fun n _ => ⟨_, rfl, due⟩, ?_, ?_, by decide, by decide, by decide, by decide⟩
  · intro n _; exact ⟨_, rfl, due, rfl, rfl, rfl, (by decide : 0 ∈ List.range 64), (by decide +kernel : (buffered 0 0x20000 (.wcbAgeingExpire 0 0 0x20000)).drainRefusal (wcb0 0x20000) = none), (by decide : ([3] : List Nat).Nodup), rfl, rfl⟩
  · intro x _; exact ⟨_, _, rfl, due, rfl, rfl, rfl, rfl, List.cons_ne_nil _ _, by intro b hb; cases List.mem_singleton.1 hb; rfl, by
      simp only [List.mem_cons, List.not_mem_nil, or_false] at *; rcases ‹_ ∨ _ ∨ _› with rfl | rfl | rfl <;> decide⟩

/-- A partition's bucket at a port. -/
def bucket0 (part queued window : Nat) : Bucket := { dev := 0, port := 5, part, alloc := 600, tokens := 1, lendable := 0, queue := if queued = 0 then [] else [(9, queued)], window }

/-- The placed wave in window 5 of its device, with two buckets. -/
def windowed (x y : Bucket) (e : Event) : State := at' (atTime 5000 { placed with buckets := [x, y] }) e

theorem witness_TokenBuckets :
    (∀ n ∈ [786, 787], ∃ s, s = at' { placed with buckets := [bucket0 1 0 0, bucket0 2 0 0] } (.tokenAllocation 0 5 1 n) ∧
      s.Due (.tokenAllocation 0 5 1 n) ∧
      ((s.buckets.filter fun b => b.dev == 0 && b.port == 5 && b.part != 1 && b.part != 0).map (·.alloc)).sum = 600) ∧
    (∀ n ∈ [600, 601], ∃ s, s = at' { placed with buckets := [bucket0 1 0 0] } (.contextBucket 1 5 n) ∧ s.Due (.contextBucket bootCtx.uid 5 n) ∧
      s.ctxs = [bootCtx] ∧ s.buckets = [bucket0 1 0 0] ∧ (bucket0 1 0 0).dev = bootCtx.dev ∧ (bucket0 1 0 0).part = bootCtx.part) ∧
    (∀ x ∈ [(5, 0), (4, 0), (4, 603)], ∃ s, s = windowed (bucket0 1 0 x.1) (bucket0 2 x.2 x.1) (.tokenWindowRefill 0 5) ∧
      s.Due (.tokenWindowRefill 0 5) ∧ s.buckets = [bucket0 1 0 x.1, bucket0 2 x.2 x.1] ∧ s.time 0 = 5000 ∧ s.ctx? 9 = none) ∧
    ∃ s, s = { placed with buckets := [bucket0 1 0 0] } ∧ s.bucket? 0 5 1 = some (bucket0 1 0 0) ∧ (∀ x ∈ s.buckets, x.queue = []) ∧
      1 ≤ (bucket0 1 0 0).tokens ∧ ∃ c, s.ctx? 1 = some c ∧ c.buckets.find? (·.1 == 5) = none :=
  ⟨fun _ _ => ⟨_, rfl, due, rfl⟩, fun _ _ => ⟨_, rfl, due, rfl, rfl, rfl, rfl⟩, fun _ _ => ⟨_, rfl, due, rfl, rfl, rfl⟩,
    _, rfl, by decide, by decide, by decide, _, rfl, rfl⟩

/-- The function of the placed context. -/
def func1 : Func :=
  { dev := 0, num := 1, part := 1, root2 := 0, records := [], slots := [], signals := [], errors := 0, answer := [], draining := false, drainFrom := 0,
    tornDown := false }
def granted : WinEntry := { va := 0x80000, grant := { dev := 0, addr := 0x20000, size := 65536, w := true }, granted := false }

theorem witness_PortRequests :
    (∀ x ∈ [(0, 0), (1, 0), (4096, 0), (4097, 0), (1, 1)], ∃ s, s = at' placed (.launchPortCreate 1 x.1 x.2) ∧ s.Due (.launchPortCreate bootCtx.uid x.1 x.2) ∧
      s.ctx? bootCtx.uid = some bootCtx ∧ s.func? 0 1 = some func1 ∧ bootCtx.st ≠ .dead ∧ bootCtx.st ≠ .terminating ∧ s.sliceFull bootCtx = false ∧
      bootCtx.ceiling = 0 ∧ bootCtx.quotaUsed + 128 * 4096 ≤ bootCtx.quota) ∧
    (∀ n ∈ [4095, 4096], ∃ s, s = at' { placed with ports := [port0] } (.portWindowPlace 0 1 n 20) ∧ s.Due (.portWindowPlace func1.dev func1.num n port0.uid) ∧
      s.port? port0.uid = some port0 ∧ s.ctx? port0.ctx = some bootCtx ∧ s.func? 0 1 = some func1 ∧ bootCtx.dev = func1.dev ∧ bootCtx.func = func1.num) ∧
    (∀ n ∈ [63, 64], ∃ s, s = at' { placed with ports := [port0] } (.msixBind 0 1 20 n) ∧ s.Due (.msixBind func1.dev func1.num port0.uid n) ∧
      s.port? port0.uid = some port0 ∧ s.ctx? port0.ctx = some bootCtx ∧ s.func? 0 1 = some func1) ∧
    ∀ v ∈ [(0x7FFFF : Word), 0x80000, 0x8FFFF, 0x90000], ∃ s p, s = at' { placed with ports := [p] } (.windowUnmap 20 v) ∧ s.Due (.windowUnmap p.uid v) ∧
      p = { port0 with winBase := 0x80000, winSize := 65536, window := [granted] } ∧ s.port? p.uid = some p ∧ p.window = [granted] := by
  refine ⟨?_, ?_, ?_, ?_⟩ <;> intro x _
  · exact ⟨_, rfl, due, rfl, rfl, by decide, by decide, (by decide : placed.sliceFull bootCtx = false), rfl, by decide⟩
  · exact ⟨_, rfl, due, rfl, rfl, rfl, rfl, rfl⟩
  · exact ⟨_, rfl, due, rfl, rfl, rfl⟩
  · exact ⟨_, _, rfl, due, rfl, rfl, rfl⟩

theorem witness_ContextSettings :
    (∀ n ∈ [249999, 250000, 64000000, 64000001], ∃ s, s = at' { placed with parts := [part1] } (.setTimeSlice 0 1 n) ∧ s.Due (.setTimeSlice 0 1 n) ∧
      s.part? 0 1 = some part1 ∧ s.func? 0 part1.running = some func1) ∧
    ∀ n ∈ [0, 1, 4095, 4096], ∃ s, s = at' placed (.setMigrationThreshold 1 n none) ∧ s.Due (.setMigrationThreshold bootCtx.uid n none) ∧
      s.ctx? bootCtx.uid = some bootCtx ∧ s.func? bootCtx.dev bootCtx.func = some func1 :=
  ⟨fun _ _ => ⟨_, rfl, due, rfl, rfl⟩, fun _ _ => ⟨_, rfl, due, rfl, rfl⟩⟩

/-! ## Witnesses: the rim and the host links -/

theorem witness_Flits : 2 ^ 128 - 1 < 2 ^ 128 ∧ (List.replicate 128 (255 : Byte)).length ≤ 128 ∧ ([] : List Byte).length ≤ 128 :=
  ⟨by decide, Nat.le_of_eq List.length_replicate, by decide⟩

/-- An up port 3 of the device, to device 1. -/
def rim0 (st : RimState) : RimPort :=
  { dev := 0, port := 3, peer := 1, isY := false, st, lseq := 0, expect := 7, replay := [], errors := 0, fails := 15, resync := false, since := 5,
    slots := [], again := false, full := false }

/-- A header of KIND `kind`, to device 0 from device 1, of group 1, with tag 9. -/
def header0 (kind len addr : Nat) : Nat := kind * 2 ^ 124 + 1 * 2 ^ 108 + 1 * 2 ^ 103 + 9 * 2 ^ 80 + len * 2 ^ 72 + addr
def rimmed (p : RimPort) (e : Event) (s : State := placed) : State := at' { s with rimPorts := [p] } e

/-- Its far end, port 3 of device 1. -/
def rim1 (st : RimState) : RimPort := { rim0 st with dev := 1, peer := 0 }

/-- The placed machine with a port of device 0, those of `rest`, and device 1 where `two`. -/
def linked (two : Bool) (p : RimPort) (rest : List RimPort) (e : Event) : State :=
  at' { placed with rimPorts := p :: rest, devs := placed.devs ++ if two then placed.devs.map fun d => { d with id := 1 } else [] } e

theorem witness_FlitReceipt :
    (∃ s, s = rimmed (rim0 .up) (.flitReceive 0 3 []) ∧ s.Due (.flitReceive (rim0 .up).dev (rim0 .up).port []) ∧
      s.rimPort? (rim0 .up).dev (rim0 .up).port = some (rim0 .up) ∧ (rim0 .up).st = .up ∧ flitOk [] = false ∧ (rim0 .up).resync = false ∧
      (rim0 .up).fails = 15) ∧
    (linked true (rim0 .up) [rim1 .up] (.flitReceive 0 3 [])).farPort (rim0 .up) = some (rim1 .up) ∧
    ∀ n ∈ [(7 : BitVec 12), 8], ∃ s, s = rimmed (rim0 .up) (.flitReceive 0 3 (flitOf (header0 10 0 0) [] n 0)) ∧
      s.Due (.flitReceive 0 3 (flitOf (header0 10 0 0) [] n 0)) ∧ s.rimPort? 0 3 = some (rim0 .up) ∧ s.packets = [] ∧ (rim0 .up).replay = [] ∧
      9 < hKIND (flitHeader (flitOf (header0 10 0 0) [] n 0)) ∧ flitLseq (flitOf (header0 10 0 0) [] n 0) = n := by
  refine ⟨⟨_, rfl, due, rfl, rfl, by decide, rfl, rfl⟩, by decide, ?_⟩
  intro n h
  rcases List.mem_cons.1 h with rfl | h
  · exact ⟨_, rfl, due, rfl, rfl, rfl, by decide +kernel, by decide +kernel⟩
  · cases List.mem_singleton.1 h
    exact ⟨_, rfl, due, rfl, rfl, rfl, by decide +kernel, by decide +kernel⟩

/-- An outstanding request of the placed wave. -/
def req0 (dst : Nat) : RimReq := { dev := 0, tag := 9, dst, core := 0, lines := [], wave := 4, copy := 0, census := 0, issued := 0 }

theorem witness_FlitDelivery :
    (∃ s, s = rimmed (rim0 .up) (.flitReceive 0 3 (flitOf (header0 1 1 0x20000) (.replicate 8 5) 7 0)) ∧ header0 1 1 0x20000 < 2 ^ 128 ∧
      (List.replicate 8 (5 : Byte)).length = 8 * hLEN (header0 1 1 0x20000) ∧
      s.Due (.flitReceive (rim0 .up).dev (rim0 .up).port (flitOf (header0 1 1 0x20000) (.replicate 8 5) (rim0 .up).expect 0)) ∧
      s.rimPort? 0 3 = some (rim0 .up) ∧ s.packets = [] ∧ s.MemWf ∧ hKIND (header0 1 1 0x20000) = 1 ∧ hDST (header0 1 1 0x20000) = (rim0 .up).dev ∧
      bitAt (header0 1 1 0x20000) 99 = false) ∧
    ∃ s, s = rimmed (rim0 .up) (.flitReceive 0 3 (flitOf (header0 4 1 0) [] 7 0)) { placed with rimReqs := [req0 1] } ∧ header0 4 1 0 < 2 ^ 128 ∧
      s.Due (.flitReceive (rim0 .up).dev (rim0 .up).port (flitOf (header0 4 1 0) [] (rim0 .up).expect 0)) ∧ s.rimPort? 0 3 = some (rim0 .up) ∧
      s.packets = [] ∧ hKIND (header0 4 1 0) = 4 ∧ hDST (header0 4 1 0) = (rim0 .up).dev ∧ bitAt (header0 4 1 0) 99 = false ∧ hLEN (header0 4 1 0) = 1 ∧
      s.rimReqs = [req0 1] ∧ (req0 1).dev = (rim0 .up).dev ∧ (req0 1).tag = hTAG (header0 4 1 0) :=
  ⟨⟨_, rfl, by decide, by decide, due, rfl, rfl, rfl, by decide, by decide, by decide⟩,
    _, rfl, by decide, due, rfl, rfl, by decide, by decide, by decide, by decide, rfl, rfl, by decide⟩

/-- The device of the placed wave. -/
def dev0 : Dev := { Dev.reset 0 with stage := .full, dies := List.range 8 }
def podOf (w h : Nat) (s : State) : State := { s with podW := w, podH := h }

theorem witness_RimPortLife :
    (∀ n ∈ [31, 32], ∃ s, s = at' placed (.portMapWrite 0 n 1 false) ∧ s.Due (.portMapWrite 0 n 1 false)) ∧
    (∀ w ∈ [1, 2], ∀ b ∈ [false, true], ∀ l ∈ [[rim0 .training], [rim0 .training, rim1 .training]], ∃ s d, s = podOf w 1 (linked b { rim0 .training with again := b && w == 2 } l.tail (.rimLinkTrained 0 3)) ∧
      s.Due (.rimLinkTrained 0 3) ∧ s.rimPort? 0 3 = some { rim0 .training with again := b && w == 2 } ∧ s.dev? 0 = some d ∧ d.stage = .full ∧ d.parked = false ∧
      d.iodError = false ∧ s.podW = w ∧ s.podH = 1 ∧ s.time 0 = 0 ∧ (rim0 .training).full = false ∧ (rim0 .training).peer = 1 ∧
      s.accepts 0 (.rimPort 3) s.free = false) ∧
    (∃ s, s = podOf 2 1 (linked false (rim0 .training) [] (.rimLinkTrained 0 3)) ∧ s.peerReady (rim0 .training) false = true) ∧
    (∃ s, s = podOf 2 1 (linked true (rim0 .training) [] (.rimLinkTrained 0 3)) ∧ s.peerReady (rim0 .training) false = false) ∧
    (∃ s, s = podOf 2 1 (linked true (rim0 .training) [rim1 .training] (.rimLinkTrained 0 3)) ∧ s.peerReady (rim0 .training) false = true ∧
      s.farPort (rim0 .training) = some (rim1 .training) ∧ s.rimPort? 1 3 = some (rim1 .training)) ∧
    (∃ s, s = rimmed { rim0 .training with full := true } (.rimLinkTrained 0 3) ∧ s.Due (.rimLinkTrained 0 3) ∧
      s.rimPort? 0 3 = some { rim0 .training with full := true } ∧ s.dev? 0 = some dev0) ∧
    (∀ n ∈ [10000004, 10000005], ∀ b ∈ [false, true], ∃ s p, s = atTime n (linked true p [rim1 .training] (.portDown 0 3)) ∧ p = { rim0 .training with again := b } ∧
      s.Due (.portDown p.dev p.port) ∧ s.rimPort? 0 3 = some p ∧ s.packets = [] ∧ s.time 0 = n ∧ p.replay = [] ∧ p.peer ≠ p.dev ∧
      s.farPort p = some (rim1 .training) ∧ s.rimPort? 1 3 = some (rim1 .training)) ∧
    ∀ st ∈ [RimState.down, .up], ∃ s d, s = linked true (rim0 st) [rim1 .down] (.portRetrainRequest 0 3) ∧ s.Due (.portRetrainRequest (rim0 st).dev (rim0 st).port) ∧
      s.rimPort? 0 3 = some (rim0 st) ∧ s.dev? 0 = some d ∧ d.stage = .full ∧ d.parked = false ∧ d.iodError = false ∧ (rim0 st).peer ≠ (rim0 st).dev ∧
      s.farPort (rim0 st) = some (rim1 .down) ∧ ∃ e, s.dev? 1 = some e ∧ e.stage = .full ∧ e.parked = false ∧ e.iodError = false := by
  refine ⟨?_, ?_, ⟨_, rfl, by decide⟩, ⟨_, rfl, by decide⟩, ⟨_, rfl, by decide, by decide, rfl⟩, ⟨_, rfl, due, rfl, rfl⟩, ?_, ?_⟩
  · intro x _; exact ⟨_, rfl, due⟩
  · intro w _ b hb l hl
    rcases List.mem_cons.1 hb with rfl | hb
    · exact ⟨_, _, rfl, ⟨rfl, rfl, rfl⟩, rfl, rfl, rfl, rfl, rfl, rfl, rfl, rfl, rfl, rfl, rfl⟩
    · cases List.mem_singleton.1 hb
      exact ⟨_, _, rfl, ⟨rfl, rfl, rfl⟩, rfl, rfl, rfl, rfl, rfl, rfl, rfl, rfl, rfl, rfl, rfl⟩
  · intro n _ b hb
    rcases List.mem_cons.1 hb with rfl | hb
    · exact ⟨_, _, rfl, rfl, ⟨rfl, rfl, rfl⟩, rfl, rfl, rfl, rfl, by decide, rfl, rfl⟩
    · cases List.mem_singleton.1 hb
      exact ⟨_, _, rfl, rfl, ⟨rfl, rfl, rfl⟩, rfl, rfl, rfl, rfl, by decide, rfl, rfl⟩
  · intro st hs
    rcases List.mem_cons.1 hs with rfl | hs
    · exact ⟨_, _, rfl, due, rfl, rfl, rfl, rfl, rfl, by decide, rfl, _, rfl, rfl, rfl, rfl⟩
    · cases List.mem_singleton.1 hs
      exact ⟨_, _, rfl, due, rfl, rfl, rfl, rfl, rfl, by decide, rfl, _, rfl, rfl, rfl, rfl⟩

theorem witness_Routes : portsTo [rim0 .up] 0 1 (decide (hDST (1 * 2 ^ 116) % 16 = 0 % 16)) = [3] ∧ hDST (1 * 2 ^ 116) = 1 ∧
    portsTo [{ rim0 .up with peer := 16, isY := true }] 0 16 (decide (hDST (16 * 2 ^ 116) % 16 = 0 % 16)) = [3] ∧ hDST (16 * 2 ^ 116) = 16 := by decide

theorem witness_RimRequests :
    (∀ x ∈ [(0, 0), (1, 999999), (1, 1000000)], ∃ s w, s = at' (atTime x.2 { placed with rimReqs := [req0 x.1] }) (.requestTimeout 0 9) ∧
      s.Due (.requestTimeout (req0 x.1).dev (req0 x.1).tag) ∧ s.rimReqs = [req0 x.1] ∧ s.waves = [w] ∧ w.uid ≠ 0 ∧ (req0 x.1).wave = w.uid ∧ s.copies = [] ∧
      s.time 0 = x.2) ∧ (∀ d ∈ [0, 1], (placed.reachable 0 d = true ↔ d = 0)) ∧
    (∀ d ∈ [0, 1], ∃ s, s = at' { placed with rimReqs := [req0 d] } (.holdResponse 0 9) ∧ s.Due (.holdResponse (req0 d).dev (req0 d).tag) ∧
      s.rimReqs = [req0 d] ∧ s.holderDrains (req0 d) = false) ∧
    ∃ s, s = at' { placed with rimReqs := [{ req0 0 with copy := 30 }], copies := [{ (default : Copy) with uid := 30, peerWait := some (50, 0, false) }] } (.holdResponse 0 9) ∧
      s.Due (.holdResponse 0 9) ∧ s.reachable 0 0 = true ∧ s.holderDrains { req0 0 with copy := 30 } = false ∧
      ({ s with ctxs := [{ bootCtx with uid := 50, st := .dead }] } : State).holderDrains { req0 0 with copy := 30 } = true := by
  refine ⟨?_, by decide, ?_, _, rfl, due, by decide, by decide, by decide⟩ <;> intro x _
  · exact ⟨_, _, rfl, due, rfl, rfl, by decide, rfl, rfl, rfl⟩
  · exact ⟨_, rfl, due, rfl, rfl⟩

/-- The device with a range of the host over the frames 2 and 3 of partition 1. -/
def hdmDev : Dev := { dev0 with hdm := [(19, 1, 0x20000, 0x20000)] }

theorem witness_HostMemory :
    (∀ n ∈ [19, 20], ∃ s, s = at' placed (.hdmRange 0 n 1 0 65536) ∧ s.Due (.hdmRange dev0.id n 1 0 65536) ∧ s.dev? dev0.id = some dev0) ∧
    (∀ x ∈ [(0x20000, none), (0x3FFFF, some [(5 : Byte)]), (0x40000, some [5])], ∃ s, s = at' { placed with devs := [hdmDev] } (.hostCxlMemAccess 0 19 x.1 1 x.2) ∧
      s.Due (.hostCxlMemAccess hdmDev.id 19 x.1 1 x.2) ∧ s.dev? hdmDev.id = some hdmDev ∧
      hdmDev.hdm.find? (·.1 == 19) = some (19, 1, 0x20000, 0x20000) ∧ s.MemWf ∧ hdmDev.stage = .full ∧ hdmDev.parked = false) ∧
    (∀ i < 1, placed.frameCode 0 ((0x3FFFF + i) / 65536) = .ofNat 8 1) ∧
    ∀ x ∈ [(2 ^ 51 - 1, [5]), (2 ^ 51, [5]), (0, ([] : List Byte))], ∃ s, s = at' placed (.hostSnoop 0 x.1 x.2) ∧ s.Due (.hostSnoop 0 x.1 x.2) ∧ s.MemWf := by
  refine ⟨?_, ?_, by decide, ?_⟩ <;> intro x _
  · exact ⟨_, rfl, due, rfl⟩
  · exact ⟨_, rfl, due, rfl, rfl, rfl, rfl, rfl⟩
  · exact ⟨_, rfl, due, rfl⟩

/-- The function with a port in slot 2. -/
def slotFunc : Func := { func1 with slots := [(2, 20)] }
def slotted (p : Port) (e : Event) : State := at' { placed with ports := [p], funcs := [slotFunc] } e

theorem witness_HostWrites : ∀ p ∈ [port0, { port0 with queue := .replicate 4 msg0, drops := 511 }, { port0 with launch := true }],
    ∀ n ∈ [8, 16], ∃ s, (s = slotted p (.hostPortWrite 0 1 2 (.replicate n 0)) ∧ s.Due (.hostPortWrite slotFunc.dev slotFunc.num 2 (.replicate n 0)) ∨
        s = slotted p (.hostLaunchWrite 0 1 2 (.replicate n 0)) ∧ s.Due (.hostLaunchWrite slotFunc.dev slotFunc.num 2 (.replicate n 0))) ∧
      s.func? slotFunc.dev slotFunc.num = some slotFunc ∧ slotFunc.draining = false ∧ slotFunc.tornDown = false ∧
      slotFunc.slots.find? (·.1 == 2) = some (2, 20) ∧ p.uid = 20 ∧ s.port? 20 = some p ∧ s.dev? slotFunc.dev = some dev0 ∧ s.shut p = false := by
  intro p hp n hn
  have hp' : p.uid = 20 := by
    rcases List.mem_cons.1 hp with rfl | hp
    · rfl
    rcases List.mem_cons.1 hp with rfl | hp
    · rfl
    cases List.mem_singleton.1 hp; rfl
  rcases List.mem_cons.1 hn with rfl | hn
  · refine ⟨slotted p (.hostPortWrite 0 1 2 (.replicate 8 0)), .inl ⟨rfl, due⟩, rfl, rfl, rfl, rfl, hp', ?_, rfl, ?_⟩ <;>
      (rcases List.mem_cons.1 hp with rfl | hp; rotate_left; rcases List.mem_cons.1 hp with rfl | hp; rotate_left; cases List.mem_singleton.1 hp) <;> rfl
  · cases List.mem_singleton.1 hn
    refine ⟨slotted p (.hostLaunchWrite 0 1 2 (.replicate 16 0)), .inr ⟨rfl, due⟩, rfl, rfl, rfl, rfl, hp', ?_, rfl, ?_⟩ <;>
      (rcases List.mem_cons.1 hp with rfl | hp; rotate_left; rcases List.mem_cons.1 hp with rfl | hp; rotate_left; cases List.mem_singleton.1 hp) <;> rfl

theorem witness_HostReads : ∀ x ∈ [([msg0], 64), ([msg0, msg0], 64), ([], 64), ([msg0], 32)], ∃ s p, s = slotted p (.hostPortRead 0 1 2 x.2) ∧
    p = { port0 with queue := x.1 } ∧ s.Due (.hostPortRead slotFunc.dev slotFunc.num 2 x.2) ∧ s.func? slotFunc.dev slotFunc.num = some slotFunc ∧
    slotFunc.slots.find? (·.1 == 2) = some (2, p.uid) ∧ s.port? p.uid = some p ∧ s.dev? slotFunc.dev = some dev0 ∧ dev0.parked = false ∧
    p.st = .opened ∧ p.launch = false ∧ msg0.grants = [] ∧ msg0.reply = none ∧ msg0.via = none := by
  intro x _
  exact ⟨_, _, rfl, rfl, due, rfl, rfl, rfl, rfl, rfl, rfl, rfl, rfl, rfl, rfl⟩

/-- A packet at the device's router. -/
def packet0 : Packet := { dev := 0, header := 0, payload := [1], port := none, input := none }

theorem witness_Measurement :
    (∀ n ∈ [1, 2], ∃ s, s = at' { placed with parts := [part1] } (.spdmRequest 0 n) ∧ s.Due (.spdmRequest dev0.id n) ∧ s.dev? dev0.id = some dev0 ∧
      s.part? dev0.id 1 = some part1) ∧
    ∃ s w, s = at' { placed with rimReqs := [req0 1], packets := [packet0], rimPorts := [{ rim0 .up with replay := [flitOf 0 [] 8 0] }] }
        (.iodUncorrectableError 0) ∧ s.Due (.iodUncorrectableError dev0.id) ∧
      (∃ p ∈ s.rimPorts, p.dev = dev0.id ∧ s.inFlight p = [flitOf 0 [] 8 0]) ∧ s.dev? dev0.id = some dev0 ∧ s.rimReqs = [req0 1] ∧ (req0 1).dev = dev0.id ∧ s.waves = [w] ∧ w.uid ≠ 0 ∧ (req0 1).wave = w.uid ∧
      (req0 1).census = 0 ∧ s.copies = [] ∧ s.packets[0]? = some packet0 ∧ packet0.dev = dev0.id :=
  ⟨fun _ _ => ⟨_, rfl, due, rfl, rfl⟩, _, _, rfl, due, ⟨_, List.mem_singleton.2 rfl, rfl, rfl⟩, rfl, rfl, rfl, rfl, by decide, rfl, rfl, rfl, rfl, rfl⟩


/-! ## Witnesses: what system software does to contexts, pages and partitions -/

def spec0 : ContextSpec :=
  { func := 1, svc := false, slice := 64, quota := 4096, launchCeiling := 7, root1 := 0x800, spillBase := 0x1000, slotSize := 1048576, slotCount := 1, bySvc := 0 }

theorem witness_ContextBirth : ∀ x ∈ [spec0, { spec0 with slice := 63 }, { spec0 with slice := 1048576 - 64 }, { spec0 with slice := 1048576 },
      { spec0 with launchCeiling := 8 }, { spec0 with root1 := 0x400 }, { spec0 with svc := true }, { spec0 with svc := true, bySvc := 1 }],
    ∃ s, s = at' placed (.contextCreate 0 x) ∧ s.Due (.contextCreate 0 x) ∧ x.func = 1 ∧ s.func? 0 1 = some func1 ∧ func1.draining = false ∧
      func1.tornDown = false ∧ func1.part ≠ 0 ∧ (s.ctxs.filter fun c => c.dev == 0 && c.st != .dead) = [bootCtx] := by
  intro x h
  have hf : x.func = 1 := by revert x; decide
  exact ⟨_, rfl, due, hf, rfl, rfl, rfl, by decide, rfl⟩

/-- The placed context in a state. -/
def ctxIn (st : CtxState) : Ctx := { bootCtx with st, before := .runnable }
def ctxAt (st : CtxState) (e : Event) (s : State := placed) : State := at' { s with ctxs := [ctxIn st] } e

theorem witness_ContextRuns :
    (∀ x ∈ [(CtxState.loaded, 1), (.loaded, 255), (.loaded, 0), (.loaded, 256), (.created, 1)], ∃ s, s = ctxAt x.1 (.contextEnable 1 x.2) ∧
      s.Due (.contextEnable (ctxIn x.1).uid x.2) ∧ s.ctx? 1 = some (ctxIn x.1) ∧ s.func? 0 1 = some func1) ∧
    (∀ st ∈ [CtxState.runnable, .active, .loaded], ∃ s, s = ctxAt st (.contextPark 1) ∧ s.Due (.contextPark (ctxIn st).uid) ∧ s.ctx? 1 = some (ctxIn st) ∧
      s.wcb = [] ∧ s.jointOps = [] ∧ s.copies = [] ∧ (∀ x ∈ s.clusters, ∀ y ∈ s.clusters, x.uid = y.uid → x = y) ∧
      (∃ k ∈ s.clusters, k.ctx = 1 ∧ k.st = .placed) ∧ ∃ w ∈ s.waves, w.team = 2 ∧ w.st.onCore = true) ∧
    ∀ st ∈ [CtxState.parked, .runnable], ∃ s, s = ctxAt st (.contextResume 1) { placed with clusters := [], waves := [] } ∧
      s.Due (.contextResume (ctxIn st).uid) ∧ s.ctx? 1 = some (ctxIn st) ∧ s.clusters = [] ∧ s.waves = [] ∧ (ctxIn st).before = .runnable ∧
      (ctxIn st).deviceParked = false ∧ s.copiesRun 1 = false := by
  have one : ∀ x ∈ [bootCluster], ∀ y ∈ [bootCluster], x.uid = y.uid → x = y :=
    fun x hx y hy _ => (List.mem_singleton.1 hx).trans (List.mem_singleton.1 hy).symm
  refine ⟨?_, ?_, ?_⟩ <;> intro x _
  · exact ⟨_, rfl, due, rfl, rfl⟩
  · exact ⟨_, rfl, due, rfl, rfl, rfl, rfl, one, ⟨_, List.mem_singleton.2 rfl, rfl, rfl⟩, ⟨_, List.mem_singleton.2 rfl, rfl, rfl⟩⟩
  · exact ⟨_, rfl, ⟨rfl, rfl, rfl⟩, rfl, rfl, rfl, rfl, rfl, rfl⟩

/-- The context faulted by its wave, which is saved. -/
def faulted : State := ctxAt .faulted (.contextRelease 1) { waveWith (fun w => { w with st := .parked }) with cp := .blank }

theorem witness_ContextEnds :
    (∃ s, s = at' placed (.contextTerminate 1) ∧ s.Due (.contextTerminate bootCtx.uid) ∧ s.ctx? bootCtx.uid = some bootCtx ∧ bootCtx.st ≠ .terminating ∧
      bootCtx.st ≠ .dead ∧ s.wcb = [] ∧ s.copies = [] ∧ s.UidsGiven ∧ (∀ x ∈ s.ctxs, ∀ y ∈ s.ctxs, x.uid = y.uid → x = y)) ∧
    (∃ s w, s = at' { placed with waves := placed.waves ++ [w], ctxs := placed.ctxs ++ [{ bootCtx with uid := 6 }] } (.contextTerminate 1) ∧
      s.Due (.contextTerminate bootCtx.uid) ∧ s.ctx? bootCtx.uid = some bootCtx ∧ s.latch = [] ∧ w ∈ s.waves ∧ w.ctx ≠ bootCtx.uid ∧ w.st = .resident ∧ s.UidsGiven ∧
      ∀ x ∈ s.ctxs, ∀ y ∈ s.ctxs, x.uid = y.uid → x = y) ∧
    (∃ s c w, s = at' { placed with ctxs := [c] } (.contextRelease 1) ∧ c = { ctxIn .faulted with faulting := 4 } ∧ s.Due (.contextRelease c.uid) ∧
      s.ctx? c.uid = some c ∧ c.st = .faulted ∧ s.wave? c.faulting = some w ∧ w.st ≠ .exited ∧ w.ctx = c.uid ∧ w.uid = 4 ∧
      ∀ v ∈ s.waves, v.ctx = c.uid → v.uid ≠ 4 → v.st = .parked) ∧
    ∃ s, s = at' placed (.contextRelease 1) ∧ s.Due (.contextRelease bootCtx.uid) ∧ s.ctx? bootCtx.uid = some bootCtx ∧ bootCtx.st ≠ .faulted := by
  have one : ∀ x ∈ [bootCtx], ∀ y ∈ [bootCtx], x.uid = y.uid → x = y :=
    fun x hx y hy _ => (List.mem_singleton.1 hx).trans (List.mem_singleton.1 hy).symm
  refine ⟨⟨_, rfl, due, rfl, by decide, by decide, rfl, rfl, by constructor <;> decide, one⟩,
    ⟨_, { bootWave false with uid := 7, ctx := 6 }, rfl, due, rfl, rfl, List.mem_cons_of_mem _ (List.mem_singleton.2 rfl), by decide, rfl, by constructor <;> decide, by decide⟩,
    ⟨_, _, _, rfl, rfl, due, rfl, rfl, rfl, by decide, rfl, rfl, ?_⟩,
    _, rfl, due, rfl, by decide⟩
  intro v hv _ h
  cases List.mem_singleton.1 hv
  exact absurd rfl h

/-- A wave that waits for the page 0x3000. -/
def pageWaiter (e : Event) : State := at' (waveWith fun w => { w with st := .waiting, pageWait := some 0x3008 }) e

theorem witness_PageAnswers : (∃ s w, s = pageWaiter (.pageReady 1 0x3FFF) ∧ s.Due (.pageReady bootCtx.uid 0x3FFF) ∧ s.ctx? bootCtx.uid = some bootCtx ∧
      s.waves[0]? = some w ∧ w.ctx = 1 ∧ w.pageWait = some 0x3008 ∧ (0x3008 : Word).toNat / 4096 = (0x3FFF : Word).toNat / 4096 ∧
      placed.leavesAt 1 0x3FFF = { ctx := 1, wave := 0, page := 0, size := 2 ^ 30, ia := 0, size2 := 2 ^ 30 }) ∧
    (∃ s w, s = pageWaiter (.pageRefused 1 0x3000) ∧ s.Due (.pageRefused bootCtx.uid 0x3000) ∧ s.waves[0]? = some w ∧ w.ctx = 1 ∧ w.pageWait = some 0x3008 ∧
      (0x3008 : Word).toNat / 4096 = (0x3000 : Word).toNat / 4096) ∧
    (∃ s, s = pageWaiter (.pageRefused 1 0x4000) ∧ s.Due (.pageRefused bootCtx.uid 0x4000) ∧ s.ctx? bootCtx.uid = some bootCtx ∧
      (0x3008 : Word).toNat / 4096 ≠ (0x4000 : Word).toNat / 4096) ∧
    ∃ s, s = at' { placed with holds := [heldPage] } (.holdReport 1) ∧ s.Due (.holdReport bootCtx.uid) ∧ s.ctx? bootCtx.uid = some bootCtx ∧
      s.func? bootCtx.dev bootCtx.func = some func1 :=
  ⟨⟨_, _, rfl, due, rfl, rfl, rfl, rfl, by decide, by decide +kernel⟩, ⟨_, _, rfl, due, rfl, rfl, rfl, by decide⟩, ⟨_, rfl, due, rfl, by decide⟩, _, rfl, due, rfl, rfl⟩

/-- The partition of the hoops of the first die. -/
def part8 : Part := { part1 with hoops := List.range 8 }
def parted (e : Event) (s : State := placed) : State := at' { s with parts := [part8] } e

theorem witness_PartitionChanges :
    (∀ n ∈ [7, 8, 63, 64], ∃ s, s = parted (.partitionChange 0 1 (.giveHoop n)) ∧ s.Due (.partitionChange part8.dev part8.num (.giveHoop n)) ∧
      s.part? 0 1 = some part8 ∧ s.dev? 0 = some dev0 ∧ dev0.dies = List.range 8 ∧ ∀ f ∈ s.funcs, f.draining = false) ∧
    (∀ n ∈ [0, 7, 8], ∃ s, s = parted (.partitionChange 0 1 (.takeHoop n)) ∧ s.Due (.partitionChange part8.dev part8.num (.takeHoop n)) ∧
      s.part? 0 1 = some part8 ∧ ∃ x ∈ s.teams, x.dev = 0 ∧ x.core / 8 = 0 ∧ s.placedTeam x = true) ∧
    (∃ s, s = parted (.partitionChange 0 1 (.takeFrames 2 1)) ∧ s.Due (.partitionChange 0 1 (.takeFrames 2 1))) ∧
    ∀ n ∈ [0, 1, 255, 256], ∃ s, s = parted (.domainAssign 0 1 n) ∧ s.Due (.domainAssign 0 1 n) := by
  have still : ∀ f ∈ [func1], f.draining = false := by decide
  refine ⟨?_, ?_, ⟨_, rfl, due⟩, fun _ _ => ⟨_, rfl, due⟩⟩ <;> intro n _
  · exact ⟨_, rfl, due, rfl, rfl, rfl, still⟩
  · exact ⟨_, rfl, due, rfl, _, List.mem_singleton.2 rfl, rfl, rfl, rfl⟩

/-- The function as it drains, and its dead context. -/
def drainFunc (draining : Bool) : Func := { func1 with draining }
def tearing (t : Nat) (draining : Bool) (e : Event) : State := at' (atTime t { placed with ctxs := [ctxIn .dead], funcs := [drainFunc draining] }) e

theorem witness_Teardown :
    (∃ s, s = tearing 0 false (.functionTeardown 0 1) ∧ s.Due (.functionTeardown (drainFunc false).dev (drainFunc false).num) ∧
      s.func? 0 1 = some (drainFunc false) ∧ (drainFunc false).tornDown = false ∧ (drainFunc false).draining = false ∧ (drainFunc false).num ≠ 0 ∧
      (drainFunc false).part ≠ 0 ∧ s.ctxs = [ctxIn .dead]) ∧
    (∀ n ∈ [99999, 100000], ∃ s, s = tearing n true (.teardownDrainExpire 0 1) ∧ s.Due (.teardownDrainExpire (drainFunc true).dev (drainFunc true).num) ∧
      s.func? 0 1 = some (drainFunc true) ∧ (drainFunc true).part ≤ 20 ∧ s.ctxs = [ctxIn .dead] ∧ s.time 0 = n ∧ s.lent = [] ∧
      ∃ r ∈ s.owners, r.dev = 0 ∧ r.code = .ofNat 8 1) ∧ (ctxIn .dead).st = .dead := by
  refine ⟨⟨_, rfl, due, rfl, rfl, rfl, by decide, by decide, rfl⟩, ?_, rfl⟩
  intro n _
  exact ⟨_, rfl, due, rfl, by decide, rfl, rfl, rfl, { dev := 0, first := 2, count := 16382, code := 1 }, by exact List.mem_cons_of_mem _ (List.mem_singleton.2 rfl), rfl, rfl⟩

/-! ## Witnesses: start, power, wear, errors and the service cores -/

def devIn (stage : Stage) (dies : List Nat) (trained : List Interface := allInterfaces) : Dev := { Dev.reset 0 with stage, dies, trained }
def pfunc : Func := { func1 with num := 0, part := 0 }
def starting (stage : Stage) (dies : List Nat) (e : Event) : State := at' { State.reset with devs := [devIn stage dies], funcs := [pfunc] } e

/-- The placed wave with the service cores of the root monitor and of housekeeping, their images running or halted. -/
def staffed (running : Bool) : State :=
  { placed with svcCores := [20, 21].map fun core => { dev := 0, core, running, window := [], fault := none, reply := [], records := [] } }

/-- A device that starts, with the root monitor's image running or halted. -/
def joining (dies : List Nat) (running : Bool) (e : Event) : State :=
  at' { State.reset with devs := [devIn .stageB dies], funcs := [pfunc], svcCores := (staffed running).svcCores } e

theorem witness_Start :
    (∀ x ∈ [Stage.off, .stageA], ∃ s, s = starting x [] (.powerGood 0) ∧ s.Due (.powerGood (devIn x []).id) ∧ s.dev? 0 = some (devIn x [])) ∧
    (∀ x ∈ [Stage.stageA, .stageB], ∃ s, s = starting x [] (.startStageB 0 0 0 2 16 16) ∧ s.Due (.startStageB (devIn x []).id 0 0 2 16 16) ∧
      s.dev? 0 = some (devIn x []) ∧ s.func? (devIn x []).id 0 = some pfunc ∧ (devIn x []).iodError = false) ∧
    (∀ i ∈ [Interface.hostLink 0, .hostLink 1] ++ dieInterfaces 0 ++ dieInterfaces 7, i ∈ allInterfaces) ∧
    (∃ s p, s = { joining [0, 1, 2, 3, 4, 5, 6] true (.dieJoin 0 7) with rimPorts := [p] } ∧ s.Due (.dieJoin 0 7) ∧ p.dev = 0 ∧ p.st = .training) ∧
    (∀ b ∈ [true, false], ∀ x ∈ [([0], 0), ([0], 1), ([0, 1], 1), ([0], 7), ([0], 8), ([0, 1, 2, 3, 4, 5, 6], 7)], ∃ s, s = joining x.1 b (.dieJoin 0 x.2) ∧
      s.Due (.dieJoin (devIn .stageB x.1).id x.2) ∧ s.dev? 0 = some (devIn .stageB x.1) ∧ s.func? 0 0 = some pfunc ∧ s.svcRuns 0 20 = b) := by
  refine ⟨?_, ?_, by decide +kernel, ⟨_, rim0 .training, rfl, ⟨rfl, rfl, rfl⟩, rfl, rfl⟩, fun b _ => ?_⟩ <;> intro x _
  · exact ⟨_, rfl, ⟨rfl, rfl, rfl⟩, rfl⟩
  · exact ⟨_, rfl, ⟨rfl, rfl, rfl⟩, rfl, rfl, rfl⟩
  · exact ⟨_, rfl, ⟨rfl, rfl, rfl⟩, rfl, rfl, rfl⟩

theorem witness_Ends :
    (∀ x ∈ [Stage.off, .full], ∃ s, s = starting x [] (.restart 0) ∧ s.Due (.restart (devIn x []).id) ∧ s.dev? 0 = some (devIn x [])) ∧
    (∃ s, s = at' placed (.powerLoss 0) ∧ s.Due (.powerLoss dev0.id) ∧ s.dev? dev0.id = some dev0) ∧
    ∃ s, s = at' placed (.orderlyPowerOff 0) ∧ s.Due (.orderlyPowerOff dev0.id) ∧ s.dev? dev0.id = some dev0 :=
  ⟨fun _ _ => ⟨_, rfl, ⟨rfl, rfl, rfl⟩, rfl⟩, ⟨_, rfl, due, rfl⟩, _, rfl, due, rfl⟩

theorem witness_Wearing :
    (∀ b ∈ [true, false], ∃ s p, s = rimmed p (.fullRetrainComplete 0 (.rimPort 3)) ∧ p = { rim0 .down with full := b } ∧
      s.Due (.fullRetrainComplete dev0.id (.rimPort 3)) ∧ s.dev? dev0.id = some dev0 ∧ dev0.stage ≠ .off ∧ dev0.parked = false ∧ dev0.iodError = false ∧
      s.rimPort? dev0.id 3 = some p ∧ p.full = b) ∧
    (∃ s, s = at' { placed with devs := [{ dev0 with parked := true }] } (.fullRetrainComplete 0 (.hostLink 1)) ∧ s.Due (.fullRetrainComplete dev0.id (.hostLink 1)) ∧
      s.dev? 0 = some { dev0 with parked := true }) ∧
    (∀ b ∈ [true, false], ∃ s, s = at' (staffed b) (.hoursWrite 0) ∧ s.Due (.hoursWrite dev0.id) ∧ s.dev? dev0.id = some dev0 ∧ s.svcRuns 0 21 = b) ∧
    (∀ b ∈ [true, false], ∃ s d, s = at' { staffed b with devs := [d] } (.thermalCycle 0) ∧
      d = { dev0 with wear := { dev0.wear with thermal := BitVec.allOnes 32 } } ∧ s.Due (.thermalCycle d.id) ∧ s.dev? d.id = some d ∧ s.svcRuns 0 21 = b) ∧
    ∃ s, s = at' { placed with funcs := [pfunc] } (.wearCounterRead 0) ∧ s.Due (.wearCounterRead dev0.id) ∧ s.dev? dev0.id = some dev0 ∧
      s.func? dev0.id 0 = some pfunc ∧ dev0.wear.hours = [0, 0, 0, 0, 0] :=
  ⟨fun _ _ => ⟨_, _, rfl, rfl, due, rfl, by decide, rfl, rfl, rfl, rfl⟩, ⟨_, rfl, due, rfl⟩, fun _ _ => ⟨_, rfl, due, rfl, rfl⟩,
    fun _ _ => ⟨_, _, rfl, rfl, due, rfl, rfl⟩, _, rfl, due, rfl, rfl, rfl⟩

theorem witness_Power :
    (∀ n ∈ [3600, 3601], ∃ s, s = at' placed (.setPowerCap 0 n) ∧ s.Due (.setPowerCap dev0.id n) ∧ s.dev? dev0.id = some dev0) ∧
    (∀ b ∈ [true, false], ∀ l ∈ [0, 1], ∀ n ∈ [3599, 3600, 3601], ∃ s d, s = at' { staffed b with devs := [d] } (.powerCapEvaluate 0 n) ∧
      d = { dev0 with withheld := l } ∧ s.Due (.powerCapEvaluate d.id n) ∧ s.dev? d.id = some d ∧ d.cap = 3600 ∧ s.svcRuns 0 21 = b) ∧
    atHandler.cw.level = .handler ∧ { demo.cw with responder := some 1 }.responder.isSome = true ∧
    demo.cw.level = .ordinary ∧ demo.cw.st.onCore = true ∧ demo.cw.responder = none :=
  ⟨fun _ _ => ⟨_, rfl, due, rfl⟩, fun _ _ _ _ _ _ => ⟨_, _, rfl, rfl, due, rfl, rfl, rfl⟩, rfl, rfl, rfl, rfl, rfl⟩

/-- A device with one context and nothing placed, parked or not. -/
def parkDev (parked : Bool) : Dev := { dev0 with parked }
def parking (parked : Bool) (c : Ctx) (e : Event) : State :=
  at' { placed with devs := [parkDev parked], ctxs := [c], clusters := [], teams := [], waves := [] } e

theorem witness_DevicePark :
    (∀ b ∈ [false, true], ∃ s, s = parking b bootCtx (.parkRequest 0) ∧ s.Due (.parkRequest (parkDev b).id) ∧ s.dev? (parkDev b).id = some (parkDev b) ∧
      s.ctxs = [bootCtx] ∧ bootCtx.dev = (parkDev b).id ∧ s.clusters = [] ∧ s.copies = [] ∧ s.wcb = [] ∧ s.trainings = [] ∧ s.rimPorts = [] ∧
      (parkDev b).stage = .full ∧ (parkDev b).iodError = false ∧ bootCtx.st = .active) ∧
    (∃ s c, s = { parking false bootCtx (.parkRequest 0) with copies := [c] } ∧ s.Due (.parkRequest 0) ∧ c.dev = 0 ∧ c.st = .started) ∧
    ∀ x ∈ [(true, true), (true, false), (false, true)], ∃ s c, s = parking x.1 c (.resumeRequest 0) ∧ c = { ctxIn .parked with deviceParked := x.2 } ∧
      s.Due (.resumeRequest (parkDev x.1).id) ∧ s.dev? (parkDev x.1).id = some (parkDev x.1) ∧ s.ctxs = [c] ∧ c.dev = (parkDev x.1).id ∧ s.clusters = [] ∧
      s.waves = [] ∧ s.rimPorts = [] ∧ c.before = .runnable ∧ c.st = .parked := by
  refine ⟨?_, ⟨_, { (default : Copy) with st := .started }, rfl, ⟨rfl, rfl, rfl⟩, rfl, rfl⟩, ?_⟩ <;> intro x _
  · exact ⟨_, rfl, ⟨rfl, rfl, rfl⟩, rfl, rfl, rfl, rfl, rfl, rfl, rfl, rfl, rfl, rfl, rfl⟩
  · exact ⟨_, _, rfl, rfl, ⟨rfl, rfl, rfl⟩, rfl, rfl, rfl, rfl, rfl, rfl, rfl, rfl⟩

theorem witness_Errors :
    (∃ s, s = at' placed (.correctedError 0 7 1) ∧ s.Due (.correctedError dev0.id 7 1) ∧ s.dev? dev0.id = some dev0) ∧
    (∀ u ∈ [ErrUnit.sReg 4 5, .memWord 0x20007], ∃ s, s = at' placed (.uncorrectedError 0 2 u) ∧ s.Due (.uncorrectedError dev0.id 2 u) ∧
      s.dev? dev0.id = some dev0) ∧
    ∃ s, s = ctxAt .runnable (.uncorrectedError 0 2 (.contextState 1)) { placed with clusters := [] } ∧
      s.Due (.uncorrectedError dev0.id 2 (.contextState (ctxIn .runnable).uid)) ∧ s.dev? dev0.id = some dev0 ∧ s.ctx? 1 = some (ctxIn .runnable) ∧
      (ctxIn .runnable).st = .runnable ∧ s.clusters = [] ∧ s.func? 0 1 = some func1 :=
  ⟨⟨_, rfl, due, rfl⟩, fun _ _ => ⟨_, rfl, due, rfl⟩, _, rfl, due, rfl, rfl, rfl, rfl, rfl⟩

theorem witness_Background :
    (∀ b ∈ [true, false], ∃ s, s = at' (staffed b) (.patrolScrub 0 9) ∧ s.Due (.patrolScrub dev0.id 9) ∧ s.dev? dev0.id = some dev0 ∧ s.svcRuns 0 21 = b) ∧
    (∀ b ∈ [true, false], ∃ s x, s = at' { staffed b with buckets := [x] } (.hbmRecalibration 0 5) ∧ x = { bucket0 0 0 0 with tokens := 14 } ∧
      s.Due (.hbmRecalibration dev0.id 5) ∧ s.dev? dev0.id = some dev0 ∧ dev0.parked = false ∧ s.svcRuns 0 21 = b ∧ x.dev = dev0.id ∧ x.port = 5 % 512 ∧ x.part = 0 ∧
      s.ctx? 0 = none) ∧
    (∀ b ∈ [true, false], ∃ s, s = at' (staffed b) (.telemetrySample 0) ∧ s.Due (.telemetrySample dev0.id) ∧ s.dev? dev0.id = some dev0 ∧
      s.svcRuns 0 21 = b) ∧
    (∃ s, s = at' { placed with funcs := [pfunc] } (.telemetryRead 0 none) ∧ s.Due (.telemetryRead dev0.id none) ∧ s.dev? 0 = some dev0 ∧ s.func? 0 0 = some pfunc) ∧
    ∃ s, s = parted (.telemetryRead 0 (some 1)) ∧ s.Due (.telemetryRead dev0.id (some part8.num)) ∧ s.dev? dev0.id = some dev0 ∧
      s.part? dev0.id part8.num = some part8 ∧ s.func? dev0.id part8.running = some func1 :=
  ⟨fun _ _ => ⟨_, rfl, due, rfl, rfl⟩, fun _ _ => ⟨_, _, rfl, rfl, due, rfl, rfl, rfl, rfl, rfl, rfl, rfl⟩, fun _ _ => ⟨_, rfl, due, rfl, rfl⟩,
    ⟨_, rfl, due, rfl, rfl⟩, _, rfl, due, rfl, rfl, rfl⟩

/-- The service core of partition 1 with a window of 64 KiB at 0x20000 as its first entry. -/
def core0 (e : BitVec 128) (running : Bool) : SvcCore :=
  { dev := 0, core := 0, running, window := [(1, e)], fault := none, reply := [], records := [] }
def cored (c : SvcCore) (e : Event) : State := at' { placed with svcCores := [c] } e

theorem svcOf {c : SvcCore} (e : Event) : (cored c e).svc? c.dev c.core = some c := by
  show List.find? (fun x : SvcCore => x.dev == c.dev && x.core == c.core) [c] = some c
  simp

/-- A window over 256 bytes at 0x20000, of kind 7, that partition 1 may load from. -/
def entry0 : BitVec 128 := .ofNat 128 (0x2000 * 2 ^ 80 + 0x10 * 2 ^ 44 + 7 * 2 ^ 36 + 2 ^ 35 + 2 ^ 20)

/-- The same, that may be passed on. -/
def entry1 : BitVec 128 := entry0 ||| .ofNat 128 (2 ^ 32)

/-- Accesses with the check of R424 that each fails, 0 for none. -/
def accesses : List (Word × WinAccess × Nat) :=
  [(0x0000000000000005, .store, 0), (0x0020000000000000, .load, 1), (0x00100000000000F8, .load, 0), (0x00100000000000F9, .load, 2),
   (0x0010000000000000, .store, 3), (0x0010000000000000, .kindLoad 6, 4), (0x0010000000000000, .kindLoad 7, 0)]

theorem witness_Windows :
    (∀ x ∈ accesses, ∀ n ∈ [0, 20], ∃ s c, s = cored c (.windowedAccess 0 n x.1 8 x.2.1 (.replicate 8 1)) ∧ c = { core0 entry0 true with core := n } ∧
      s.Due (.windowedAccess c.dev c.core x.1 8 x.2.1 (.replicate 8 1)) ∧ s.svc? c.dev c.core = some c ∧ c.running = true ∧ s.MemWf) ∧
    (∃ s e, s = cored (core0 e true) (.windowedAccess 0 0 0x0010000000000000 8 .store [1]) ∧ s.Due (.windowedAccess 0 0 0x0010000000000000 8 .store [1]) ∧
      e = entry0 ||| .ofNat 128 (2 ^ 34) ∧ winFault [(1, e)] 0x0010000000000000 8 .store = none) ∧
    (∃ s r, s = { cored (core0 entry0 true) (.windowedAccess 0 0 0x0020000000000000 8 .load []) with svcCores := [core0 entry0 true, r] } ∧
      r = { core0 0 true with core := 20 } ∧ s.Due (.windowedAccess 0 0 0x0020000000000000 8 .load []) ∧ s.svc? 0 20 = some r ∧ (core0 entry0 true).core ≠ 20) ∧
    (∀ x ∈ accesses, winFault (core0 entry0 true).window x.1 8 x.2.1 = if x.2.2 = 0 then none else some x.2.2) ∧
    (∀ n ∈ [0, 1, 4095, 4096], ∃ s c, s = cored c (.windowInstruction 0 0 n entry0) ∧ c = core0 0 true ∧ s.Due (.windowInstruction c.dev c.core n entry0) ∧
      s.svc? c.dev c.core = some c ∧ c.core < 20 ∧ winOwner entry0 = c.core + 1) ∧
    placed.regionOwned 0 1 (winBase entry0) (winSpan entry0) = true ∧
    (∃ s c x, s = { cored c (.windowInstruction 0 0 2 entry1) with svcCores := [c, x] } ∧ c = core0 0 true ∧ x = { core0 entry1 true with core := 21 } ∧
      s.Due (.windowInstruction c.dev c.core 2 entry1) ∧ s.svc? c.dev c.core = some c ∧ winRight entry1 0 = true ∧ winOwner entry1 = c.core + 1 ∧
      ∃ y ∈ x.window, y.2 = entry1) ∧
    ∀ b ∈ [true, false], ∃ s c, s = { at' placed (.serviceCoreImageRestart 0 0) with svcCores := c :: (staffed b).svcCores } ∧ c = { core0 0 false with fault := some (1, 1) } ∧
      s.Due (.serviceCoreImageRestart c.dev c.core) ∧ s.svc? c.dev c.core = some c ∧ s.svcRuns c.dev 20 = b :=
  ⟨fun _ _ n _ => ⟨_, _, rfl, rfl, due, svcOf _, rfl, rfl⟩, ⟨_, _, rfl, due, rfl, by decide +kernel⟩,
    ⟨_, _, rfl, rfl, ⟨rfl, rfl, rfl⟩, rfl, by decide⟩, by decide +kernel, fun _ _ => ⟨_, _, rfl, rfl, due, rfl, by decide, by decide⟩, by decide +kernel,
    ⟨_, _, _, rfl, rfl, rfl, ⟨rfl, rfl, rfl⟩, rfl, by decide, by decide, _, List.mem_singleton.2 rfl, rfl⟩,
    fun _ _ => ⟨_, _, rfl, rfl, ⟨rfl, rfl, rfl⟩, rfl, rfl⟩⟩

/-! ## Witnesses: fetching, the invariants and poison -/

/-- A machine whose next step runs a scalar word, and one whose next step runs a lane word. -/
def scalarTurn (word : Nat) : State := State.reset.place false word
def laneTurn : State := State.reset.place true 0x00430804_1030E008_00000000

/-- The state at its fetch. -/
def fetching (s : State) : State := (s.focus 4).issues none
def codeRead (s : State) : State :=
  ((fetching s).translate ((fetching s).whoOf (fetching s).cw) .fetch (fetching s).cw.pc.toNat false).2

/-- The state once its word `n` is fetched and counted. -/
def fetched (s : State) (n : Nat) : State := (codeRead s).fetched (fetching s).cw.wait.isSome [⟨0x50000, 0, n⟩] 4
def fetchedWord (s : State) (n : Nat) : State := { fetched s n with word := n }

theorem witness_Fetches : ∃ k, (scalarTurn 0x04310500).Fetches 4 k 0x50000 0 (fetched (scalarTurn 0x04310500) 0x04310500) 0x04310500 ∧
    decodeScalar 0x04310500 = .ok (.sadd 3 4 5) ∧ (fetchedWord (scalarTurn 0x04310500) 0x04310500).readsPoison (.sadd 3 4 5) = false :=
  ⟨_, ⟨rfl, rfl, by decide, by decide, rfl, by decide, by decide, ⟨codeRead (scalarTurn 0x04310500), Prod.ext (by decide +kernel) rfl,
    by decide +kernel, rfl⟩, (by decide +kernel : (fetched (scalarTurn 0x04310500) 0x04310500).poisonAt (.phys 0x50000 0) 4 (fun _ => true) = none)⟩, rfl,
    by decide +kernel⟩

theorem witness_EventTurns : (at' placed (.powerGood 0)).turn = .event (.powerGood 0) ∧ { placed with turn := .idle }.turn = .idle := ⟨rfl, rfl⟩

/-- The lane state at its fetch, and after each part of it. -/
def laneFetch : State := ((laneTurn.focus 4).focusPath 0).issues (some 0)
def laneFetched (n : Nat) (s : State) : State := (s.translate (s.whoOf s.cw) .fetch (0x60000 + 4 * n) false).2

def laneFetched1 : State := laneFetched 0 laneFetch
def laneFetched2 : State := laneFetched 1 laneFetched1
def laneFetched3 : State := laneFetched 2 laneFetched2

theorem witness_LaneTurn : ∃ k, laneTurn.turn = .lane 4 0 ∧ ((laneTurn.focus 4).focusPath 0).cw.uid = 4 ∧
    ((laneTurn.focus 4).focusPath 0).cp.live = true ∧ ((laneTurn.focus 4).focusPath 0).cp.id = 0 ∧
    ((laneTurn.focus 4).focusPath 0).laneReady ((laneTurn.focus 4).focusPath 0).cw = true ∧ ((laneTurn.focus 4).focusPath 0).cp.ready = true ∧
    laneFetch.kernelOf laneFetch.cw = some k ∧ laneFetch.cp.lpc = 0 ∧ laneFetch.cp.lpc < k.lwords ∧ k.lbase = 0x60000 :=
  ⟨_, rfl, rfl, rfl, rfl, by decide, by decide, rfl, rfl, by decide, rfl⟩

theorem witness_LaneFetches :
    (laneFetch.translate (laneFetch.whoOf laneFetch.cw) .fetch 0x60000 false).1 = .at 0x60000 0 ∧
    (laneFetched1.translate (laneFetched1.whoOf laneFetched1.cw) .fetch 0x60004 false).1 = .at 0x60004 0 ∧
    (laneFetched2.translate (laneFetched2.whoOf laneFetched2.cw) .fetch 0x60008 false).1 = .at 0x60008 0 ∧
    laneFetched1.CodeClean 0x60000 ∧ laneFetched2.CodeClean 0x60004 ∧ laneFetched3.CodeClean 0x60008 ∧
    Memory.readLE laneFetched1.mem 0x60000 4 + Memory.readLE laneFetched2.mem 0x60004 4 * 2 ^ 32 +
      Memory.readLE laneFetched3.mem 0x60008 4 * 2 ^ 64 = 0x00430804_1030E008_00000000 :=
  ⟨by decide +kernel, by decide +kernel, by decide +kernel,
    (by decide +kernel : laneFetched1.poisonAt (.phys 0x60000 0) 4 (fun _ => true) = none),
    (by decide +kernel : laneFetched2.poisonAt (.phys 0x60004 0) 4 (fun _ => true) = none),
    (by decide +kernel : laneFetched3.poisonAt (.phys 0x60008 0) 4 (fun _ => true) = none), by decide +kernel⟩

/-- VFMA.f32x2.rn v4, v1, v2, v3. -/
theorem test_decode_vfma : decodeTableWord 96 0x00430804_1030E008_00000000 =
    some (.vfma { stall := 0, d := 4, a := 1, b := 2, c := 3, k := 0, ty := 7, md := 8, imm := 0 }) := by decide

/-- A turn of the placed wave's scalar stream, with the trap due or the word that stops the fetch. -/
def turnOf (s : State) : Prop :=
  s.turn = .scalar 4 ∧ (s.focus 4).cw.uid = 4 ∧ (s.focus 4).scalarReady (s.focus 4).cw = true ∧ ((fetching s).kernelOf (fetching s).cw).isSome = true

/-- Its fetch of the word `n` at 0x50000, that the translation admits. -/
def reads50000 (s : State) (n : Nat) : Prop :=
  turnOf s ∧ (s.focus 4).cw.dueTrap = none ∧ (fetching s).inCode (fetching s).cw.pc = true ∧ (fetching s).cw.pc = 0x50000 ∧
    (fetching s).translate ((fetching s).whoOf (fetching s).cw) .fetch 0x50000 false = (.at 0x50000 0, codeRead s) ∧
    n = Memory.readLE (codeRead s).mem 0x50000 4 ∧ fetchedWord s n = { (codeRead s).fetched (fetching s).cw.wait.isSome [⟨0x50000, 0, n⟩] 4 with word := n }

theorem witness_FetchedTraps :
    (∃ s t, s = waveWith (s := scalarTurn 0) (fun w => { w with pending := pendingTraps }) ∧ turnOf s ∧ (s.focus 4).cw.dueTrap = some t ∧ t.lane = false ∧
      t.xfer = false) ∧
    (∀ p ∈ [({ cause := 0x30, lane := true } : Trap), { cause := 0x61, xfer := true }],
      (∃ s t i g, s = waveWith (s := scalarTurn 0x04310500) (fun w => { w with pending := [p] }) ∧ turnOf s ∧ (s.focus 4).cw.dueTrap = some t ∧
        (t.lane = true ∨ t.xfer = true) ∧ (fetching s).fetchScalar = .run i g ∧ ∃ v, exec i g = .next v) ∧
      ∃ s t v, s = waveWith (s := scalarTurn 0x300) (fun w => { w with pending := [p] }) ∧ turnOf s ∧ (s.focus 4).cw.dueTrap = some t ∧
        (t.lane = true ∨ t.xfer = true) ∧ (fetching s).fetchScalar = .done v) ∧
    (∃ s, s = waveWith (s := scalarTurn 0) (fun w => { w with pc := 0x50020 }) ∧ turnOf s ∧ (s.focus 4).cw.dueTrap = none ∧
      (fetching s).inCode (fetching s).cw.pc = false) ∧
    (∃ s k, s = onKernel (scalarTurn 0) (fun k => { k with pools := [(0, 8)] }) ∧ turnOf s ∧ (fetching s).kernelOf (fetching s).cw = some k ∧
      (fetching s).inCode (fetching s).cw.pc = true ∧ k.dataLine 0x50000 = true ∧ (fetching s).cw.pc = 0x50000) ∧
    (∃ s e v, s = { scalarTurn 0 with mem := [] } ∧ turnOf s ∧
      (fetching s).translate ((fetching s).whoOf (fetching s).cw) .fetch 0x50000 false = (.fault e, v)) ∧
    (∃ s, s = { scalarTurn 0 with poison := [.memWord 0x50000] } ∧ reads50000 s 0 ∧
      (fetchedWord s 0).poisonAt (.phys 0x50000 0) 4 (fun _ => true) = some 0) ∧
    (∃ e, reads50000 (scalarTurn 0x300) 0x300 ∧ decodeScalar 0x300 = .error e ∧ (fetchedWord (scalarTurn 0x300) 0x300).CodeClean 0x50000) ∧
    ∃ s, s = { scalarTurn 0x04310500 with poison := [.sReg 4 5] } ∧ reads50000 s 0x04310500 ∧ decodeScalar 0x04310500 = .ok (.sadd 3 4 5) ∧
      (fetchedWord s 0x04310500).CodeClean 0x50000 ∧ (fetchedWord s 0x04310500).readsPoison (.sadd 3 4 5) = true := by
  refine ⟨⟨_, _, rfl, ?_, rfl, rfl, rfl⟩, ?_, ⟨_, rfl, ?_, by decide, by decide⟩, ⟨_, _, rfl, ?_, rfl, by decide, by decide, by decide⟩,
    ⟨_, { cause := 0x10, reason := 0, stage := 1, level := 3 }, _, rfl, ?_, Prod.ext (by decide +kernel) rfl⟩,
    ⟨_, rfl, ⟨?_, by decide, by decide, rfl, Prod.ext (by decide +kernel) rfl, by decide +kernel, rfl⟩, by decide +kernel⟩,
    ⟨_, ⟨?_, by decide, by decide, rfl, Prod.ext (by decide +kernel) rfl, by decide +kernel, rfl⟩, rfl,
      (by decide +kernel : (fetchedWord (scalarTurn 0x300) 0x300).poisonAt (.phys 0x50000 0) 4 (fun _ => true) = none)⟩,
    _, rfl, ⟨?_, by decide, by decide, rfl, Prod.ext (by decide +kernel) rfl, by decide +kernel, rfl⟩, rfl,
      (by decide +kernel : (fetchedWord { scalarTurn 0x04310500 with poison := [.sReg 4 5] } 0x04310500).poisonAt (.phys 0x50000 0) 4 (fun _ => true) = none),
      by decide +kernel⟩
  case refine_2 =>
    intro p hp
    rcases List.mem_cons.1 hp with rfl | hp
    · exact ⟨⟨_, _, _, _, rfl, ⟨rfl, rfl, by decide, by decide⟩, rfl, .inl rfl, rfl, _, rfl⟩,
        ⟨_, _, _, rfl, ⟨rfl, rfl, by decide, by decide⟩, rfl, .inl rfl, rfl⟩⟩
    · cases List.mem_singleton.1 hp
      exact ⟨⟨_, _, _, _, rfl, ⟨rfl, rfl, by decide, by decide⟩, rfl, .inr rfl, rfl, _, rfl⟩,
        ⟨_, _, _, rfl, ⟨rfl, rfl, by decide, by decide⟩, rfl, .inr rfl, rfl⟩⟩
  all_goals exact ⟨rfl, rfl, by decide, by decide⟩

theorem witness_StaleHandles : (∀ e ∈ (demo).handles, e.ctx = 1 → e.index = (0xA0000000 : BitVec 32).toNat % 2 ^ 20 → e.obj = none ∨
      e.kind ≠ (0xA0000000 : BitVec 32).toNat / 2 ^ 28 ∨ e.gen ≠ (0xA0000000 : BitVec 32).toNat / 2 ^ 20 % 256) ∧
    ∃ s, s = withRegs demo [(5, 0xA0000000)] ∧ s.cw.region = none ∧ s.Clean [5] ∧ s.cw.wait = none ∧ (s.rs 5).setWidth 32 ≠ (0 : BitVec 32) ∧
      ∀ e ∈ handleWords 4 5 false, s.resolve s.cw.ctx ((s.rs 5).setWidth 32) e.2 = none :=
  ⟨by decide, _, rfl, rfl, (calls rfl rfl rfl).clean, rfl, by decide, by decide⟩

theorem witness_PoisonedData : (∃ p page u, { reads with poison := [.memWord 0x70000] }.Reaches .load (reads.rs 5) 8 (.phys p page) u ∧ reads.cw.region = none ∧
      (3 : BitVec 3) ≠ 7 ∧ reads.rs 5 + (0 : BitVec 11).signExtend 64 * .ofNat 64 8 = reads.rs 5 ∧ (reads.rs 5).toNat % 8 = 0 ∧
      isPeer reads.cw.dev p = false ∧ u.loadPoison (reads.rs 5).toNat (.phys p page) 8 = some 0) ∧
    ∃ s, s = { demo with poison := [.sReg 4 5] } ∧ s.cw.region = none ∧ s.cw.wait = none ∧ ErrUnit.sReg s.cw.uid 5 ∈ s.poison :=
  ⟨⟨_, _, _, rfl, rfl, by decide, by decide, by decide, by decide, by decide +kernel⟩, _, rfl, rfl, rfl, by decide⟩

theorem witness_Codings : (∀ i ∈ [Instr.sld 1 2 6 (-1), .fence true 2 3, .lwait 7, .reservedScalarOpcode 0x78000000], i.wf = true ∧ (encode i).isSome = true) ∧
    encode (.hpcWrite 3) = none ∧ encode .snop = some (32, 0) ∧ 0xA0000010 < 2 ^ 32 ∧ decodeScalar 0xA0000010 = .ok .wexit ∧
    (∃ i, decodeLane 0x00F20000_00000000_00000000 = .ok i) ∧ (∃ e, decodeScalar 0x300 = .error e) ∧
    ∃ r ∈ reservedFields, 0x300 / 2 ^ 26 = r.1 ∧ 0x300 / 2 ^ r.2.1.1 % 2 ^ r.2.1.2 ∈ r.2.2.1 ∧ ∃ f ∈ r.2.2.2, 0x300 / 2 ^ f.1 % 2 ^ f.2 ≠ 0 :=
  ⟨by decide, by decide, by decide, by decide, rfl, ⟨_, rfl⟩, ⟨_, rfl⟩, by decide⟩

theorem witness_Invariants : (scalarTurn 0x04310500).Canonical ∧ (scalarTurn 0x04310500).UidsGiven ∧ ∃ t, step (scalarTurn 0x04310500) = .next t :=
  ⟨⟨by decide +kernel, by decide +kernel⟩, by constructor <;> decide, ⟨_, rfl⟩⟩


/-! ## Witnesses: loading a kernel (R116 to R118) -/

/-- A header: two segments, key 0, one wave of 16 v registers, one core, a spill record of 4 KiB, no handler. -/
def header1 : List Byte :=
  leBytes 0x3143434F 4 ++ leBytes 1 2 ++ [2, 0] ++ leBytes 0 32 ++ [1, 1, 0, 0, 0x11, 0, 0, 0] ++ leBytes 0 4 ++ leBytes 4096 4 ++
    leBytes 0xFFFFFFFF 4 ++ leBytes 0 4

/-- A segment entry: kind, length, offset, signature offset and digest. -/
def entryOf (kind len off sig digest : Nat) : List Byte :=
  leBytes kind 4 ++ leBytes len 4 ++ leBytes off 8 ++ leBytes sig 8 ++ leBytes 0 8 ++ leBytes digest 32

/-- The code section of one word, HALT, with its SHA-256 digest, and the entry table of the index 0 with its own: digests of FIPS 180-4,
computed outside the model. -/
def container1 : List Byte :=
  header1 ++ entryOf 1 4 0x100 0x10000 0x50a4aa153d208dd856d451780b2dd4bac53bc12f4c3f0b4efff0241072ddab67 ++
    entryOf 5 4 0x108 0x20000 0x1911b814c02405e88c49bc52dc8a77ea48d73dc42d195740db2fa90498613fdf ++ leBytes 0 64 ++ leBytes 1 4 ++ leBytes 0 8

theorem test_sha256_of_a_word : Sha.digest [1, 0, 0, 0] = leBytes 0x50a4aa153d208dd856d451780b2dd4bac53bc12f4c3f0b4efff0241072ddab67 32 := by
  decide +kernel

/-- A created context without kernels, with an empty stage-1 table, a container at 0x40000 and a translation of the first GiB; its partition
owns the frames 2 to 9. -/
def loaderCtx : Ctx := { bootCtx with st := .created, kernels := [], slotsUsed := [] }
def loaderEntry : TlbEntry :=
  { dev := 0, core := 512, ctx := 1, va := 0, size := 2 ^ 30, base := 0, r := true, w := true, x := true, g := false, wb := true, leaf1 := 0x40000,
    leaf2 := 0x10000, ia := 0, ct1 := false, ct2 := false, dirty := true, count := 0, size1 := 2 ^ 30,
    size2 := 2 ^ 30, tables := [] }
def loading (e : Event) : State :=
  at' { placed with
    mem := [(0, 1), (2, 1), (0x10000, 0x7F)] ++ container1.zipIdx.filterMap fun x => if x.1 = 0 then none else some (0x40000 + x.2, x.1)
    owners := [{ dev := 0, first := 0, count := 2, code := 0xFF }, { dev := 0, first := 2, count := 8, code := 1 }]
    ctxs := [loaderCtx], parts := [part1], waves := [], teams := [], clusters := []
    tlb := [loaderEntry] } e
def load1 : State := loading (.kernelLoad 1 0x40000 0x10000000 0x20000000 0x30000000)

/-- The container as read. -/
def read1 : Container :=
  { header := header1, segs := [{ index := 0, entry := (container1.drop 64).take 64, bytes := [1, 0, 0, 0] },
                               { index := 1, entry := (container1.drop 128).take 64, bytes := [0, 0, 0, 0] }] }

theorem load1_read : load1.readContainer 1 0x40000 = some read1 := by decide +kernel

/-- The frames 2 to 9 are the partition's. -/
theorem load1_frame (va : Nat) (h1 : 0x20000 ≤ va) (h2 : va < 0xA0000) : load1.frameOk 0 1 va false = true := by
  have e1 : ¬ hostBase ≤ va := by simp only [hostBase]; omega
  have e2 : va / 2 ^ 43 = 0 := by omega
  have e3 : va % 2 ^ 43 = va := by omega
  have e4 : load1.frameCode 0 (va / 65536) = 1 := by
    have : load1.owners = [{ dev := 0, first := 0, count := 2, code := 0xFF }, { dev := 0, first := 2, count := 8, code := 1 }] := rfl
    have l1 : ¬ va / 65536 < 2 := by omega
    have l2 : 2 ≤ va / 65536 := by omega
    have l3 : va / 65536 < 10 := by omega
    simp [State.frameCode, this, l1, l2, l3]
  unfold State.frameOk
  rw [if_neg e1, e2, e3, e4]
  rfl

/-- Every byte of those frames is read. -/
theorem load1_at (va : Nat) (h1 : 0x20000 ≤ va) (h2 : va < 0xA0000) : (load1.translate (load1.engineOf 1) .load va false).1 = .at va 0 := by
  have hw : load1.windowAt (load1.engineOf 1).ctx va = none := rfl
  have hk : load1.kernelByte (load1.engineOf 1).ctx va = none := rfl
  have ht : load1.tlbHit (load1.engineOf 1) va = some loaderEntry := by
    have e1 : load1.tlb = [loaderEntry] := rfl
    have e2 : (load1.engineOf 1).dev = 0 ∧ (load1.engineOf 1).core = 512 ∧ (load1.engineOf 1).ctx = 1 := ⟨rfl, rfl, rfl⟩
    have hlt : va < 2 ^ 30 := by omega
    simp [State.tlbHit, e1, e2, loaderEntry] <;> omega
  have hs : load1.entryServes (load1.engineOf 1) .load va loaderEntry = true :=
    show (true && true && true && load1.frameOk 0 1 (0 + (va - 0)) false) = true by simpa using load1_frame va h1 h2
  simp only [State.translate, hw, hk, State.translateTables, ht, Option.filter, hs]
  show Xlate.at (0 + (va - 0)) 0 = .at va 0
  simp

theorem mapM_isSome {α β : Type} (f : α → Option β) : ∀ l : List α, (∀ x ∈ l, (f x).isSome = true) → (l.mapM f).isSome = true
  | [], _ => rfl
  | x :: l, h => by
    obtain ⟨y, hy⟩ := Option.isSome_iff_exists.1 (h x List.mem_cons_self)
    obtain ⟨z, hz⟩ := Option.isSome_iff_exists.1 (mapM_isSome f l fun x hx => h x (List.mem_cons_of_mem _ hx))
    simp [List.mapM_cons, hy, hz]

theorem load1_bytes (a n : Nat) (h1 : 0x20000 ≤ a) (h2 : a + n ≤ 0xA0000) : (load1.ctxBytes 1 a n).isSome = true := by
  refine mapM_isSome _ _ fun i hi => ?_
  have hi := List.mem_range.1 hi
  have h3 : (a + i) % 2 ^ 64 = a + i := by omega
  simp only [h3, load1_at (a + i) (by omega) (by omega)]
  rfl

/-- With signatures that verify, every segment passes. -/
theorem load1_step2 (hv : ∀ n m sig, Config.slhDsaVerify n m sig = true) (r : BitVec 256) :
    ∃ r', load1.checkStep2 loaderCtx 0x40000 read1 r read1.segs = (r', none) := by
  have hd : ∀ g ∈ read1.segs, (Sha.digest g.bytes == (g.entry.drop 0x20).take 32) = true ∧ leField g.entry 0x10 8 ≤ 0x20000 := by decide +kernel
  have hs : ∀ g ∈ read1.segs, load1.segmentVerified loaderCtx 0x40000 read1 g = true := by
    intro g hg
    have hb : (load1.ctxBytes loaderCtx.uid (0x40000 + leField g.entry 0x10 8) 7856).isSome = true :=
      load1_bytes _ _ (by omega) (by have := (hd g hg).2; omega)
    obtain ⟨sig, h⟩ := Option.isSome_iff_exists.1 hb
    simp only [State.segmentVerified, (hd g hg).1, h, hv, Bool.and_self]
  simp only [read1, State.checkStep2] at hs ⊢
  simp only [hs _ List.mem_cons_self, hs _ (List.mem_cons_of_mem _ List.mem_cons_self), if_true]
  exact ⟨_, rfl⟩

/-- With key 0 enrolled, the container passes step 1. -/
theorem load1_step1 (hk : Config.keyEnrolled 0 1 0 = true) : checkStep1 loaderCtx read1 = .ok () := by
  have h1 : headerOk read1.header = true := by decide +kernel
  have h2 : (read1.segs.find? fun s => !segmentOk s) = none := by decide +kernel
  have h3 : read1.countsOk = true ∧ read1.badIndex = none := by decide +kernel
  have h4 : (loaderCtx.dev = 0 ∧ loaderCtx.part = 1 ∧ read1.keyId = 0) ∧ loaderCtx.kernels.length = 0 ∧ ¬ loaderCtx.slotSize < leField read1.header 0x34 4 := by
    decide +kernel
  simp [checkStep1, h1, h2, h3, h4, hk]

theorem load1_maps : ∃ u n, load1.mapKernel loaderCtx read1 0x10000000 0x20000000 0x30000000 = some (u, n) := by
  have h1 : load1.draw.2.rangeFree loaderCtx.uid 0x10000000 (read1.bytes 1).length = true := by decide +kernel
  have h2 : load1.draw.2.rangeFree loaderCtx.uid 0x20000000 (read1.bytes 2).length = true := by decide +kernel
  have h3 : load1.draw.2.rangeFree loaderCtx.uid 0x30000000 (read1.bytes 3).length = true := by decide +kernel
  have h4 : load1.draw.2.spareFrames loaderCtx.dev loaderCtx.part = [3, 4, 5, 6, 7, 8, 9] := by decide +kernel
  have h5 : framesFor (read1.bytes 1).length = 1 ∧ framesFor (read1.bytes 2).length = 0 ∧ framesFor (read1.bytes 3).length = 0 := by decide +kernel
  have h6 : apart 0x10000000 (read1.bytes 1).length 0x20000000 (read1.bytes 2).length = true ∧
      apart 0x10000000 (read1.bytes 1).length 0x30000000 (read1.bytes 3).length = true ∧
      apart 0x20000000 (read1.bytes 2).length 0x30000000 (read1.bytes 3).length = true := by decide +kernel
  have h7 : ∀ n, ¬ ((([3, 4, 5, 6, 7, 8, 9] : List Nat).drop n ++ ([3, 4, 5, 6, 7, 8, 9] : List Nat).take n).take 1).length < 1 := by
    intro n; simp only [List.length_take, List.length_append, List.length_drop, List.length_cons, List.length_nil]; omega
  simp only [State.mapKernel, h1, h2, h3, h4, h5, h6, Nat.add_zero, h7, Bool.and_self, Bool.not_true, Bool.or_self, if_false, Bool.false_eq_true,
    decide_false]
  exact ⟨_, _, rfl⟩

theorem witness_KernelLoads_done (hk : Config.keyEnrolled 0 1 0 = true) (hv : ∀ n m sig, Config.slhDsaVerify n m sig = true) :
    load1.Due (.kernelLoad loaderCtx.uid 0x40000 0x10000000 0x20000000 0x30000000) ∧ load1.ctx? loaderCtx.uid = some loaderCtx ∧ loaderCtx.st = .created ∧
      load1.part? loaderCtx.dev loaderCtx.part = some part1 ∧ load1.readContainer loaderCtx.uid (0x40000 : Word).toNat = some read1 ∧
      checkStep1 loaderCtx read1 = .ok () ∧ (∃ r, load1.checkStep2 loaderCtx (0x40000 : Word).toNat read1 part1.attest read1.segs = (r, none)) ∧
      checkStep3 read1 = .ok () ∧ ∃ u n, load1.mapKernel loaderCtx read1 0x10000000 0x20000000 0x30000000 = some (u, n) :=
  ⟨due, rfl, rfl, by decide +kernel, load1_read, load1_step1 hk, load1_step2 hv _, rfl, load1_maps⟩

theorem witness_KernelLoads_refused :
    (∃ s, s = { loading (.kernelLoad 1 0 0 0 0) with owners := [] } ∧ s.Due (.kernelLoad loaderCtx.uid 0 0 0 0) ∧ s.ctx? loaderCtx.uid = some loaderCtx ∧
      s.part? loaderCtx.dev loaderCtx.part = some part1 ∧ s.readContainer loaderCtx.uid 0 = none) ∧
    (∃ s x, s = loading (.kernelLoad 1 0x50000 0 0 0) ∧ s.Due (.kernelLoad loaderCtx.uid 0x50000 0 0 0) ∧ s.readContainer loaderCtx.uid 0x50000 = some x ∧
      checkStep1 loaderCtx x = .error 0xFF ∧ x.segs = []) ∧
    ∃ s f k c, s = at' { placed with ctxs := [c] } (.kernelUnload 1 1) ∧ c = { bootCtx with st := .loaded } ∧
      s.Due (.kernelUnload c.uid 1) ∧ s.ctx? c.uid = some c ∧ s.func? c.dev c.func = some f ∧ c.kernel? 1 = some k ∧ s.launches = [] ∧ s.ports = [] ∧
      s.tiles = [] ∧ c.kernel? 2 = none := by
  refine ⟨⟨_, rfl, ⟨rfl, rfl, rfl⟩, rfl, rfl, by decide +kernel⟩, ⟨_, { header := .replicate 64 0, segs := [] }, rfl, due, by decide +kernel, rfl, rfl⟩,
    _, _, _, _, rfl, rfl, due, rfl, rfl, rfl, rfl, rfl, rfl, rfl⟩


/-! ## Witnesses: further clauses -/

/-- A copy of the wave in flight, and one that has ended. -/
theorem witness_HintsAndFences_copies :
    (∀ st ∈ [CopyState.started, .failed], (oneCopy st).cw.region = none ∧ (oneCopy st).cw.eng.queue = [] ∧ (oneCopy st).wcb = []) ∧
    (∃ c ∈ (oneCopy .started).copies, c.wave = (oneCopy .started).cw.uid ∧ c.st.ended = false) ∧
    (∀ c ∈ (oneCopy .failed).copies, c.wave = (oneCopy .failed).cw.uid → c.st.ended = true) ∧
    ∃ s : State, s = { demo with wcb := [wcb0 0x20000] } ∧ s.cw.eng.queue = [] ∧ ∃ e ∈ s.wcb, ∃ b ∈ e.bytes, b.wave = s.cw.uid :=
  ⟨by decide, by decide, by decide, _, rfl, rfl, _, List.mem_singleton.2 rfl, _, List.mem_singleton.2 rfl, rfl⟩

/-- Another wave of the executing wave's class on its core, whose scalar stream is ready. -/
theorem witness_WaveCalls_yield : ∃ s x, s = { demo with waves := demo.waves ++ [x] } ∧ s.Calls [4, 5] (ctxOf s) ∧ x ∈ s.waves ∧ x.dev = s.cw.dev ∧
    x.core = s.cw.core ∧ x.st.onCore = true ∧ x.uid ≠ s.cw.uid ∧ x.issueClass = s.cw.issueClass ∧ s.scalarReady x = true ∧ x.wait = none :=
  ⟨_, { bootWave false with uid := 6 }, rfl, calls rfl rfl rfl, List.mem_append_right _ (List.mem_singleton.2 rfl), rfl, rfl, rfl, by decide, rfl, by decide,
    rfl⟩

theorem witness_WaveCalls_paths : ∃ x, x = { bootWave true with uid := 6 } ∧ x.dev = demo.cw.dev ∧ x.core = demo.cw.core ∧ x.st.onCore = true ∧
    x.uid ≠ demo.cw.uid ∧ x.issueClass = demo.cw.issueClass ∧ demo.laneReady x = true ∧ ∃ p ∈ x.eng.paths, p.ready = true ∧ p.wait = .none :=
  ⟨_, rfl, rfl, rfl, rfl, by decide, rfl, by decide, by decide⟩

theorem witness_WaveCalls_release : endedWave.Calls [4, 5] (ctxOf endedWave) ∧ endedWave.cw.uid ≠ 0 ∧ endedWave.cw.joining = none ∧
    ∀ x ∈ endedWave.allWaves, x.uid ≠ endedWave.cw.uid → x.st ≠ .exited → x.joining ≠ some 6 :=
  ⟨calls rfl rfl rfl, by decide, rfl, by decide⟩

/-- WSADD of a batch that is not closed. -/
theorem witness_WaitSetWords_open : ∃ s, s = withRegs (waiting waitSet0 timer0) [(16, 1)] ∧ s.Calls (9 :: runOf 16 2) (ctxOf s) ∧
    (s.rs (SReg.plus 16 1)).toNat < 64 ∧ s.cw.closed < (s.rs 16).toNat :=
  ⟨_, rfl, calls rfl rfl rfl, by decide, by decide⟩

/-- A remote handle with `n` messages on their way. -/
def remoteAt (n : Nat) : State :=
  named1 kREMOTE { demo with ports := [{ port0 with uid := 30 }], remotes := [{ (default : Remote) with uid := 20, ctx := 1, port := 30, inFlight := n }] }

theorem witness_CloseWord_left :
    (∃ s w, s = { twoWaves with waves := demo.waves ++ [w] } ∧ w = { wave6 with joinable := false } ∧ s.Calls [4] (ctxOf s) ∧
      s.Names 4 [kWAVE, kREMOTE, kWSET, kTIMER, kWATCH, kCENSUS, kCOPY] kWAVE 6 ∧ s.wave? 6 = some w ∧ w.uid ≠ s.cw.uid ∧ w.joinable = false) ∧
    ∀ n ∈ [0, 1], ∃ s p r, s = named1 kREMOTE { demo with ports := [p], remotes := [r] } ∧ p = { port0 with uid := 30 } ∧
      r = { (default : Remote) with uid := 20, ctx := 1, port := 30, inFlight := n } ∧
      s.Names 9 [kWAVE, kREMOTE, kWSET, kTIMER, kWATCH, kCENSUS, kCOPY] kREMOTE 20 ∧ s.remote? 20 = some r ∧ r.reply = none ∧ s.port? 30 = some p := by
  refine ⟨⟨_, _, rfl, rfl, calls rfl rfl rfl, rfl, rfl, by decide, rfl⟩, fun n h => ?_⟩
  have hr : ∀ n ∈ [0, 1], (remoteAt n).resolve 1 (((remoteAt n).rs 9).setWidth 32) [kWAVE, kREMOTE, kWSET, kTIMER, kWATCH, kCENSUS, kCOPY] =
      some (kREMOTE, 20) := by decide
  exact ⟨_, _, _, rfl, rfl, rfl, hr n h, rfl, rfl, rfl⟩

/-- Device 1, which has its port, stands in the pod, and the link to it is up. -/
theorem witness_GrantSend_link : ∃ s, s = { lending with podW := 2, rimPorts := [rim0 .up, rim1 .up], devs := [dev0, { dev0 with id := 1 }] } ∧
    s.cw.poisonWait = false ∧ s.reachable s.cw.dev 1 = true ∧ s.wcb = [] ∧ s.lent = [] :=
  ⟨_, rfl, rfl, by decide +kernel, rfl, rfl⟩

/-- VST of both lanes in an open region, and VST .rel there. -/
def regionLanes : State := onWave (lanes2 0x70000) fun w => { w with region := some { irb := 0x50000, buf := [] } }
def relOp : LaneOp := { mop with c := 16 }

theorem witness_RegionLaneStore : LaneReady .vst mop regionLanes ∧ LaneReady .vst relOp regionLanes ∧ regionLanes.cw.region = some { irb := 0x50000, buf := [] } ∧
    relOp.c.toNat / 8 % 4 = 2 ∧ mop.c.toNat / 8 % 4 ≠ 2 ∧
    (∃ u, (laneLocate .store (laneAddress regionLanes mop) (vmBytes mop) (regionLanes.opMask mop)).run regionLanes = .ok places2 u ∧
      ∀ x ∈ places2, ∀ p page, x.2 = .phys p page → u.Uncounted page) ∧
    lanesApart (vmBytes mop) places2 ∧
    ((List.range 32).filter fun l => (regionLanes.opMask mop).getLsbD l) = [0, 1] ∧ vmBytes mop = 8 ∧
    (laneAddress regionLanes mop 0).toNat + 8 ≤ (laneAddress regionLanes mop 1).toNat :=
  ⟨ready (by decide), ready (by decide), rfl, by decide, by decide, ⟨_, rfl, fun x hx => by
      rcases List.mem_cons.1 hx with rfl | hx
      · exact fun _ _ h => by cases h; exact fun _ h => by cases h; exact ⟨rfl, rfl⟩
      · rcases List.mem_singleton.1 hx with rfl
        exact fun _ _ h => by cases h; exact fun _ h => by cases h; exact ⟨rfl, rfl⟩⟩, by unfold lanesApart; decide, by decide +kernel, by decide, by decide +kernel⟩

/-- A path of each slot, so that a divided one is a fragment: with room in the split table, and with a full one. -/
def slotted2 (n : Nat) (s : State) : State :=
  { onWave s fun w => { w with eng := { w.eng with paths := [{ lane.cp with id := 1, place := .slotB }] } } with
    waves := s.waves ++ (List.range n).map fun i => { bootWave true with uid := 100 + i, team := 2, eng := { (bootWave true).eng with paths := [{ lane.cp with id := 1, place := .fragment }] } } }

theorem witness_LaneBranches_fragment : ∃ s, s = slotted2 0 (withK1 0xF) ∧ LaneReady .lbr (branch 7) s ∧ s.otherSlot = none ∧
    s.splitUsed s.cw.dev s.cw.core + s.spilledOn s.cw.dev s.cw.core < 64 :=
  ⟨_, rfl, ready (by decide), by decide, by decide⟩

theorem witness_LaneBranches_full : ∃ s, s = slotted2 64 (withK1 0xF) ∧ LaneReady .lbr (branch 7) s ∧ s.otherSlot = none ∧
    ¬ s.splitUsed s.cw.dev s.cw.core + s.spilledOn s.cw.dev s.cw.core < 64 ∧ s.ctx? s.cw.ctx = some bootCtx ∧ s.sliceFull bootCtx = false ∧
    s.sliceFull { bootCtx with slice := 1 } = true :=
  ⟨_, rfl, ready (by decide), by decide, by decide +kernel, rfl, by decide, by decide⟩

/-- MJ whose gang names a wave that has ended, alone and with the entry of its gang; and one of another panel. -/
def deadGang : State := { latched 9 with waves := lane.waves ++ [{ wave6 with gang := 0x1002, st := .exited }] }

theorem witness_JointOperation_fails : LaneReady .mj mjOp deadGang ∧ deadGang.gangAlive 2 0x1002 = false ∧ deadGang.blockGang = 0x1002 ∧
    (∃ e, (deadGang.latch.find? fun x => x.gang = 0x1002) = some e ∧ e.team = 2 ∧ e.ty = mjOp.ty.toNat ∧ e.pa = 0 ∧
      ∀ b ∈ e.arrivals, b.tile ≠ (arrivalOf deadGang mjOp).tile) ∧
    (∃ s : State, s = { deadGang with latch := [] } ∧ s.gangAlive 2 0x1002 = false) ∧
    ∃ s : State, s = { latched 9 with latch := (latched 9).latch.map fun e => { e with pa := 64 } } ∧ LaneReady .mj mjOp s ∧ ∀ e ∈ s.latch, e.pa ≠ 0 :=
  ⟨ready (by decide), by decide, rfl, by decide, ⟨_, rfl, by decide⟩, _, rfl, ready (by decide), by decide⟩

/-- A launch that runs the kernel, and a census that names the responder table in which an entry of the kernel may answer. -/
theorem witness_KernelUnload_needed :
    (∃ s l, s = { placed with launches := [l] } ∧ l = launchOn 0xFF ∧ s.launchNeeds 1 (bitsOf (l.record.getD 0 0).toNat 0 8) = true) ∧
    ∃ s k t, s = { placed with censuses := [census0], tiles := [t] } ∧ k = { (bootCtx.kernels.headD default) with responders := [0] } ∧
      t = { tile0 .active with kernel := 1 } ∧ s.censusNeeds 1 k = true :=
  ⟨⟨_, _, rfl, rfl, by decide⟩, _, _, _, rfl, rfl, rfl, by decide⟩

/-- A segment whose digest is not that of its bytes. -/
def badSeg : Segment := { index := 0, entry := (container1.drop 64).take 64, bytes := [2, 0, 0, 0] }

theorem badSeg_digest : (Sha.digest badSeg.bytes == (badSeg.entry.drop 0x20).take 32) = false := by decide +kernel

theorem witness_KernelLoads_step2 : ∃ x r, x = { read1 with segs := [badSeg] } ∧ load1.checkStep2 loaderCtx 0x40000 x part1.attest x.segs = (r, some 0) :=
  ⟨_, part1.attest, rfl, by simp only [State.checkStep2, State.segmentVerified, badSeg_digest, Bool.false_and, Bool.false_eq_true, if_false]; rfl⟩

/-- A pool of 12 words fails at step 3. -/
theorem witness_KernelLoads_step3 : ∃ x, x = { read1 with segs := read1.segs ++
      [{ index := 2, entry := entryOf 4 8 0x110 0 0, bytes := leBytes 0 4 ++ leBytes 12 4 }] } ∧ checkStep3 x = .error 2 :=
  ⟨_, rfl, rfl⟩

/-- A base that is no multiple of 4 KiB is refused at step 4, after the others have passed. -/
theorem witness_KernelLoads_step4 : load1.mapKernel loaderCtx read1 0x10000800 0x20000000 0x30000000 = none := by
  have h : load1.draw.2.rangeFree loaderCtx.uid 0x10000800 (read1.bytes 1).length = false := by decide +kernel
  simp only [State.mapKernel, h, Bool.false_and, Bool.not_false, Bool.true_or, if_true]

/-- A copy's trap or a lane's, before which the wave's next word goes. -/
theorem witness_TrapEntries_left : ∀ p ∈ [({ cause := 0x30, lane := true } : Trap), { cause := 0x61, xfer := true }], ∃ s w t,
    s = at' (waveWith (fun w => { w with pending := [p] }) { onKernel placed (fun k => { k with handler := some 4 }) with cp := placed.cp }) (.trapEntry 4) ∧
      s.Due (.trapEntry 4) ∧ s.waves.find? (·.uid == 4) = some w ∧ (s.focus 4).atBoundary w = true ∧ w.dueTrap = some t ∧ (t.lane = true ∨ t.xfer = true) ∧
      w.wait = none ∧ (s.focus 4).scalarReady w = true := by
  intro p hp
  rcases List.mem_cons.1 hp with rfl | hp
  · exact ⟨_, _, _, rfl, due, rfl, by decide, rfl, .inl rfl, rfl, by decide⟩
  · cases List.mem_singleton.1 hp
    exact ⟨_, _, _, rfl, due, rfl, by decide, rfl, .inr rfl, rfl, by decide⟩

/-- A result in the memory of device 1, which no link reaches; and a census with one word of its result stored. -/
def faraway : State :=
  { censusAt [] census1 (.censusComplete 20) with tlb := [{ peerEntry with core := 512 }] }

theorem witness_CensusEnds_fault : (∃ p page u, faraway.Due (.censusComplete 20) ∧ faraway.census? 20 = some census1 ∧
      (faraway.draw.2.translate (faraway.engineOf census1.ctx) .store census1.result.toNat false) = (.at p page, u) ∧
      u.resultLands (faraway.engineOf census1.ctx) p = false) ∧
    ∃ s c, s = censusAt [] c (.censusComplete 20) ∧ c = { census1 with part := some (true, 5) } ∧ s.Due (.censusComplete 20) ∧ s.census? 20 = some c :=
  ⟨⟨0x80000000000, 0x70000, (faraway.draw.2.translate (faraway.engineOf census1.ctx) .store census1.result.toNat false).2, ⟨rfl, rfl, rfl⟩, rfl,
    Prod.ext (by decide +kernel) rfl, by decide +kernel⟩, _, _, rfl, rfl, due, rfl⟩

/-- A TMOVE that waits for its commit, and one whose move has been committed. -/
theorem witness_TileWords_commit : ∀ k ∈ [WaitKind.move, .moved], ∃ s r, s = onWave (tiles .moving) (fun w => { w with wait := some r }) ∧
    r = { (default : WaitRec) with kind := k, obj := 20 } ∧ s.Calls [] (ctxOf demo) ∧ s.cw.wait = some r :=
  fun _ _ => ⟨_, _, rfl, rfl, calls rfl rfl rfl, rfl⟩

theorem witness_LateWords : ∃ s t : State, s.turn = .idle ∧ step s = .next t :=
  ⟨{ State.reset with turn := .idle }, _, rfl, rfl⟩

/-! ## WellFormed refuses -/

/-- An ill-formed term for each check, beside a well-formed one at the bound. -/
theorem test_wellformed :
    (∀ i ∈ [Instr.sbfx 1 2 60 4, .sbfxs 1 2 1 63, .sbfi 1 2 63 1, .sld 1 2 7 0, .spref 2 7 0, .sst 1 2 4 0, .fence false 3 0, .lwait 8,
        .reservedScalarOpcode 0x04310500, .reservedLaneOpcode 0x00430804_1030E008_00000000], i.wf = false) ∧
      ∀ i ∈ [Instr.sbfx 1 2 60 3, .sbfxs 1 2 1 62, .sbfi 1 2 63 0, .sld 1 2 6 0, .spref 2 6 0, .sst 1 2 3 0, .fence true 2 3, .lwait 7,
        .reservedScalarOpcode 0x0400000F, .reservedLaneOpcode 0x00150000_00000000_00000000], i.wf = true := by decide

/-- Opcodes that R66 and R79 reserve, and a scalar word with a reserved bit set, which no instruction is. -/
theorem test_decode_reserved : decodeTableWord 32 0x38000000 = some (.reservedScalarOpcode 0x38000000) ∧
    decodeTableWord 96 0x00150000_00000000_00000000 = some (.reservedLaneOpcode 0x00150000_00000000_00000000) ∧
    decodeTableWord 32 0x00000100 = none ∧ decodeTableWord 32 0x40500000 = some (.bnez 16 0) := by decide

/-- The pair of the example of chapter 03: VADD.i32x2 v1, v2, s48 in slot X and VLANEID v3 in slot Y, STALL 2. -/
theorem test_decode_pair : decodeTableWord 96 0x24000410_003002B0_60000000 = some (.laneWordPair 2
    { op9 := 0, d := 1, a := 2, b := 0, k := 0, ty := 1, md := 0x80 } { op9 := 0x2B, d := 3, a := 0, b := 0, k := 0, ty := 0, md := 0 }) := by decide

/-! ## Single steps -/

/-- The state after an instruction. -/
def after (i : Instr) (s : State) : State :=
  match exec i s with
  | .next t => t
  | _ => s

/-- A value in every lane of v registers; v4 is 0 in every lane. -/
def onLanes (l : List (Nat × Word)) : State :=
  { lane with cw := { lane.cw with v := l.foldl (fun v e => v.set! e.1 (.replicate 32 e.2)) (lane.cw.v.set! 4 (.replicate 32 0)) } }
def vAt (s : State) (r l : Nat) : Word := (s.cw.v[r]!)[l]!

/-- A placed machine fetches the word at its pc and goes on at the next one (R64). -/
theorem test_step_runs_the_placed_word : (match step (State.reset.withFetchWord 32 0x04310500) with
    | .next t => (t.wave? 4).map (·.pc)
    | _ => none) = some 0x50004 := by decide +kernel

/-- SADD wraps (R161). -/
theorem test_sadd_wraps : (after (.sadd 3 4 5) (withRegs demo [(4, BitVec.allOnes 64), (5, 2)])).rs 3 = 1 := by decide

/-- Division by zero gives ones and the dividend's remainder (R54). -/
theorem test_sdiv_by_zero : (after (.sdiv 3 4 5) (withRegs demo [(4, 7), (5, 0)])).rs 3 = BitVec.allOnes 64 ∧
    (after (.srem 3 4 5) (withRegs demo [(4, 7), (5, 0)])).rs 3 = 7 := by decide

/-- SBFX of the 4 bits from bit 8 (R164). -/
theorem test_sbfx : (after (.sbfx 3 4 8 3) (withRegs demo [(4, 0x12345)])).rs 3 = 3 ∧ (after (.sbfxs 3 4 8 1) (withRegs demo [(4, 0x300)])).rs 3 = -1 := by
  decide

/-- SADDI of a negative immediate (R163). -/
theorem test_saddi_negative : (after (.saddi 49 8 (-3)) (withRegs demo [(8, 1)])).rs 49 = -2 := by decide

/-- A branch counts words from its own (R166). -/
theorem test_bnez_taken : (after (.bnez 9 5) (withRegs demo [(9, 1)])).cw.pc = 0x50014 ∧ (after (.bnez 9 5) demo).cw.pc = 0x50004 := by decide

/-- CALL saves the next word's address in s62 (R167). -/
theorem test_call_links : (after (.call 3) demo).cw.pc = 0x5000C ∧ (after (.call 3) demo).rs 62 = 0x50004 := by decide

/-- TRAP takes USER_TRAP with its code in HINFO (R181, R388). -/
theorem test_trap_enters : let t := after (.trap 10) handled
    t.cw.hcause = 0x41 ∧ t.cw.level = .handler ∧ t.cw.hinfo = 10 ∧ t.cw.hpc = 0x50000 ∧ t.cw.pc = 0x50010 := by decide

/-- The example of R51: an E4M3 sum that overflows, with and without saturation. -/
theorem test_vfadd_e4m3 :
    vAt (after (.vfadd (op2 0xA 0 8)) (onLanes [(1, 0x387F7E), (2, 0x383868)])) 4 0 = 0x407F7F ∧
    vAt (after (.vfadd (op2 0xA 0 24)) (onLanes [(1, 0x387F7E), (2, 0x383868)])) 4 0 = 0x407F7E := by decide +kernel

/-- VSWZ with 0x0123 reverses four sub-elements (R206). -/
theorem test_vswz_reverses : vAt (after (.vswz (op2 0x9)) (onLanes [(1, 0x4444333322221111), (2, 0x0123)])) 4 5 = 0x1111222233334444 := by decide +kernel

/-- The block of the example after R206: its scale, and its codes under RN. -/
theorem test_block_scale : vAt (after (.vbscale (op2 0x9)) (onLanes [(1, 0x41404040BF803F00), (2, 0x40E00000C0A04000)])) 4 0 = 0x80 := by
  decide +kernel
theorem test_block_quantise :
    vAt (after (.vbquant (op 0x9 0 8)) (onLanes [(1, 0x41404040BF803F00), (2, 0x40E00000C0A04000), (3, 0x80)])) 4 0 = 0x60C27390 := by decide +kernel

/-- The example of R220: a running sum of i mod 4. -/
def mod4 : State := { lane with cw := { lane.cw with v := (onLanes []).cw.v.set! 1 (.ofFn fun i => .ofNat 64 (i.val % 4)) } }
theorem test_vscan_example : let t := after (.vscan (op1 0)) mod4
    [vAt t 4 5, vAt t 4 15, vAt t 4 31] = [7, 24, 48] := by decide +kernel
theorem test_vballot_example : (after (.vballot { op1 0 with d := 1, ty := 0 }) mod4).cw.q[1]! = 0xFFFFFFFFEEEEEEEE := by decide +kernel

end Sys2Proof.Tests
end

section
/-!
The bit-field words (R164) and SSEL (R165): the value of a bit field and the bits of an insertion, the two outcomes of a bit-field
word, the fields of the words of majors 0x0C and 0x0D, and the turn of a fetched word that does not decode.
-/

namespace Sys2Proof.Machine

/-! ## The bits of a field -/

/-- The field that the model reads as a number is the extracted bit vector. -/
theorem fieldW_eq_toNat (x : Word) (p n : Nat) : fieldW x p n = (x.extractLsb' p n).toNat := by
  rw [BitVec.extractLsb'_toNat, Nat.shiftRight_eq_div_pow, fieldW, bitsOf]

/-- SBFX's value (R164). -/
theorem ofNat_fieldW (x : Word) (p n m : Nat) : BitVec.ofNat m (fieldW x p n) = (x.extractLsb' p n).setWidth m := by
  rw [fieldW_eq_toNat, BitVec.ofNat_toNat]

/-- SBFXS's value (R164). -/
theorem sext64_fieldW (x : Word) (p n : Nat) : sext64 (BitVec.ofNat n (fieldW x p n)) = (x.extractLsb' p n).signExtend 64 := by
  rw [ofNat_fieldW, BitVec.setWidth_eq, sext64]

/-- The mask of SBFI has the bits of the field. -/
theorem getLsbD_fieldMask {i : Nat} (p n : Nat) (hi : i < 64) :
    (BitVec.ofNat 64 ((2 ^ n - 1) * 2 ^ p)).getLsbD i = decide (p ≤ i ∧ i < p + n) := by
  rw [BitVec.getLsbD_ofNat, Nat.testBit_mul_two_pow, Nat.testBit_two_pow_sub_one, decide_eq_true hi, Bool.true_and,
    ← Bool.decide_and, decide_eq_decide]
  omega

/-- The low bits of `x` in place of the `n` bits of `y` from bit `p`, as SBFI merges them. -/
def insertW (x y : Word) (p n : Nat) : Word :=
  let m : Word := .ofNat 64 ((2 ^ n - 1) * 2 ^ p)
  (y &&& ~~~m) ||| ((x <<< p) &&& m)

/-- SBFI's value (R164), bit by bit. -/
theorem getLsbD_insertW {i : Nat} (x y : Word) (p n : Nat) (hi : i < 64) :
    (insertW x y p n).getLsbD i = if p ≤ i ∧ i < p + n then x.getLsbD (i - p) else y.getLsbD i := by
  simp only [insertW, BitVec.getLsbD_or, BitVec.getLsbD_and, BitVec.getLsbD_not, BitVec.getLsbD_shiftLeft,
    getLsbD_fieldMask p n hi]
  by_cases hf : p ≤ i ∧ i < p + n <;> simp [hf, hi]

/-! ## What a bit-field word does -/

theorem exec_sbfx (d a : SReg) (p len : BitVec 6) (s : State) :
    exec (.sbfx d a p len) s = s.bitField d p len fun p n => ((s.rs a).extractLsb' p n).setWidth 64 := by
  simp only [← ofNat_fieldW]
  rfl

theorem exec_sbfxs (d a : SReg) (p len : BitVec 6) (s : State) :
    exec (.sbfxs d a p len) s = s.bitField d p len fun p n => ((s.rs a).extractLsb' p n).signExtend 64 := by
  simp only [← sext64_fieldW]
  rfl

theorem exec_sbfi (d a : SReg) (p len : BitVec 6) (s : State) :
    exec (.sbfi d a p len) s = s.bitField d p len (insertW (s.rs a) (s.rs d)) := rfl

/-- A field inside the register: the word completes. -/
theorem bitField_of_fits {p len : BitVec 6} (s : State) (d : SReg) (f : Nat → Nat → Word) (h : p.toNat + (len.toNat + 1) ≤ 64) :
    s.bitField d p len f = .next (s.done d (f p.toNat (len.toNat + 1))) :=
  if_neg (Nat.not_lt.mpr h)

/-- A field that passes bit 63: the word traps. -/
theorem bitField_of_passes {p len : BitVec 6} (s : State) (d : SReg) (f : Nat → Nat → Word) (h : 64 < p.toNat + (len.toNat + 1)) :
    s.bitField d p len f = .next (s.takeTrap { cause := ILLEGAL_OP }) :=
  if_pos h

/-! ## The words of majors 0x0C and 0x0D -/

/-- Six bits of a number, as a register number. -/
theorem ofNat_of_digit {x : Nat} {r : BitVec 6} (h : x % 64 = r.toNat) : BitVec.ofNat 6 x = r :=
  BitVec.eq_of_toNat_eq h

theorem decodeScalar_of_major0C {n : Nat} (h : bitsOf n 26 6 = 0x0C) : decodeScalar n = decodeMajor0C n := by
  simp only [decodeScalar, h]

theorem decodeScalar_of_major0D {n : Nat} (h : bitsOf n 26 6 = 0x0D) :
    decodeScalar n =
      keep (bitsOf n 6 2 == 0) "SSEL" (.ssel (.ofNat 6 (n / 2 ^ 20)) (.ofNat 6 (n / 2 ^ 14)) (.ofNat 6 (n / 2 ^ 8)) (.ofNat 6 n)) := by
  simp only [decodeScalar, h]

/-- A word of major 0x0C: selector, d, a, position and length less 1 (R63). -/
def bitFieldWord (sel : Nat) (d a : SReg) (p len : BitVec 6) : Nat :=
  0x0C * 2 ^ 26 + d.toNat * 2 ^ 20 + a.toNat * 2 ^ 14 + sel * 2 ^ 12 + p.toNat * 2 ^ 6 + len.toNat

section
variable {sel : Nat} (hsel : sel < 4) (d a : SReg) (p len : BitVec 6)
include hsel

theorem bitFieldWord_major : bitsOf (bitFieldWord sel d a p len) 26 6 = 0x0C := by
  unfold bitsOf bitFieldWord
  omega

theorem bitFieldWord_selector : bitsOf (bitFieldWord sel d a p len) 12 2 = sel := by
  unfold bitsOf bitFieldWord
  omega

theorem bitFieldWord_d : BitVec.ofNat 6 (bitFieldWord sel d a p len / 2 ^ 20) = d :=
  ofNat_of_digit (by unfold bitFieldWord; omega)

theorem bitFieldWord_a : BitVec.ofNat 6 (bitFieldWord sel d a p len / 2 ^ 14) = a :=
  ofNat_of_digit (by unfold bitFieldWord; omega)

end

theorem bitFieldWord_p (sel : Nat) (d a : SReg) (p len : BitVec 6) : BitVec.ofNat 6 (bitFieldWord sel d a p len / 2 ^ 6) = p :=
  ofNat_of_digit (by unfold bitFieldWord; omega)

theorem bitFieldWord_len (sel : Nat) (d a : SReg) (p len : BitVec 6) : BitVec.ofNat 6 (bitFieldWord sel d a p len) = len :=
  ofNat_of_digit (by unfold bitFieldWord; omega)

/-- The three bit-field words and the reserved selector (R164). -/
theorem decodeScalar_bitFieldWord (d a : SReg) (p len : BitVec 6) :
    decodeScalar (bitFieldWord 0 d a p len) = .ok (.sbfx d a p len) ∧
      decodeScalar (bitFieldWord 1 d a p len) = .ok (.sbfxs d a p len) ∧
      decodeScalar (bitFieldWord 2 d a p len) = .ok (.sbfi d a p len) ∧
      decodeScalar (bitFieldWord 3 d a p len) = .ok (.reservedScalarOpcode (.ofNat 32 (bitFieldWord 3 d a p len))) := by
  refine ⟨?_, ?_, ?_, ?_⟩ <;>
    rw [decodeScalar_of_major0C (bitFieldWord_major (by decide) d a p len), decodeMajor0C, bitFieldWord_selector (by decide),
      bitFieldWord_d (by decide), bitFieldWord_a (by decide), bitFieldWord_p, bitFieldWord_len]
  all_goals rfl

/-- SSEL's word (R165): its fields read back, with fn[7:6] 0. -/
theorem decodeScalar_selectWord (d a b c : SReg) :
    decodeScalar (0x0D * 2 ^ 26 + d.toNat * 2 ^ 20 + a.toNat * 2 ^ 14 + b.toNat * 2 ^ 8 + c.toNat) = .ok (.ssel d a b c) := by
  rw [decodeScalar_of_major0D (by unfold bitsOf; omega)]
  have reserved : bitsOf (0x0D * 2 ^ 26 + d.toNat * 2 ^ 20 + a.toNat * 2 ^ 14 + b.toNat * 2 ^ 8 + c.toNat) 6 2 = 0 := by
    unfold bitsOf; omega
  rw [reserved, ofNat_of_digit (r := d) (by omega), ofNat_of_digit (r := a) (by omega), ofNat_of_digit (r := b) (by omega),
    ofNat_of_digit (r := c) (by omega)]
  rfl

/-- A word of major 0x0D with fn[7:6] not 0 is refused (R62, R165). -/
theorem decodeScalar_selectWord_reserved {n : Nat} (hm : n / 2 ^ 26 = 0x0D) (hf : n / 2 ^ 6 % 4 ≠ 0) :
    decodeScalar n = .error (.reservedField "SSEL") := by
  rw [decodeScalar_of_major0D (by unfold bitsOf; omega), keep, if_neg (by simpa [bitsOf] using hf)]

/-! ## The turn of a fetched word that does not decode -/

/-- A translated part of code holds the bytes that memory has there. -/
theorem fetchPart_at {s x : State} {a p page : Nat} (n : Nat) (h : s.translate (s.whoOf s.cw) .fetch a false = (.at p page, x)) :
    s.fetchPart a n = (.ok ⟨p, page, Memory.readLE x.mem p n⟩, x) := by
  rw [State.fetchPart, h]

/-- The turn of a scalar stream with no trap due fetches the word at its pc. -/
theorem fetchTurn_of_fetches {s v : State} {u p page n : Nat} {k : Kernel} (F : s.Fetches u k p page v n) :
    s.fetchTurn = ((s.focus u).issues none).fetchScalar := by
  simp [State.fetchTurn, F.turn, F.wave, F.ready, F.untrapped]

/-- A fetched word that the decoder refuses traps ILLEGAL_OP at its pc (R62, R66). -/
theorem fetchScalar_of_undecodable {s v : State} {u p page n : Nat} {k : Kernel} {e : DecodeError} (F : s.Fetches u k p page v n)
    (h : decodeScalar n = .error e) :
    ((s.focus u).issues none).fetchScalar = .done ({ v with word := n }.takeTrap { cause := ILLEGAL_OP }) := by
  obtain ⟨x, hx, hn, hv⟩ := F.page
  have clean : ({ v with word := n } : State).poisonAt (.phys p 0) 4 (fun _ => true) = none := F.clean
  rw [hv] at clean ⊢
  simp only [State.fetchScalar, F.kernel, F.code, F.pool, fetchPart_at 4 hx, hn, h, clean, Bool.not_true, Bool.false_eq_true, if_false]

/-- A turn that its fetch settles. -/
theorem step_of_fetch_done {s t : State} {u : Nat} (ht : s.turn = .scalar u) (h : s.fetchTurn = .done t) : step s = .next t.rest := by
  simp only [step, ht, h]

/-- The step of a scalar stream whose word the decoder refuses. -/
theorem step_of_undecodable {s v : State} {u p page n : Nat} {k : Kernel} {e : DecodeError} (F : s.Fetches u k p page v n)
    (h : decodeScalar n = .error e) : step s = .next ({ v with word := n }.takeTrap { cause := ILLEGAL_OP }).rest :=
  step_of_fetch_done F.turn ((fetchTurn_of_fetches F).trans (fetchScalar_of_undecodable F h))

/-! ## The obligations -/

/-- Settles O3: a field that fits is written by `bitField_of_fits`, one that does not traps by `bitField_of_passes`, and the words decode
by their fields. -/
theorem bitFieldWords : Obligations.BitFieldWords := by
  refine ⟨fun d a p len s => ⟨fun h => ⟨?_, ?_, ?_⟩, fun h i hi => ?_⟩, fun d a p len => ?_, fun w s => rfl⟩
  · exact ⟨_, (exec_sbfx d a p len s).trans (bitField_of_fits s d _ h), done_writes s d _⟩
  · exact ⟨_, (exec_sbfxs d a p len s).trans (bitField_of_fits s d _ h), done_writes s d _⟩
  · exact ⟨_, _, (exec_sbfi d a p len s).trans (bitField_of_fits s d _ h), done_writes s d _,
      fun i hi => getLsbD_insertW (s.rs a) (s.rs d) p.toNat (len.toNat + 1) hi⟩
  · simp only [List.mem_cons, List.not_mem_nil, or_false] at hi
    obtain rfl | rfl | rfl := hi
    · exact (exec_sbfx d a p len s).trans (bitField_of_passes s d _ h)
    · exact (exec_sbfxs d a p len s).trans (bitField_of_passes s d _ h)
    · exact (exec_sbfi d a p len s).trans (bitField_of_passes s d _ h)
  · obtain ⟨hx, hxs, hi, hr⟩ := decodeScalar_bitFieldWord d a p len
    exact ⟨hx, hxs, hi, _, hr⟩

/-- Settles O4: SSEL writes the register selected, its word decodes by its fields, and a word with fn[7:6] not 0 is refused by the
decoder, so its turn traps. -/
theorem selectWord : Obligations.SelectWord :=
  ⟨fun _ a b c s => ⟨_, rfl, done_writes' (ite_not (s.rs c = 0) (s.rs a) (s.rs b))⟩, decodeScalar_selectWord,
    fun _ _ _ _ _ _ _ F hm hf => step_of_undecodable F (decodeScalar_selectWord_reserved hm hf)⟩

end Sys2Proof.Machine
end
